-- ==== Sys2Proof/Word.lean ====
section
/-! DEFINITION. The word types of the model: bytes and the 32-bit and 64-bit words that the manual treats as bits.
Counts, addresses and residues are natural numbers; arithmetic that wraps says its modulus. -/

namespace Sys2Proof

/-- A byte. -/
abbrev Byte := BitVec 8

/-- A 32-bit word. -/
abbrev Word32 := BitVec 32

/-- A 64-bit word. -/
abbrev Word64 := BitVec 64

/-- A compute die, 0 to 7 (R465). -/
abbrev DieId := Fin 8

/-- A Chive core of a die, 0 to 7 (R16). -/
abbrev CoreId := Fin 8

/-- A queue of a die, 0 to 127 (R265). -/
abbrev QueueId := Fin 128

end Sys2Proof
end

