-- ==== Sys2Proof/Syntax.lean ====
section
/-! DEFINITION. The commands: one constructor for each row of the table of operations and events, with the operands
that the row's rule gives it. The table gives the rows no bits; the operands are read from the rules. What the part
reads from outside itself (host memory, sensors, the wire, the pins) comes with the command that reads it. -/

namespace Sys2Proof

/-- The widths of a core's memory access, in bytes 1, 2, 4 and 8. -/
inductive AccessWidth where
  | w1 | w2 | w4 | w8
  deriving DecidableEq, Repr

/-- The bytes of an access. -/
def AccessWidth.bytes : AccessWidth → Nat
  | .w1 => 1
  | .w2 => 2
  | .w4 => 4
  | .w8 => 8

/-- An error that strikes a stored word before the command reads it (R255–R257, R293–R295): the scratchpad row
(die, bank, row) or the sector of stacked memory (die, channel of MEM_CHMAP, slot, sector), and whether the code can
correct it. -/
inductive Upset where
  | row (die : DieId) (bank : Fin 64) (row : BitVec 16) (uncorrectable : Bool)
  | sector (die : DieId) (chan : Fin 32) (slot : BitVec 24) (sec : Fin 4) (uncorrectable : Bool)
  | ondie (die : DieId) (core : CoreId)
  deriving DecidableEq, Repr

/-- What a Chive core's ordinary instructions (RV64IMAC, Zicsr) did since its last command: the pc of the instruction
that the command is, the x registers and the bytes of private data memory they wrote, and how many retired. -/
structure Progress where
  pc : Word64
  xs : List (Fin 32 × Word64)
  ms : List (BitVec 18 × Byte)
  retired : Nat
  deriving DecidableEq, Repr

/-- The traffic that a die bridge lost (R272): a read, by the unit whose end code is given; a write to a handle; or a
channel entry of the die's channel table. -/
inductive BridgeLoad where
  | read (unit : BitVec 8)
  | write (handle : BitVec 16)
  | entry (ch : Fin 32)
  deriving DecidableEq, Repr

/-- The commands of the part, in the table's order. -/
inductive Instr where
  /-- SQ_DOORBELL (R315): Host writes a new tail to a submission ring doorbell; the part checks and accepts or ignores it. -/
  | sqDoorbell (r : Fin 64) (tail : Word32)
  /-- CQ_DOORBELL (R315): Host writes a new head to a completion ring doorbell, freeing completion slots. -/
  | cqDoorbell (c : Fin 64) (head : Word32)
  /-- EQ_DOORBELL (R315): Host writes a new head to the event ring doorbell. -/
  | eqDoorbell (head : Word32)
  /-- SHADOW_POLL (R316): Every 2 us while POLL is 1 the part reads a shadow tail and treats a changed value as a doorbell write. -/
  | shadowPoll (r : Fin 64) (tail : BitVec 16)
  /-- SHADOW_POLL_IDLE (R316): After 50 us without a new entry the part writes POLL = 0 and reads the shadow tail once more. -/
  | shadowPollIdle (r : Fin 64) (tail : BitVec 16)
  /-- JOB (R409): A JOB submission entry is read with its argument block, checked, and admitted or refused. -/
  | job (r : Fin 64) (entry : List Byte) (args : List Byte) (ups : List Upset)
  /-- LOAD (R234): A LOAD entry copies an image from host memory into a slot of the image store. -/
  | load (r : Fin 64) (entry : List Byte) (image : List Byte)
  /-- IMAGE_VERIFY (R224): Once a loaded image has landed the verifier runs its checks, installs chains and relocations, and posts the completion. -/
  | imageVerify (slot : Fin 16)
  /-- INGEST (R390): An INGEST entry verifies each filing, revokes host access, records it as RECORD, commits its descriptor and writes RESULT. -/
  | ingest (r : Fin 64) (entry : List Byte) (args : List Byte) (registry : List Byte) (ups : List Upset)
  /-- RELEASE_DECRYPT (R363): A DECRYPT release request is checked by Sage and either refused or answered with a signed smudged partial decryption. -/
  | releaseDecrypt (r : Fin 64) (entry : List Byte) (req : List Byte) (fails : Bool) (ups : List Upset)
  /-- RELEASE_PROBE (R367): A PROBE release request is checked and the masked probe samples are encrypted to the registered peer. -/
  | releaseProbe (r : Fin 64) (entry : List Byte) (req : List Byte) (fails : Bool) (ups : List Upset)
  /-- RELEASE_ALLOWLIST (R360): An ALLOWLIST release request installs a new signed allowlist or is refused. -/
  | releaseAllowlist (r : Fin 64) (entry : List Byte) (req : List Byte) (fails : Bool)
  /-- BUFFER_CREATE (R313): A BUFFER CREATE entry creates a stacked-memory handle and returns it. -/
  | bufferCreate (r : Fin 64) (entry : List Byte)
  /-- BUFFER_FREE (R246): A BUFFER FREE entry frees a handle entry unless a job names it. -/
  | bufferFree (r : Fin 64) (entry : List Byte)
  /-- BUFFER_WRITE (R313): A BUFFER WRITE entry copies host memory into a handle's range. -/
  | bufferWrite (r : Fin 64) (entry : List Byte) (data : List Byte) (ups : List Upset)
  /-- BUFFER_READ (R313): A BUFFER READ entry copies a handle's range to host memory. -/
  | bufferRead (r : Fin 64) (entry : List Byte) (ups : List Upset)
  /-- ABORT (R322): An ABORT entry ends a named job or completes with ABORT_LATE. -/
  | abort (r : Fin 64) (entry : List Byte)
  /-- ENTRY_FETCH_TIMEOUT (R317): A JOB entry or argument block not arrived within 50 us is refused with STALL. -/
  | entryFetchTimeout (r : Fin 64) (entry : List Byte)
  /-- ADMIT_LATE (R412): An admission decision not reached 90 us after the doorbell time is refused with ADMIT_LATE. -/
  | admitLate (r : Fin 64) (entry : List Byte) (args : List Byte)
  /-- COALESCE_TIMER (R321): COAL_US after the first unsignalled completion the ring's MSI-X vector is sent. -/
  | coalesceTimer (c : Fin 64)
  /-- APERTURE_READ (R308): A host read through a BAR4 window is checked and returns data or completes with an error. -/
  | apertureRead (w : Fin 64) (off : BitVec 30) (len : Fin 513) (ups : List Upset)
  /-- APERTURE_WRITE (R308): A host write through a BAR4 window lands or is dropped with RANGE. -/
  | apertureWrite (w : Fin 64) (off : BitVec 30) (data : List Byte) (ups : List Upset)
  /-- FUNCTION_LEVEL_RESET (R309): A function level reset ends host jobs, disables rings and windows, clears MSI-X and host mailbox channels. -/
  | functionLevelReset
  /-- HOT_RESET (R444): A PCIe hot reset resets the host interface block and MSI-X table. -/
  | hotReset
  /-- LINK_DOWN (R444): The PCIe link goes down and the host interface is reset as for a function level reset. -/
  | linkDown
  /-- MBX_SEND (R324): A sender's write of 1 to SEND moves the staged message into the channel slot and notifies the receiver. -/
  | mbxSend (mid : BitVec 12) (m : Fin 32)
  /-- MBX_DB_CLEAR (R324): A receiver's write of 1 to its MBX_DB bit empties the slot and interrupts the sender. -/
  | mbxDbClear (mid : BitVec 12) (m : Fin 32)
  /-- INSTALL_SHARE (R386): A security request installs a threshold key share and starts a new key epoch. -/
  | installShare (pkg : List Byte) (fail : Fin 4)
  /-- INSTALL_KEYSET (R385): A security request verifies a key-set package and installs its chains and key regions. -/
  | installKeyset (pkg : List Byte)
  /-- RETIRE_KEYSET (R140): A security request frees the key regions of a key set not in use. -/
  | retireKeyset (pkg : List Byte)
  /-- STAGE_FIRMWARE (R385): A security request writes a verified firmware or configuration image to the slot not booted. -/
  | stageFirmware (pkg : List Byte)
  /-- COMMIT_SVN (R377): A security request advances the fused SVN floor. -/
  | commitSvn (pkg : List Byte)
  /-- SPDM_GET_VERSION (R382): SPDM GET_VERSION request answered over DOE. -/
  | spdmGetVersion
  /-- SPDM_GET_CAPABILITIES (R382): SPDM GET_CAPABILITIES request answered over DOE. -/
  | spdmGetCapabilities (version : BitVec 8)
  /-- SPDM_NEGOTIATE_ALGORITHMS (R382): SPDM NEGOTIATE_ALGORITHMS request answered over DOE. -/
  | spdmNegotiateAlgorithms (offered : Bool)
  /-- SPDM_GET_DIGESTS (R382): SPDM GET_DIGESTS request answered with certificate slot digests. -/
  | spdmGetDigests
  /-- SPDM_GET_CERTIFICATE (R382): SPDM GET_CERTIFICATE request answered with the AK chain. -/
  | spdmGetCertificate (slot : Fin 8) (off len : BitVec 16)
  /-- SPDM_CHALLENGE (R382): SPDM CHALLENGE request answered with an AK signature within 2 ms. -/
  | spdmChallenge (slot : Fin 8) (nonce : List Byte)
  /-- SPDM_GET_MEASUREMENTS (R383): SPDM GET_MEASUREMENTS request answered with MEAS0 to MEAS7. -/
  | spdmGetMeasurements (which : BitVec 8) (signed : Bool) (slot : Fin 8) (nonce : List Byte)
  /-- SPDM_KEY_EXCHANGE (R382): SPDM KEY_EXCHANGE request opens a secured session. -/
  | spdmKeyExchange (slot : Fin 8) (sid : BitVec 16) (random : List Byte) (exchange : List Byte)
  /-- SPDM_FINISH (R382): SPDM FINISH request completes session establishment. -/
  | spdmFinish (session : Word32) (mac : List Byte)
  /-- SPDM_HEARTBEAT (R382): SPDM HEARTBEAT request keeps a session alive. -/
  | spdmHeartbeat (session : Word32)
  /-- SPDM_KEY_UPDATE (R382): SPDM KEY_UPDATE request updates session keys. -/
  | spdmKeyUpdate (session : Word32) (op : Fin 4)
  /-- SPDM_END_SESSION (R382): SPDM END_SESSION request closes a session. -/
  | spdmEndSession (session : Word32)
  /-- SVC_CHALLENGE (R396): TAP instruction returns a 32-byte TRNG nonce for service authentication. -/
  | svcChallenge
  /-- SVC_RESPONSE (R396): TAP instruction checks the service signature and grants service rights or counts a failure. -/
  | svcResponse (modulus : List Byte) (sig : List Byte)
  /-- TAP_BYPASS (R396): TAP BYPASS instruction. -/
  | tapBypass (scan : List Byte)
  /-- TAP_IDCODE (R396): TAP IDCODE instruction returns the device identification. -/
  | tapIdcode
  /-- TAP_SAMPLE_PRELOAD (R396): TAP SAMPLE/PRELOAD instruction. -/
  | tapSamplePreload (pins : List Byte) (preload : List Byte)
  /-- TAP_EXTEST (R396): TAP EXTEST instruction. -/
  | tapExtest (pins : List Byte)
  /-- DEBUG_HALT (R211): A debug halt through the service identity stops a core's issue and fetch and restarts the engine operation in progress. -/
  | debugHalt (d : DieId) (c : CoreId)
  /-- OPM (R185): Chive instruction issues a macro operation to a group FIFO and returns a ticket or refusal. -/
  | opm (d : DieId) (c : CoreId) (p : Progress) (f7 : BitVec 7) (rd rs1 : Fin 32)
  /-- OPF (R185): Chive instruction issues a fine operation to a fine-level group. -/
  | opf (d : DieId) (c : CoreId) (p : Progress) (f7 : BitVec 7) (rd rs1 rs2 : Fin 32)
  /-- OPWAIT (R186): Chive instruction returns an operation status word once the ticketed operation has completed. -/
  | opwait (d : DieId) (c : CoreId) (p : Progress) (f7 : BitVec 7) (rd rs1 : Fin 32)
  /-- SUSTART (R184): Chive instruction starts a stream program on a stream unit. -/
  | sustart (d : DieId) (c : CoreId) (p : Progress) (f7 : BitVec 7) (rd rs1 rs2 : Fin 32)
  /-- SUFEED (R204): Chive instruction supplies one byte offset to a feed-mode stream program. -/
  | sufeed (d : DieId) (c : CoreId) (p : Progress) (f7 : BitVec 7) (rd rs1 rs2 : Fin 32)
  /-- SUWAIT (R184): Chive instruction waits until a stream unit has finished every started program. -/
  | suwait (d : DieId) (c : CoreId) (p : Progress) (f7 : BitVec 7) (rd rs1 : Fin 32)
  /-- LBAR (R207): Chive instruction enters a layer barrier over a core mask. -/
  | lbar (d : DieId) (c : CoreId) (p : Progress) (f7 : BitVec 7) (rd rs1 : Fin 32)
  /-- LAYER_BARRIER (R207): A layer barrier completes once all cores arrived and groups and stream units have drained; STRM_LAYER advances. -/
  | layerBarrier (d : DieId) (mask : BitVec 8)
  /-- FENCE (R280): FENCE waits until every earlier access, copy and remote write of the core has landed or been acknowledged. -/
  | fence (d : DieId) (c : CoreId) (p : Progress)
  /-- ECALL_SEGMENT_END (R232): ECALL with a7 = 1 marks a program boundary at which the instruction banks swap. -/
  | ecallSegmentEnd (d : DieId) (c : CoreId) (p : Progress)
  /-- BANK_SWAP (R233): Once the next segment has loaded, the banks swap and the core restarts at 0x0004_0000. -/
  | bankSwap (d : DieId) (c : CoreId)
  /-- SEGMENT_PREFETCH (R232): When a segment becomes active the die supervisor loads the next segment into the inactive bank. -/
  | segmentPrefetch (d : DieId) (c : CoreId) (bank : Fin 2)
  /-- ECALL_JOB_END (R232): ECALL with a7 = 0 ends a core's part of the job. -/
  | ecallJobEnd (d : DieId) (c : CoreId) (p : Progress)
  /-- WINDOW_LOAD (R209): A core load through a buffer window reads a handle's bytes, locally or across the bridges. -/
  | windowLoad (d : DieId) (c : CoreId) (p : Progress) (rd : Fin 32) (addr : Word64) (width : AccessWidth) (isSigned : Bool) (ups : List Upset)
  /-- WINDOW_STORE (R209): A core store through a buffer window writes a handle's bytes. -/
  | windowStore (d : DieId) (c : CoreId) (p : Progress) (rs2 : Fin 32) (addr : Word64) (width : AccessWidth) (ups : List Upset)
  /-- SEALED_STORE (R282): A core store through the sealed alias issues a sealed write. -/
  | sealedStore (d : DieId) (c : CoreId) (p : Progress) (rs2 : Fin 32) (addr : Word64) (width : AccessWidth)
  /-- SEALED_WRITE_LAND (R282): A held sealed write lands once every earlier write of its source and channel has landed. -/
  | sealedWriteLand (n : Nat)
  /-- SAMO_ADD (R283): Scoped atomic add at the given scope. -/
  | samoAdd (d : DieId) (c : CoreId) (p : Progress) (rd rs1 rs2 : Fin 32) (scope : Fin 4) (wide : Bool) (ups : List Upset)
  /-- SAMO_MAX (R283): Scoped atomic signed maximum. -/
  | samoMax (d : DieId) (c : CoreId) (p : Progress) (rd rs1 rs2 : Fin 32) (scope : Fin 4) (wide : Bool) (ups : List Upset)
  /-- SAMO_MAXU (R283): Scoped atomic unsigned maximum. -/
  | samoMaxu (d : DieId) (c : CoreId) (p : Progress) (rd rs1 rs2 : Fin 32) (scope : Fin 4) (wide : Bool) (ups : List Upset)
  /-- SAMO_SWAP (R283): Scoped atomic swap. -/
  | samoSwap (d : DieId) (c : CoreId) (p : Progress) (rd rs1 rs2 : Fin 32) (scope : Fin 4) (wide : Bool) (ups : List Upset)
  /-- SAMO_CAS (R283): Scoped atomic compare-and-swap. -/
  | samoCas (d : DieId) (c : CoreId) (p : Progress) (rd rs1 rs2 : Fin 32) (scope : Fin 4) (wide : Bool) (ups : List Upset)
  /-- TENSOR_CREATE (R250): A core's write to offset 0x38 of a descriptor slot commits a tensor descriptor after alignment and range checks. -/
  | tensorCreate (d : DieId) (c : CoreId) (p : Progress) (addr : Word64) (value : Word64)
  /-- COPY_REQUEST (R251): Committing a TYPE 0x11 descriptor creates a copy request and queues it on the copy unit. -/
  | copyRequest (d : DieId) (c : CoreId) (p : Progress) (addr : Word64) (value : Word64)
  /-- COPY_RUN (R254): The copy unit runs the next committed copy to completion, setting CSTAT. -/
  | copyRun (d : DieId) (ups : List Upset)
  /-- REMOTE_WRITE (R342): Posting a remote request record sends a plain Acxia WRITE. -/
  | remoteWrite (d : DieId) (c : CoreId) (p : Progress) (value : Word64)
  /-- REMOTE_SEALED_WRITE (R344): Posting a remote request record sends a sealed Acxia WRITE after earlier writes are acknowledged. -/
  | remoteSealedWrite (d : DieId) (c : CoreId) (p : Progress) (value : Word64)
  /-- REMOTE_ATOMIC (R345): Posting a remote request record sends an Acxia ATOMIC after earlier writes are acknowledged. -/
  | remoteAtomic (d : DieId) (c : CoreId) (p : Progress) (value : Word64)
  /-- NTT (R85): Basil forward transform of limb tasks as two matrix passes. -/
  | ntt (d : DieId) (ups : List Upset)
  /-- INTT (R86): Basil inverse transform of limb tasks. -/
  | intt (d : DieId) (ups : List Upset)
  /-- BCONV (R91): Basil base conversion of one digit to target primes. -/
  | bconv (d : DieId) (ups : List Upset)
  /-- KSIP (R93): Basil key-switch inner product of member digits with key rows from Dill. -/
  | ksip (d : DieId) (ups : List Upset)
  /-- GEMM (R95): Basil general matrix product in MOD or OPEN mode. -/
  | gemm (d : DieId) (ups : List Upset)
  /-- SEAL (R104): Encoded operation that seals a statistics buffer. -/
  | seal (d : DieId) (ups : List Upset)
  /-- TRREL (R99): Releases tile registers by clearing their in-use flags. -/
  | trrel (d : DieId)
  /-- AUT (R116): Mint automorphism of limb tasks in evaluation form. -/
  | aut (d : DieId) (ups : List Upset)
  /-- PERM (R118): Mint general index map from a permutation table. -/
  | perm (d : DieId) (ups : List Upset)
  /-- VADD (R131): Parsley macro modular addition on raw limb tensors. -/
  | vadd (d : DieId) (ups : List Upset)
  /-- VSUB (R131): Parsley macro modular subtraction. -/
  | vsub (d : DieId) (ups : List Upset)
  /-- VNEG (R131): Parsley macro modular negation. -/
  | vneg (d : DieId) (ups : List Upset)
  /-- VMUL (R131): Parsley macro modular multiplication. -/
  | vmul (d : DieId) (ups : List Upset)
  /-- VMAC (R131): Parsley macro modular multiply-accumulate. -/
  | vmac (d : DieId) (ups : List Upset)
  /-- CTADD (R477): Parsley ciphertext addition, also a manifest summing site. -/
  | ctadd (d : DieId) (ups : List Upset)
  /-- CTSUB (R477): Parsley ciphertext subtraction. -/
  | ctsub (d : DieId) (ups : List Upset)
  /-- CTADDP (R477): Parsley ciphertext plus plaintext. -/
  | ctaddp (d : DieId) (ups : List Upset)
  /-- CTMULP (R477): Parsley ciphertext times plaintext. -/
  | ctmulp (d : DieId) (ups : List Upset)
  /-- CTMULC (R131): Parsley ciphertext times a SCALAR or LIMBVEC constant. -/
  | ctmulc (d : DieId) (ups : List Upset)
  /-- CTTENSOR (R127): Parsley ciphertext tensor product giving three polynomials. -/
  | cttensor (d : DieId) (ups : List Upset)
  /-- RSDELTA (R128): Parsley rescale step forming delta limbs, optionally with stochastic rounding. -/
  | rsdelta (d : DieId) (ups : List Upset)
  /-- RSFIN (R128): Parsley final rescale pass that commits the output descriptor. -/
  | rsfin (d : DieId) (ups : List Upset)
  /-- FOLDO (R129): Parsley OPEN remainder-carry fold. -/
  | foldo (d : DieId) (ups : List Upset)
  /-- FOLDC (R129): Parsley CKKS remainder-carry fold committing W' and C'. -/
  | foldc (d : DieId) (ups : List Upset)
  /-- MODRAISE (R130): Parsley bootstrap modulus raise from level 1. -/
  | modraise (d : DieId) (ups : List Upset)
  /-- FADD (R131): Parsley macro FP32 or BF16 addition. -/
  | fadd (d : DieId) (ups : List Upset)
  /-- FSUB (R131): Parsley macro floating subtraction. -/
  | fsub (d : DieId) (ups : List Upset)
  /-- FMUL (R131): Parsley macro floating multiplication. -/
  | fmul (d : DieId) (ups : List Upset)
  /-- FFMA (R131): Parsley macro fused multiply-add. -/
  | ffma (d : DieId) (ups : List Upset)
  /-- FMAX (R131): Parsley macro floating maximum. -/
  | fmax (d : DieId) (ups : List Upset)
  /-- FMIN (R131): Parsley macro floating minimum. -/
  | fmin (d : DieId) (ups : List Upset)
  /-- FCVT (R131): Parsley macro conversion from FP32 to a storage format. -/
  | fcvt (d : DieId) (ups : List Upset)
  /-- FRED (R131): Parsley reduction along the innermost dimension by sum or maximum. -/
  | fred (d : DieId) (ups : List Upset)
  /-- EXTRACT (R159): Tarragon extraction of LWE samples from a ring ciphertext. -/
  | extract (d : DieId) (ups : List Upset)
  /-- LWEKSW (R161): Tarragon LWE key switching of a batch. -/
  | lweksw (d : DieId) (ups : List Upset)
  /-- PBS (R165): Tarragon programmable bootstrap applying a lookup table in waves. -/
  | pbs (d : DieId) (ups : List Upset)
  /-- RINGIFY (R169): Tarragon repacking of RING samples into ring ciphertexts. -/
  | ringify (d : DieId) (ups : List Upset)
  /-- SPROBE (R171): Tarragon copy of a batch into a probe region recorded as MASKED. -/
  | sprobe (d : DieId) (ups : List Upset)
  /-- FLDS (R198): Fine load of a row into the idle stationary register. -/
  | flds (d : DieId)
  /-- FXCH (R198): Fine exchange of active and idle registers at the next row's wavefront. -/
  | fxch (d : DieId)
  /-- FROW (R198): Fine streaming of one row against the active register. -/
  | frow (d : DieId)
  /-- FPERMV (R198): Fine permutation of one vector by a table in a tile register. -/
  | fpermv (d : DieId)
  /-- FINE_VADD (R198): Fine modular addition on one vector. -/
  | fineVadd (d : DieId)
  /-- FINE_VSUB (R198): Fine modular subtraction on one vector. -/
  | fineVsub (d : DieId)
  /-- FINE_VNEG (R198): Fine modular negation on one vector. -/
  | fineVneg (d : DieId)
  /-- FINE_VMUL (R198): Fine modular multiplication on one vector. -/
  | fineVmul (d : DieId)
  /-- FINE_VMAC (R198): Fine modular multiply-accumulate into a tile register. -/
  | fineVmac (d : DieId)
  /-- FINE_FADD (R198): Fine floating addition on one vector. -/
  | fineFadd (d : DieId)
  /-- FINE_FSUB (R198): Fine floating subtraction on one vector. -/
  | fineFsub (d : DieId)
  /-- FINE_FMUL (R198): Fine floating multiplication on one vector. -/
  | fineFmul (d : DieId)
  /-- FINE_FFMA (R198): Fine fused multiply-add into a tile register. -/
  | fineFfma (d : DieId)
  /-- FINE_FMAX (R198): Fine floating maximum on one vector. -/
  | fineFmax (d : DieId)
  /-- FINE_FMIN (R198): Fine floating minimum on one vector. -/
  | fineFmin (d : DieId)
  /-- FINE_FCVT (R198): Fine unscaled conversion from FP32. -/
  | fineFcvt (d : DieId)
  /-- QMOVE (R198): Fine move of entries from one queue to another. -/
  | qmove (d : DieId) (g : Fin 3)
  /-- QDROP (R198): Fine pop and discard of queue entries. -/
  | qdrop (d : DieId) (g : Fin 3)
  /-- TSET (R198): Fine write of a scalar to all words of a tile register. -/
  | tset (d : DieId) (g : Fin 3)
  /-- QUEUE_PUSH (R179): An engine or unit pushes one entry to a queue once it has room, or has it discarded when the reader is closed. -/
  | queuePush (d : DieId) (q : QueueId)
  /-- QUEUE_POP (R179): An engine or unit pops one entry from a queue once it holds one. -/
  | queuePop (d : DieId) (q : QueueId)
  /-- QUEUE_END_CLOSE (R269): A queue end closes when its actor finishes or its job ends, sending CLOSE for fabric receivers. -/
  | queueEndClose (d : DieId) (q : QueueId) (writer : Bool)
  /-- OUTPUT_COMMIT (R182): A macro operation commits its output descriptor once its entries are pushed and drained, and Sage binds its handles. -/
  | outputCommit (d : DieId) (g : Fin 4)
  /-- STREAM_PROGRAM_START (R203): A stream program reaching the head of its unit is checked and begins transfers. -/
  | streamProgramStart (d : DieId) (u : Fin 16) (ups : List Upset)
  /-- STREAM_TRANSFER (R205): One stream-unit transfer completes, filling or draining queue entries. -/
  | streamTransfer (d : DieId) (u : Fin 16) (ups : List Upset)
  /-- FETCH_ERROR_RESTART (R108): A retryable fetch error restarts the operation and its stream units from the beginning, up to four times. -/
  | fetchErrorRestart (d : DieId) (g : Fin 4)
  /-- REMOTE_READ_TIMEOUT (R247): A remote read without data within SPAD_RTMO becomes a fetch error. -/
  | remoteReadTimeout (d : DieId) (who : BitVec 8)
  /-- BRIDGE_RESEND (R272): A bridge flit failing its link check is resent; the third failure loses the transfer. -/
  | bridgeResend (d : DieId) (fails : Fin 4) (what : BridgeLoad)
  /-- STALL_TIMEOUT (R277): A wait exceeding its stall limit raises STALL once and firmware ends the job. -/
  | stallTimeout (d : DieId) (unit : BitVec 8) (q : QueueId) (wait : Fin 8)
  /-- CHANNEL_FORWARD (R275): The channel engine takes a sender head entry once every open receiver has room and delivers it. -/
  | channelForward (d : DieId) (ch : Fin 32)
  /-- FABRIC_ENTRY_SEND (R276): A fabric channel entry is sent as an ENTRY frame once credit is held. -/
  | fabricEntrySend (d : DieId) (ch : Fin 32)
  /-- DILL_ENTRY_SNAPSHOT (R145): When a key-order entry becomes next, Dill reads and snapshots its header slots. -/
  | dillEntrySnapshot (d : DieId) (ctx : Fin 2) (ups : List Upset)
  /-- DILL_ROW_FETCH (R149): Dill reads b-half rows and regenerates a-half rows into its buffer ahead of the consumer. -/
  | dillRowFetch (d : DieId) (ctx : Fin 2) (ups : List Upset)
  /-- JOB_START (R235): When its dies are free a job's configuration is written, inputs hashed and cores released. -/
  | jobStart (job : BitVec 48) (ups : List Upset)
  /-- JOB_COMPLETE (R236): When all cores have ended and groups are idle, invariants are checked and records and completion written. -/
  | jobComplete (job : BitVec 48) (ups : List Upset)
  /-- SPAD_PWR_WRITE (R260): A write to SPAD_PWR powers banks down or up, scrubbing and staling on power-up. -/
  | spadPwrWrite (mid : BitVec 12) (d : DieId) (value : Word64)
  /-- BANK_SCRUB_DONE (R260): A powered-up bank finishes its scrub and may be bound again. -/
  | bankScrubDone (d : DieId) (bank : Fin 64)
  /-- RAW_RD (R258): Test window reads a row and its check bits with the code bypassed. -/
  | rawRd (mid : BitVec 12) (d : DieId) (bank : Fin 64) (row : BitVec 16)
  /-- RAW_WR (R258): Test window writes a row and check bits exactly and marks the bank dirty. -/
  | rawWr (mid : BitVec 12) (d : DieId) (bank : Fin 64) (row : BitVec 16)
  /-- DEC_RD (R258): Test window reads a row through the decoder as an ordinary read. -/
  | decRd (mid : BitVec 12) (d : DieId) (bank : Fin 64) (row : BitVec 16)
  /-- PATROL_SCRUB (R296): The patrol scrub reads and corrects every usable sector once per 24 hours. -/
  | patrolScrub (d : DieId) (ups : List Upset)
  /-- ODECC_POLL (R293): Every 1,000 us the controller reads memory-die error counts into MEM_ODECC. -/
  | odeccPoll (d : DieId) (counts : List Nat)
  /-- STACK_TEMP_POLL (R297): Every 100 us the controller reads stack temperature and sets the throttle level. -/
  | stackTempPoll (d : DieId) (k : Fin 2) (temp : Int)
  /-- MEM_TG_START (R300): A traffic generator request is accepted, refused or deferred. -/
  | memTgStart (mid : BitVec 12) (d : DieId) (value : Word64)
  /-- MEM_TG_DONE (R300): The traffic generators finish writing and checking and report mismatches. -/
  | memTgDone (d : DieId) (mismatch : Nat)
  /-- MARGIN_START (R301): A margining request on channel 0 is accepted, refused or deferred. -/
  | marginStart (mid : BitVec 12) (d : DieId) (stack : Fin 2)
  /-- MARGIN_DONE (R301): Margining finishes, restores the shadowed slots and reports passing windows. -/
  | marginDone (d : DieId) (window : BitVec 34)
  /-- PACE_SAMPLE (R405): Every 10 us the pace monitor measures replica delay lines and reports calibrated pace. -/
  | paceSample (d : DieId) (rate : Word32)
  /-- PACE_LOW (R417): Pace below 1,260 Msteps/s for 100 us raises PACE_LOW. -/
  | paceLow (d : DieId)
  /-- PACE_RESUMED (R417): After 1 ms with no stop cause ADM_STATE.STOP clears. -/
  | paceResumed
  /-- CALIBRATION (R406): A full-toggle calibration runs in a schedule gap and renews the pace ratio. -/
  | calibration (d : DieId) (pace : BitVec 12) (rate : Word32) (toggles : Bool)
  /-- ENTRY_CHECK (R110): A unit's known-answer entry check runs in a schedule gap and sets ENTRY_OK or takes it out of service. -/
  | entryCheck (d : DieId) (unit : Fin 6) (ok : Bool)
  /-- UNIT_WAKE (R110): A unit returning from sleep or repair advances its epoch and clears its state. -/
  | unitWake (d : DieId) (unit : Fin 6)
  /-- UNIT_SLEEP (R457): The power manager puts a unit to sleep while no job binds its die. -/
  | unitSleep (d : DieId) (unit : Fin 6)
  /-- PACE_REQ_CALIBRATION (R420): A PACE_REQ calibration request runs at once or is deferred to a gap. -/
  | paceReqCalibration (d : DieId) (mid : BitVec 12) (pace : BitVec 12) (rate : Word32) (toggles : Bool)
  /-- PACE_REQ_SELF_TEST (R420): A PACE_REQ self-test request runs every entry check now or in a later gap. -/
  | paceReqSelfTest (d : DieId) (mid : BitVec 12) (fails : BitVec 6)
  /-- PACE_CAP_WRITE (R414): A write to PACE_CAP sets the throttle cap, clamped to 1,200 to 2,000. -/
  | paceCapWrite (d : DieId) (mid : BitVec 12) (value : Word32)
  /-- THROTTLE_SAMPLE (R415): Every 10 us the power manager checks junction and input power and adjusts caps. -/
  | throttleSample (tjs : List Int) (needs : List Nat) (power vin cmp : Nat)
  /-- DEADLINE_MISSED (R418): The hub counter passing a running job's deadline raises DEADLINE_MISSED once. -/
  | deadlineMissed (job : BitVec 48)
  /-- VIN_UNDERVOLTAGE (R429): VIN below 42.0 V for 20 us makes a supply shutdown. -/
  | vinUndervoltage
  /-- VIN_OVERVOLTAGE (R429): VIN above 60.0 V for 2 us makes a supply shutdown. -/
  | vinOvervoltage
  /-- VIN_LOW (R429): VIN entering 42.0 to 44.0 V for 100 us raises VIN_LOW. -/
  | vinLow
  /-- VIN_HIGH (R429): VIN entering 58.0 to 60.0 V for 100 us raises VIN_HIGH. -/
  | vinHigh
  /-- PD_FAULT (R433): A power die faults and stops; a further fault or a smaller part shuts down. -/
  | pdFault (pd : Fin 6)
  /-- THERMTRIP (R438): A junction at 125 C for 10 us drives THERMTRIP_N and shuts the supply down. -/
  | thermtrip (die : Fin 10)
  /-- XTAL_LOSS (R428): The crystal stopping for 10 us makes a supply shutdown with cause XTAL. -/
  | xtalLoss
  /-- FREF_LOSS (R428): A fabric reference clock stopping takes its port down. -/
  | frefLoss (p : Fin 8)
  /-- PWRGOOD_RISE (R441): PWRGOOD rising brings up the rails and starts the package block. -/
  | pwrgoodRise (low : Nat) (vin : Nat)
  /-- RAILS_GOOD (R441): The rails become good, every register block resets and the SMBus target answers. -/
  | railsGood (strap : BitVec 2) (fails : BitVec 6) (v6 : BitVec 16)
  /-- PWRGOOD_FALL (R445): PWRGOOD falling ends every job and stops the rails within 1 ms. -/
  | pwrgoodFall
  /-- RESET_N_ASSERT (R446): RESET_N held low resets every die except power dies, SMBus target and package block. -/
  | resetNAssert
  /-- RESET_N_RELEASE (R441): RESET_N release starts PCIe training, the boot chain and initialisation up to ready. -/
  | resetNRelease
  /-- STARTUP_STEP_TIMEOUT (R443): A missed start-up step bound sets PHASE to STUCK. -/
  | startupStepTimeout (step : Fin 10)
  /-- TRNG_HEALTH_FAIL (R370): A failed TRNG health test stops every draw until RESET_N. -/
  | trngHealthFail
  /-- SMB_STATE (R447): SMBus STATE read. -/
  | smbState
  /-- SMB_TJMAX (R447): SMBus TJMAX read. -/
  | smbTjmax
  /-- SMB_POWER (R447): SMBus POWER read. -/
  | smbPower
  /-- SMB_VIN (R447): SMBus VIN read. -/
  | smbVin
  /-- SMB_LIMIT_READ (R447): SMBus LIMIT read. -/
  | smbLimitRead
  /-- SMB_LIMIT_WRITE (R447): SMBus LIMIT write relayed to PWR_LIMIT within P_FLOOR to P_MAX. -/
  | smbLimitWrite (w : BitVec 16)
  /-- SMB_ALERT_READ (R447): SMBus ALERT read of causes and mask. -/
  | smbAlertRead
  /-- SMB_ALERT_WRITE (R440): SMBus ALERT write clears cause bits and sets the mask. -/
  | smbAlertWrite (w : BitVec 16)
  /-- SMB_LASTOFF (R447): SMBus LASTOFF read. -/
  | smbLastoff
  /-- SMB_POWERDIES (R447): SMBus POWERDIES read. -/
  | smbPowerdies
  /-- SMB_STACKMAX (R447): SMBus STACKMAX read. -/
  | smbStackmax
  /-- SMB_ALERT_RESPONSE (R447): The target answers the Alert Response Address while ALERT_N is low. -/
  | smbAlertResponse
  /-- LANE_FAULT (R329): A faulting fabric lane makes its port retrain to four lanes or go down. -/
  | laneFault (p : Fin 8) (lane : Fin 8)
  /-- RX_ENTRY (R338): A received ENTRY frame is checked and its entries placed in the receiving queue in PSN order. -/
  | rxEntry (p : Fin 8) (frame : List Byte)
  /-- RX_WRITE (R343): A received WRITE frame lands, or is held if sealed, and WACK is sent. -/
  | rxWrite (p : Fin 8) (frame : List Byte)
  /-- RX_ATOMIC (R345): A received ATOMIC is performed at the home as scope 3 and AREPLY is sent. -/
  | rxAtomic (p : Fin 8) (frame : List Byte)
  /-- RX_ACK (R336): A received ACK releases the frames it covers and may trigger retransmission of gaps. -/
  | rxAck (p : Fin 8) (frame : List Byte)
  /-- RX_CREDIT (R340): A received CREDIT frame adds credit to a fabric channel. -/
  | rxCredit (p : Fin 8) (frame : List Byte)
  /-- RX_CLOSE (R276): A received CLOSE sets PEER_CLOSED and adds the count to DISCARDED. -/
  | rxClose (p : Fin 8) (frame : List Byte)
  /-- RX_WACK (R343): A received WACK completes a remote write request. -/
  | rxWack (p : Fin 8) (frame : List Byte)
  /-- RX_AREPLY (R345): A received AREPLY completes a remote atomic and writes its result. -/
  | rxAreply (p : Fin 8) (frame : List Byte)
  /-- KEYX_INIT (R394): A received KEYX INIT is verified against the roster and answered with RESP. -/
  | keyxInit (p : Fin 8) (frame : List Byte)
  /-- KEYX_RESP (R394): A received KEYX RESP is verified, DONE sent and the session key written. -/
  | keyxResp (p : Fin 8) (frame : List Byte)
  /-- KEYX_DONE (R394): A received KEYX DONE completes the exchange and writes the peer table. -/
  | keyxDone (p : Fin 8) (frame : List Byte)
  /-- KEYX_INIT_RESEND (R394): Every 5 ms an unanswered INIT is resent, and after 20 the peer is lost. -/
  | keyxInitResend (epid : BitVec 17)
  /-- ACK_TIMER (R335): 2 us after the first unacknowledged frame the receiver sends an ACK. -/
  | ackTimer (epid : BitVec 17)
  /-- RETRANSMIT_TIMEOUT (R336): A frame not acknowledged within RTO_US is resent on the next port. -/
  | retransmitTimeout (epid : BitVec 17) (psn : BitVec 24)
  /-- RPL_ARM_WRITE (R463): A write to RPL_ARM arms a captured job for replay or sets NOTFOUND. -/
  | rplArmWrite (mid : BitVec 12) (value : Word64)
  /-- RPL_CFG_WRITE (R460): A write to RPL_CFG sets capture and reserve size unless refused. -/
  | rplCfgWrite (mid : BitVec 12) (value : Word64)
  /-- REG_WRITE (R472): A write to a register without a row of its own, accepted only from permitted MIDs. -/
  | regWrite (mid : BitVec 12) (addr : BitVec 26) (size : Fin 9) (value : Word64)
  /-- PORT_UP (R329): A fabric port completes link training or a retrain to a four-lane mode and begins carrying frames again. -/
  | portUp (p : Fin 8)
  /-- VIN52_APPLY (R431): VIN52 is applied and the inrush limiter charges the package capacitance at no more than 10 A. -/
  | vin52Apply
  /-- VIN52_LOSS (R439): VIN52 falls below 20 V, releasing THERMTRIP_N and losing the PD0 shutdown-cause latch. -/
  | vin52Loss
  /-- PROBE_REPLY (R172): The registered peer's sign-probe reply arrives and Sage admits it once against the probe's ticket, giving it the row 6 lineage. -/
  | probeReply (ticket : Word64) (dref : Word32) (h0 h1 : BitVec 16) (desc : List Byte) (ups : List Upset)
  /-- DEBUG_RESUME (R211): A debug-halted Chive core is released and resumes issue and fetch. -/
  | debugResume (d : DieId) (c : CoreId)
  deriving DecidableEq, Repr

end Sys2Proof
end

