-- ==== Sys2Proof/WellFormed.lean ====
section
/-! DEFINITION. What a well-formed command is: entries and blocks of the sizes that the rules give them. -/

namespace Sys2Proof

/-- R311: a submission entry has 64 bytes. -/
def entryOk (e : List Byte) : Bool := e.length == 64

/-- A command's operands have the sizes that its rule gives. -/
def Instr.wf : Instr → Bool
  | .job _ e _ _ => entryOk e
  | .load _ e _ => entryOk e
  | .ingest _ e _ _ _ => entryOk e
  | .releaseDecrypt _ e _ _ _ => entryOk e
  | .releaseProbe _ e _ _ _ => entryOk e
  | .releaseAllowlist _ e _ _ => entryOk e
  | .bufferCreate _ e => entryOk e
  | .bufferFree _ e => entryOk e
  | .bufferWrite _ e _ _ => entryOk e
  | .bufferRead _ e _ => entryOk e
  | .abort _ e => entryOk e
  | .entryFetchTimeout _ e => entryOk e
  | .admitLate _ e _ => entryOk e
  | .apertureWrite _ off data _ => 1 ≤ data.length && off.toNat + data.length ≤ 2 ^ 30
  | _ => true

end Sys2Proof
end

