-- ==== Sys2Proof/Decode.lean ====
section
/-! DEFINITION. What a word of the table spells. No row of the table carries bits: the part has no instruction words. -/

namespace Sys2Proof

/-- The command that a word spells by the table's bits: the table gives none, so no word spells a command. -/
def decodeTableWord (_nbits _w : Nat) : Option Instr := none

end Sys2Proof
end

