-- ==== Sys2Proof/Machine/Bits.lean ====
section
/-! DEFINITION. Bit fields, byte order and finite maps: what every other file of the machine reads and writes with.
R7 fixes the byte order: multi-byte values are little-endian. -/

namespace Sys2Proof.Machine

/-- Bits lo to lo + w − 1 of a number. -/
def bits (x lo w : Nat) : Nat := x / 2 ^ lo % 2 ^ w

/-- A number with bits lo to lo + w − 1 replaced by the low w bits of v. -/
def setBits (x lo w v : Nat) : Nat :=
  x / 2 ^ (lo + w) * 2 ^ (lo + w) + v % 2 ^ w * 2 ^ lo + x % 2 ^ lo

/-- Bit i of a number. -/
def bitOf (x i : Nat) : Bool := x / 2 ^ i % 2 == 1

/-- A number with bit i set. -/
def setBit (x i : Nat) : Nat := setBits x i 1 1

/-- A number with bit i clear. -/
def clearBit (x i : Nat) : Nat := setBits x i 1 0

/-- The number of ones among the low w bits. -/
def popcount : Nat → Nat → Nat
  | 0, _ => 0
  | w + 1, x => x % 2 + popcount w (x / 2)

/-- A Boolean as a bit. -/
def b2n (b : Bool) : Nat := if b then 1 else 0

/-- Ceiling division. -/
def ceilDiv (a b : Nat) : Nat := (a + b - 1) / b

/-- A count that stays at its largest value (a saturating counter). -/
def satAdd (w x y : Nat) : Nat := min (x + y) (2 ^ w - 1)

/-- The number that bytes spell, least significant first (R7). -/
def leNat : List Byte → Nat
  | [] => 0
  | b :: bs => b.toNat + 256 * leNat bs

/-- The n bytes that spell a number, least significant first (R7). -/
def leBytes : Nat → Nat → List Byte
  | 0, _ => []
  | n + 1, x => BitVec.ofNat 8 x :: leBytes n (x / 256)

/-- The number that bytes spell, most significant first (published standards that R7 excepts). -/
def beNat (bs : List Byte) : Nat := leNat bs.reverse

/-- The n bytes that spell a number, most significant first. -/
def beBytes (n x : Nat) : List Byte := (leBytes n x).reverse

/-- The little-endian number in n bytes at offset o of a byte list; bytes past the end read as zero. -/
def leAt (bs : List Byte) (o n : Nat) : Nat := leNat ((bs.drop o).take n)

/-- The n bytes at offset o of a byte list. -/
def slice (bs : List Byte) (o n : Nat) : List Byte := (bs.drop o).take n

/-- n zero bytes. -/
def zeros (n : Nat) : List Byte := List.replicate n 0

/-- Every byte is zero. -/
def allZero (bs : List Byte) : Bool := bs.all (· = 0)

/-- A byte list cut or filled with zeros to exactly n bytes. -/
def fit (n : Nat) (bs : List Byte) : List Byte := bs.take n ++ zeros (n - bs.length)

/-- A byte list with bytes put at offset o. -/
def putAt (bs : List Byte) (o : Nat) (xs : List Byte) : List Byte :=
  bs.take o ++ xs ++ bs.drop (o + xs.length)

/-- A two's-complement number of w bits as an integer. -/
def toSigned (w x : Nat) : Int := if x % 2 ^ w < 2 ^ (w - 1) then (x % 2 ^ w : Nat) else ((x % 2 ^ w : Nat) : Int) - 2 ^ w

/-- An integer as a two's-complement number of w bits. -/
def ofSigned (w : Nat) (i : Int) : Nat := (i % (2 ^ w : Nat)).toNat

/-- A string's bytes, for the labels and magic numbers that the manual spells in ASCII. -/
def ascii (s : String) : List Byte := s.toList.map fun c => BitVec.ofNat 8 c.toNat

/-- A finite map from numbers, kept as a list of pairs with strictly rising keys. -/
abbrev NMap (α : Type) := List (Nat × α)

/-- The value at a key, if the map holds the key. -/
def mapFind {α : Type} : NMap α → Nat → Option α
  | [], _ => none
  | (j, v) :: m, k => if j = k then some v else mapFind m k

/-- The value at a key, with what an unlisted key reads as. -/
def mapGet {α : Type} (dflt : α) (m : NMap α) (k : Nat) : α := (mapFind m k).getD dflt

/-- The map with a value at a key, its place in the rising order kept. -/
def mapPut {α : Type} : NMap α → Nat → α → NMap α
  | [], k, v => [(k, v)]
  | (j, u) :: m, k, v =>
    if k < j then (k, v) :: (j, u) :: m
    else if k = j then (k, v) :: m
    else (j, u) :: mapPut m k v

/-- The map without a key. -/
def mapDel {α : Type} : NMap α → Nat → NMap α
  | [], _ => []
  | (j, u) :: m, k => if j = k then m else (j, u) :: mapDel m k

/-- The map with a value at a key in the one canonical form: a value that an unlisted key reads as is not listed. -/
def mapSet {α : Type} [DecidableEq α] (dflt : α) (m : NMap α) (k : Nat) (v : α) : NMap α :=
  if v = dflt then mapDel m k else mapPut m k v

/-- Keys rise strictly, from a lower bound on. -/
def mapRises {α : Type} : Nat → NMap α → Bool
  | _, [] => true
  | n, (k, _) :: m => decide (n ≤ k) && mapRises (k + 1) m

/-- The canonical form: keys rise strictly and no listed value is the one an unlisted key reads as. -/
def mapWf {α : Type} [DecidableEq α] (dflt : α) (m : NMap α) : Bool :=
  mapRises 0 m && m.all fun p => decide (p.2 ≠ dflt)

/-- The bytes at n consecutive keys. -/
def mapBytes (m : NMap Byte) : Nat → Nat → List Byte
  | _, 0 => []
  | k, n + 1 => mapGet 0 m k :: mapBytes m (k + 1) n

/-- The map with bytes written at consecutive keys. -/
def mapPutBytes : NMap Byte → Nat → List Byte → NMap Byte
  | m, _, [] => m
  | m, k, b :: bs => mapPutBytes (mapSet 0 m k b) (k + 1) bs

/-- The list with element i changed by f. -/
def modifyAt {α : Type} (f : α → α) : List α → Nat → List α
  | [], _ => []
  | a :: as, 0 => f a :: as
  | a :: as, i + 1 => a :: modifyAt f as i

/-- The first index at which a test holds. -/
def firstIdx {α : Type} (p : α → Bool) : List α → Option Nat
  | [] => none
  | a :: as => if p a then some 0 else (firstIdx p as).map (· + 1)

/-- The sum of a list of numbers. -/
def sumN : List Nat → Nat
  | [] => 0
  | x :: xs => x + sumN xs

/-- The largest of a list of numbers, 0 for none. -/
def maxN : List Nat → Nat
  | [] => 0
  | x :: xs => max x (maxN xs)

/-- A list cut into pieces of n, by fuel. -/
def chunksF {α : Type} (n : Nat) : Nat → List α → List (List α)
  | 0, _ => []
  | f + 1, xs => if xs.isEmpty then [] else xs.take n :: chunksF n f (xs.drop n)

/-- A list cut into pieces of n; the last may be shorter. -/
def chunks {α : Type} (n : Nat) (xs : List α) : List (List α) := chunksF n xs.length xs

/-- A fold over the numbers lo, lo + 1, …, lo + n − 1. -/
def foldUpTo {α : Type} (f : α → Nat → α) (a : α) (lo : Nat) : Nat → α
  | 0 => a
  | n + 1 => foldUpTo f (f a lo) (lo + 1) n

/-- Powers modulo q, by repeated squaring on the bits of the exponent (fuel: the bits). -/
def powModF (q : Nat) : Nat → Nat → Nat → Nat
  | 0, _, _ => 1 % q
  | f + 1, b, e =>
    let r := powModF q f (b * b % q) (e / 2)
    if e % 2 = 1 then r * b % q else r

/-- b^e mod q. -/
def powMod (q b e : Nat) : Nat := powModF q (e.log2 + 1) (b % q) e

/-- The inverse of a modulo a prime q (Fermat). -/
def invMod (q a : Nat) : Nat := powMod q a (q - 2)

end Sys2Proof.Machine
end

