-- ==== Sys2Proof/Machine/Float.lean ====
section
/-! DEFINITION. Floating-point arithmetic (R59–R62): exact values, decoding and rounding of every format the part
reads or stores, binary32 with round to nearest even (R60), and binary64 for SCALE (R39). Codes are numbers. -/

namespace Sys2Proof.Machine

/-- A binary format of the IEEE kind: precision with the hidden bit, exponent bits and bias. -/
structure Fmt where
  p : Nat
  eb : Nat
  bias : Nat
  deriving DecidableEq, Repr

abbrev fmt32 : Fmt := ⟨24, 8, 127⟩
abbrev fmt64 : Fmt := ⟨53, 11, 1023⟩
abbrev fmtBf16 : Fmt := ⟨8, 8, 127⟩
abbrev fmtFp16 : Fmt := ⟨11, 5, 15⟩
abbrev fmtE5M2 : Fmt := ⟨3, 5, 15⟩
abbrev fmtE4M3 : Fmt := ⟨4, 4, 7⟩
abbrev fmtE2M1 : Fmt := ⟨2, 2, 1⟩

/-- A value: not a number, an infinity, or (sign, m, e) for ±m × 2^e. -/
inductive FV where
  | nan
  | inf (neg : Bool)
  | fin (neg : Bool) (m : Nat) (e : Int)
  deriving DecidableEq, Repr

/-- The exponent of a format's least bit. -/
def Fmt.emin (f : Fmt) : Int := 2 - (f.bias : Int) - (f.p : Int)

/-- The first code past the finite numbers: the code of infinity. -/
def Fmt.infCode (f : Fmt) : Nat := (2 ^ f.eb - 1) * 2 ^ (f.p - 1)

/-- The sign bit's weight. -/
def Fmt.signBit (f : Fmt) : Nat := 2 ^ (f.p - 1 + f.eb)

/-- The finite value that a magnitude code spells in a format. -/
def Fmt.finite (f : Fmt) (neg : Bool) (c : Nat) : FV :=
  let ex := c / 2 ^ (f.p - 1)
  let frac := c % 2 ^ (f.p - 1)
  if ex = 0 then .fin neg frac f.emin else .fin neg (2 ^ (f.p - 1) + frac) (f.emin + (ex : Int) - 1)

/-- A code of an IEEE format decoded. -/
def Fmt.decode (f : Fmt) (x : Nat) : FV :=
  let neg := bitOf x (f.p - 1 + f.eb)
  let c := x % f.signBit
  if c < f.infCode then f.finite neg c
  else if c = f.infCode then .inf neg
  else .nan

/-- m / 2^n to the nearest whole number, ties to even. -/
def rneShift (m n : Nat) : Nat :=
  let q := m / 2 ^ n
  let r := 2 * (m % 2 ^ n)
  if r < 2 ^ n then q else if 2 ^ n < r then q + 1 else q + q % 2

/-- The magnitude code of m × 2^e rounded to nearest even, without a bound on the exponent: a code at or past `infCode`
is beyond the range. -/
def Fmt.roundMag (f : Fmt) (m : Nat) (e : Int) : Nat :=
  if m = 0 then 0
  else
    let lsb := max (e + (m.log2 : Int) + 1 - (f.p : Int)) f.emin
    let q := if lsb ≤ e then m * 2 ^ (e - lsb).toNat else rneShift m (lsb - e).toNat
    (lsb - f.emin).toNat * 2 ^ (f.p - 1) + q

/-- A value rounded to an IEEE format; beyond the range it becomes an infinity (R60); NaN is the one canonical code. -/
def Fmt.round (f : Fmt) : FV → Nat
  | .nan => f.infCode + 2 ^ (f.p - 2)
  | .inf neg => f.infCode + b2n neg * f.signBit
  | .fin neg m e => min (f.roundMag m e) f.infCode + b2n neg * f.signBit

/-- A value with its sign turned. -/
def FV.negate : FV → FV
  | .nan => .nan
  | .inf n => .inf (!n)
  | .fin n m e => .fin (!n) m e

/-- The signed whole number of a value at exponent e0 ≤ its own. -/
def signedAt (neg : Bool) (m : Nat) (e e0 : Int) : Int :=
  let k : Int := (m * 2 ^ (e - e0).toNat : Nat)
  if neg then -k else k

/-- The exact sum. A sum that is exactly zero is +0 unless both addends are −0 (R60). -/
def FV.add : FV → FV → FV
  | .nan, _ => .nan
  | _, .nan => .nan
  | .inf a, .inf b => if a = b then .inf a else .nan
  | .inf a, _ => .inf a
  | _, .inf b => .inf b
  | .fin n1 m1 e1, .fin n2 m2 e2 =>
    let e := min e1 e2
    let s := signedAt n1 m1 e1 e + signedAt n2 m2 e2 e
    if s = 0 then .fin (n1 && n2 && m1 == 0 && m2 == 0) 0 e else .fin (decide (s < 0)) s.natAbs e

/-- The exact product. -/
def FV.mul : FV → FV → FV
  | .nan, _ => .nan
  | _, .nan => .nan
  | .inf a, .inf b => .inf (a != b)
  | .inf a, .fin b m _ => if m = 0 then .nan else .inf (a != b)
  | .fin a m _, .inf b => if m = 0 then .nan else .inf (a != b)
  | .fin n1 m1 e1, .fin n2 m2 e2 => .fin (n1 != n2) (m1 * m2) (e1 + e2)

/-- A quotient carried far enough, with a sticky bit below, that rounding it once rounds the exact quotient. -/
def FV.div : FV → FV → FV
  | .nan, _ => .nan
  | _, .nan => .nan
  | .inf _, .inf _ => .nan
  | .inf a, .fin b _ _ => .inf (a != b)
  | .fin a _ _, .inf b => .fin (a != b) 0 0
  | .fin n1 m1 e1, .fin n2 m2 e2 =>
    if m2 = 0 then (if m1 = 0 then .nan else .inf (n1 != n2))
    else
      let k := m2.log2 + 120
      let q := m1 * 2 ^ k / m2
      let sticky := if m1 * 2 ^ k % m2 = 0 then 0 else 1
      .fin (n1 != n2) (2 * q + sticky) (e1 - e2 - (k : Int) - 1)

/-- The whole square root, by Newton steps from above (fuel: the steps). -/
def isqrtF (n : Nat) : Nat → Nat → Nat
  | 0, x => x
  | k + 1, x =>
    let y := (x + n / x) / 2
    if y < x then isqrtF n k y else x

/-- ⌊√n⌋. -/
def isqrt (n : Nat) : Nat := if n = 0 then 0 else isqrtF n (2 * n.log2 + 4) (2 ^ (n.log2 / 2 + 1))

/-- 1 / √x carried far enough, with a sticky bit, that rounding it once rounds the exact value. Negative values give
NaN, a zero an infinity of its sign, +∞ gives +0. -/
def FV.rsqrt : FV → FV
  | .nan => .nan
  | .inf n => if n then .nan else .fin false 0 0
  | .fin n m e =>
    if m = 0 then .inf n
    else if n then .nan
    else
      let (m', e') := if e % 2 = 0 then (m, e) else (2 * m, e - 1)
      let k := m'.log2 + 160
      let num := 2 ^ (2 * k) / m'
      let r := isqrt num
      let sticky := if r * r * m' = 2 ^ (2 * k) then 0 else 1
      .fin false (2 * r + sticky) (-(e' / 2) - (k : Int) - 1)

/-- The order of two finite magnitudes m1 × 2^e1 ≤ m2 × 2^e2. -/
def magLe (m1 : Nat) (e1 : Int) (m2 : Nat) (e2 : Int) : Bool :=
  let e := min e1 e2
  decide (m1 * 2 ^ (e1 - e).toNat ≤ m2 * 2 ^ (e2 - e).toNat)

/-- A value is below another (neither NaN). Zeros of either sign are equal. -/
def FV.lt : FV → FV → Bool
  | .nan, _ => false
  | _, .nan => false
  | .inf a, .inf b => a && !b
  | .inf a, _ => a
  | _, .inf b => !b
  | .fin n1 m1 e1, .fin n2 m2 e2 =>
    let e := min e1 e2
    decide (signedAt n1 m1 e1 e < signedAt n2 m2 e2 e)

def FV.isNan : FV → Bool
  | .nan => true
  | _ => false

def FV.isFinite : FV → Bool
  | .fin _ _ _ => true
  | _ => false

def FV.isZero : FV → Bool
  | .fin _ m _ => m == 0
  | _ => false

/-- ⌊log2⌋ of a finite value that is not zero. -/
def FV.log2 : FV → Int
  | .fin _ m e => e + (m.log2 : Int)
  | _ => 0

/-- A value times 2^k. -/
def FV.scale (k : Int) : FV → FV
  | .fin n m e => .fin n m (e + k)
  | v => v

/-! ### Binary32 (R60) -/

/-- An FP32 code's value. -/
def dec32 (x : Nat) : FV := fmt32.decode x

/-- A value rounded once to FP32. -/
def rne32 (v : FV) : Nat := fmt32.round v

def add32 (a b : Nat) : Nat := rne32 ((dec32 a).add (dec32 b))
def sub32 (a b : Nat) : Nat := rne32 ((dec32 a).add (dec32 b).negate)
def mul32 (a b : Nat) : Nat := rne32 ((dec32 a).mul (dec32 b))
/-- a × x + b with one rounding. -/
def fma32 (a x b : Nat) : Nat := rne32 (((dec32 a).mul (dec32 x)).add (dec32 b))

/-! ### Binary64, for SCALE (R39) -/

def dec64 (x : Nat) : FV := fmt64.decode x
def mul64 (a b : Nat) : Nat := fmt64.round ((dec64 a).mul (dec64 b))
def div64 (a b : Nat) : Nat := fmt64.round ((dec64 a).div (dec64 b))

/-- A whole number as the nearest binary64. -/
def ofNat64 (n : Nat) : Nat := fmt64.round (.fin false n 0)

/-- R41: a SCALE is finite and above zero. -/
def scaleOk (x : Nat) : Bool :=
  match dec64 x with
  | .fin neg m _ => !neg && m != 0
  | _ => false

/-- The whole number that a binary64 holds exactly, for BGV correction factors (R34). -/
def nat64? (x : Nat) : Option Nat :=
  match dec64 x with
  | .fin neg m e =>
    if neg then none
    else if 0 ≤ e then some (m * 2 ^ e.toNat)
    else if m % 2 ^ (-e).toNat = 0 then some (m / 2 ^ (-e).toNat) else none
  | _ => none

/-- ⌈256 × log2⌉ of a positive dyadic value m × 2^e, exact: the power m^256 tells it. -/
def log2Ceil256 (m : Nat) (e : Int) : Int :=
  let k := m ^ 256
  ((if k = 2 ^ k.log2 then k.log2 else k.log2 + 1 : Nat) : Int) + 256 * e

/-- ⌊256 × log2⌋ of a positive dyadic value. -/
def log2Floor256 (m : Nat) (e : Int) : Int := ((m ^ 256).log2 : Int) + 256 * e

/-- R43: λ(q), log2 q rounded down to a multiple of 1/256, in units of 1/256. -/
def lambdaOf (q : Nat) : Nat := (q ^ 256).log2

/-- |log2 x − T| in units of 1/256, rounded up (R74, R75), for a positive binary64. -/
def driftOf (x T : Nat) : Nat :=
  match dec64 x with
  | .fin _ m e => max (log2Ceil256 m e - 256 * T).toNat (256 * T - log2Floor256 m e).toNat
  | _ => 0

/-- |log2 (a / b)| in units of 1/256, rounded up: the exact quotient of two dyadic values, both ways round. -/
def skewOf (a b : Nat) : Nat :=
  match dec64 a, dec64 b with
  | .fin _ m1 e1, .fin _ m2 e2 =>
    let d : Int := 256 * (e1 - e2)
    let up (x y : Nat) : Int :=
      -- least v with x^256 ≤ y^256 × 2^v, from the lengths of the two powers
      let X := x ^ 256
      let Y := y ^ 256
      let v0 : Int := (X.log2 : Int) - (Y.log2 : Int)
      let le (v : Int) : Bool := if 0 ≤ v then decide (X ≤ Y * 2 ^ v.toNat) else decide (X * 2 ^ (-v).toNat ≤ Y)
      if le (v0 - 1) then v0 - 1 else if le v0 then v0 else v0 + 1
    max (up m1 m2 + d).toNat (up m2 m1 - d).toNat
  | _, _ => 0

end Sys2Proof.Machine
end

