-- ==== Sys2Proof/Machine/Crypto.lean ====
section
/-! DEFINITION. The published ciphers and hashes that the manual names: SHA-256 (FIPS 180-4), HMAC and HKDF over it,
AES-256 (FIPS 197) and AES-256-GCM (SP 800-38D). Words are numbers below 2^32. -/

namespace Sys2Proof.Machine

/-! ### SHA-256 -/

/-- A 32-bit word rotated right. -/
def rotr32 (x n : Nat) : Nat := x / 2 ^ n ||| x * 2 ^ (32 - n) % 2 ^ 32

/-- The 64 round constants in one number, constant i at bits 32i: of the cube roots of the first 64 primes, the first 32
bits after the point. -/
def shaKs : Nat :=
  0xc67178f2bef9a3f7a4506ceb90befffa8cc7020884c8781478a5636f748f82ee682e6ff35b9cca4f4ed8aa4a391c0cb334b0bcb52748774c1e376c0819a4c116106aa070f40e3585d6990624d192e819c76c51a3c24b8b70a81a664ba2bfe8a192722c8581c2c92e766a0abb650a735453380d134d2c6dfc2e1b213827b70a851429296706ca6351d5a79147c6e00bf3bf597fc7b00327c8a831c66d983e515276f988da5cb0a9dc4a7484aa2de92c6f240ca1cc0fc19dc6efbe4786e49b69c1c19bf1749bdc06a780deb1fe72be5d74550c7dc3243185be12835b01d807aa98ab1c5ed5923f82a459f111f13956c25be9b5dba5b5c0fbcf71374491428a2f98

/-- The eight words that the hash starts from, word i at bits 32i: the square roots of the first eight primes likewise. -/
def shaStart : Nat := 0x5be0cd191f83d9ab9b05688c510e527fa54ff53a3c6ef372bb67ae856a09e667

/-- Three rotations of a word combined. -/
def rot3 (x i j k : Nat) : Nat := rotr32 x i ^^^ rotr32 x j ^^^ rotr32 x k

/-- A block under way: the last four values of the upper and of the lower half of the hash value, newest first, and the 16
words of the message schedule that come next. -/
structure ShaRun where
  up : List Nat
  low : List Nat
  next : List Nat

/-- The word that follows 16 words of the message schedule. -/
def shaNext (w : List Nat) : Nat :=
  let x := w.getD 1 0
  let y := w.getD 14 0
  (w.getD 0 0 + (rotr32 x 7 ^^^ rotr32 x 18 ^^^ x / 2 ^ 3) + w.getD 9 0 + (rotr32 y 17 ^^^ rotr32 y 19 ^^^ y / 2 ^ 10)) % 2 ^ 32

/-- Round i: a new value at the front of each half. -/
def ShaRun.round (r : ShaRun) (i : Nat) : ShaRun :=
  let u (k : Nat) : Nat := r.up.getD k 0
  let l (k : Nat) : Nat := r.low.getD k 0
  let pick := (l 0 &&& l 1) ||| ((l 0 ^^^ 0xFFFF_FFFF) &&& l 2)
  let most := (u 0 &&& (u 1 ||| u 2)) ||| (u 1 &&& u 2)
  let t := l 3 + rot3 (l 0) 6 11 25 + pick + bits shaKs (32 * i) 32 + r.next.headD 0
  { up := (t + rot3 (u 0) 2 13 22 + most) % 2 ^ 32 :: r.up.take 3
    low := (u 3 + t) % 2 ^ 32 :: r.low.take 3
    next := r.next.drop 1 ++ [shaNext r.next] }

/-- One block of 64 bytes taken into the hash value. -/
def shaBlock (h : List Nat) (blk : List Byte) : List Nat :=
  let r := (List.range 64).foldl ShaRun.round { up := h.take 4, low := h.drop 4, next := (chunks 4 blk).map beNat }
  (List.range 8).map fun i => (h.getD i 0 + (r.up ++ r.low).getD i 0) % 2 ^ 32

/-- The message padded to whole blocks. -/
def shaPad (m : List Byte) : List Byte :=
  m ++ [0x80] ++ zeros ((119 - m.length % 64) % 64) ++ beBytes 8 (8 * m.length)

/-- SHA-256. -/
def sha256 (m : List Byte) : List Byte :=
  ((chunks 64 (shaPad m)).foldl shaBlock ((List.range 8).map fun i => bits shaStart (32 * i) 32)).flatMap (beBytes 4)

/-- Bytes combined with a byte. -/
def xorByte (x : Nat) (bs : List Byte) : List Byte := bs.map fun b => b ^^^ BitVec.ofNat 8 x

/-- HMAC-SHA-256. -/
def hmac256 (key m : List Byte) : List Byte :=
  let k := fit 64 (if key.length ≤ 64 then key else sha256 key)
  sha256 (xorByte 0x5c k ++ sha256 (xorByte 0x36 k ++ m))

/-- HKDF-SHA-256, extract. -/
def hkdfExtract (salt ikm : List Byte) : List Byte := hmac256 salt ikm

/-- HKDF-SHA-256, expand: blocks T(i), by count. -/
def hkdfExpandF (prk info : List Byte) : Nat → Nat → List Byte → List Byte
  | 0, _, _ => []
  | n + 1, i, t =>
    let t' := hmac256 prk (t ++ info ++ [BitVec.ofNat 8 i])
    t' ++ hkdfExpandF prk info n (i + 1) t'

/-- HKDF-SHA-256, expand to len bytes. -/
def hkdfExpand (prk info : List Byte) (len : Nat) : List Byte :=
  (hkdfExpandF prk info (ceilDiv len 32) 1 []).take len

/-- HKDF-SHA-256, both steps. -/
def hkdf (salt ikm info : List Byte) (len : Nat) : List Byte := hkdfExpand (hkdfExtract salt ikm) info len

/-! ### AES-256 -/

/-- The substitution table, byte x at bits 8x. -/
def aesS : Nat :=
  0x16bb54b00f2d99416842e6bf0d89a18cdf2855cee9871e9b948ed9691198f8e19e1dc186b95735610ef6034866b53e708a8bbd4b1f74dde8c6b4a61c2e2578ba08ae7a65eaf4566ca94ed58d6d37c8e779e4959162acd3c25c2406490a3a32e0db0b5ede14b8ee4688902a22dc4f816073195d643d7ea7c41744975fec130ccdd2f3ff1021dab6bcf5389d928f40a351a89f3c507f02f94585334d43fbaaefd0cf584c4a39becb6a5bb1fc20ed00d153842fe329b3d63b52a05a6e1b1a2c830975b227ebe28012079a059618c323c7041531d871f1e5a534ccf73f362693fdb7c072a49cafa2d4adf04759fa7dc982ca76abd7fe2b670130c56f6bf27b777c63

/-- SubBytes on one byte. -/
def sbox (x : Nat) : Nat := bits aesS (8 * x) 8

/-- Multiplication by x in GF(2^8). -/
def xtime (a : Nat) : Nat := if a < 128 then 2 * a else (2 * a) % 256 ^^^ 0x1b

/-- MixColumns on one column of four bytes. -/
def mixCol : List Nat → List Nat
  | [a, b, c, d] =>
    [xtime a ^^^ xtime b ^^^ b ^^^ c ^^^ d, a ^^^ xtime b ^^^ xtime c ^^^ c ^^^ d,
     a ^^^ b ^^^ xtime c ^^^ xtime d ^^^ d, xtime a ^^^ a ^^^ b ^^^ c ^^^ xtime d]
  | x => x

/-- ShiftRows on 16 bytes, column by column. -/
def shiftRows (st : List Nat) : List Nat := (List.range 16).map fun i => st.getD ((i + 4 * (i % 4)) % 16) 0

/-- Numbers combined one by one. -/
def xorL (a b : List Nat) : List Nat := (a.zip b).map fun p => p.1 ^^^ p.2

/-- One middle round. -/
def aesRound (st rk : List Nat) : List Nat :=
  xorL ((chunks 4 (shiftRows (st.map sbox))).flatMap mixCol) rk

/-- The key schedule: words of four bytes, newest first; i is the number of the next word. -/
def aesExpand : Nat → Nat → Nat → List (List Nat) → List (List Nat)
  | 0, _, _, w => w
  | n + 1, i, rcon, w =>
    let prev := w.getD 0 []
    let t := if i % 8 = 0 then xorL (((prev.drop 1) ++ prev.take 1).map sbox) [rcon, 0, 0, 0]
      else if i % 8 = 4 then prev.map sbox else prev
    aesExpand n (i + 1) (if i % 8 = 0 then xtime rcon else rcon) (xorL (w.getD 7 []) t :: w)

/-- The fifteen round keys of AES-256, 16 bytes each. -/
def aesKeys (key : List Nat) : List (List Nat) :=
  (chunks 4 (aesExpand 52 8 1 (chunks 4 key).reverse).reverse).map List.flatten

/-- AES-256 encryption of one block under round keys. -/
def aesBlock (rks : List (List Nat)) (blk : List Nat) : List Nat :=
  let st := ((rks.drop 1).take 13).foldl aesRound (xorL blk (rks.getD 0 []))
  xorL (shiftRows (st.map sbox)) (rks.getD 14 [])

/-- AES-256 encryption of 16 bytes under a 32-byte key. -/
def aes256 (key blk : List Byte) : List Byte :=
  (aesBlock (aesKeys (key.map (·.toNat))) (blk.map (·.toNat))).map (BitVec.ofNat 8)

/-! ### AES-256-GCM -/

/-- Multiplication in GF(2^128) as GCM orders the bits: by steps over the bits of x, most significant first. -/
def gfMulF : Nat → Nat → Nat → Nat → Nat
  | 0, _, _, z => z
  | n + 1, x, v, z =>
    let z' := if bitOf x n then z ^^^ v else z
    gfMulF n x (if v % 2 = 1 then v / 2 ^^^ 0xE1000000000000000000000000000000 else v / 2) z'

/-- The product of two field elements. -/
def gfMul (x y : Nat) : Nat := gfMulF 128 x y 0

/-- GHASH over whole blocks. -/
def ghash (h : Nat) (bs : List Byte) : Nat := (chunks 16 bs).foldl (fun y b => gfMul (y ^^^ beNat (fit 16 b)) h) 0

/-- Bytes filled with zeros to a whole number of 16-byte blocks. -/
def pad16 (bs : List Byte) : List Byte := bs ++ zeros ((16 - bs.length % 16) % 16)

/-- Counter-mode bytes from a counter value on. -/
def gcmCtr (key iv : List Byte) (c n : Nat) : List Byte :=
  ((List.range (ceilDiv n 16)).flatMap fun i => aes256 key (iv ++ beBytes 4 (c + i))).take n

/-- Bytes combined one by one. -/
def xorB (a b : List Byte) : List Byte := (a.zip b).map fun p => p.1 ^^^ p.2

/-- The tag of a ciphertext with its associated data, for a 12-byte nonce. -/
def gcmTag (key iv aad ct : List Byte) : List Byte :=
  let h := beNat (aes256 key (zeros 16))
  let y := ghash h (pad16 aad ++ pad16 ct ++ beBytes 8 (8 * aad.length) ++ beBytes 8 (8 * ct.length))
  xorB (beBytes 16 y) (aes256 key (iv ++ beBytes 4 1))

/-- AES-256-GCM encryption: ciphertext and 16-byte tag. -/
def gcmEncrypt (key iv aad pt : List Byte) : List Byte × List Byte :=
  let ct := xorB pt (gcmCtr key iv 2 pt.length)
  (ct, gcmTag key iv aad ct)

/-- AES-256-GCM decryption: the plaintext where the tag is right. -/
def gcmDecrypt (key iv aad ct tag : List Byte) : Option (List Byte) :=
  if gcmTag key iv aad ct = tag then some (xorB ct (gcmCtr key iv 2 ct.length)) else none

end Sys2Proof.Machine
end

