-- ==== Sys2Proof/Machine/Numerics.lean ====
section
/-! DEFINITION. Storage conversion and block scales (R61, R62), the reference order of OPEN reductions (R63),
position-keyed stochastic rounding (R66–R69) and the rounding of a rescale (R55, R56). -/

namespace Sys2Proof.Machine

/-! ### Formats (R194) -/

/-- R194: element codes 0 FP32, 1 BF16, 2 FP16, 3 E4M3, 4 E5M2, 5 INT8, 6 E2M1, by their bits. -/
def fmtBits : Nat → Nat
  | 0 => 32
  | 1 => 16
  | 2 => 16
  | 3 => 8
  | 4 => 8
  | 5 => 8
  | _ => 4

/-- R194: the elements of a scale block; 0 for none. -/
def blkSize : Nat → Nat
  | 1 => 16
  | 2 => 32
  | 3 => 64
  | 4 => 128
  | _ => 0

/-- R194: a format and block code the part accepts: E2M1 needs a block, only FP8, INT8 and E2M1 take one. -/
def fmtOk (f b : Nat) : Bool := f ≤ 6 && b ≤ 4 && !(f = 6 && b = 0) && (3 ≤ f || b = 0)

/-- R62: EMAX of a block-scaled format. -/
def emaxOf : Nat → Int
  | 3 => 8
  | 4 => 15
  | 6 => 2
  | _ => 0

/-- An element code decoded exactly, without its block scale. INT8 is a whole number unscaled, and a multiple of 2^−6
in a block (MXINT8). -/
def decElem (f b x : Nat) : FV :=
  match f with
  | 0 => dec32 x
  | 1 => fmtBf16.decode x
  | 2 => fmtFp16.decode x
  | 3 => if x % 128 = 127 then .nan else fmtE4M3.finite (bitOf x 7) (x % 128)
  | 4 => fmtE5M2.decode x
  | 5 =>
    let i := toSigned 8 x
    .fin (decide (i < 0)) i.natAbs (if b = 0 then 0 else -6)
  | _ => fmtE2M1.finite (bitOf x 3) (x % 8)

/-- The block scale of a scale byte: 0xFF is NaN. -/
def decScale (x : Nat) : Option Int := if x = 0xFF then none else some ((x : Int) - 127)

/-- An element with its block scale applied, exactly. -/
def decScaled (f b x sc : Nat) : FV :=
  if b = 0 then decElem f b x
  else match decScale sc with
    | none => .nan
    | some k => (decElem f b x).scale k

/-- What a store writes, and how the watches count it: 0 plain, 1 saturated, 2 non-finite. -/
structure Stored where
  code : Nat
  mark : Nat
  deriving DecidableEq, Repr

/-- A magnitude code capped at the largest finite one. -/
def capMag (c top : Nat) : Nat × Nat := if c ≤ top then (c, 0) else (top, 1)

/-- R61: an FP32 value stored in a format, unscaled or already divided by its block scale. `b` is the block code. A finite
value above the largest finite code that rounds to it counts as no saturation, and an MXINT8 element saturates to -128
(DESIGN CHOICE, log 139). -/
def storeElem (f b : Nat) (v : FV) : Stored :=
  match v with
  | .nan =>
    match f with
    | 0 => ⟨0x7FC00000, 2⟩
    | 1 => ⟨0x7FC0, 2⟩
    | 2 => ⟨0x7E00, 2⟩
    | 3 => ⟨0x7F, 2⟩
    | 4 => ⟨0x7E, 2⟩
    | _ => ⟨0, 2⟩
  | .inf n =>
    match f with
    | 0 => ⟨fmt32.round v, 2⟩
    | 1 => ⟨fmtBf16.round v, 2⟩
    | 2 => ⟨fmtFp16.round v, 2⟩
    | 3 => ⟨0x7F + b2n n * 0x80, 2⟩
    | 4 => ⟨fmtE5M2.round v, 2⟩
    | _ => ⟨if n then 0x80 else 0x7F, 2⟩
  | .fin n m e =>
    let sgn (fm : Fmt) : Nat := b2n n * fm.signBit
    match f with
    | 0 => ⟨fmt32.round v, if fmt32.roundMag m e < fmt32.infCode then 0 else 2⟩
    | 1 => let (c, k) := capMag (fmtBf16.roundMag m e) 0x7F7F; ⟨c + sgn fmtBf16, k⟩
    | 2 => let (c, k) := capMag (fmtFp16.roundMag m e) 0x7BFF; ⟨c + sgn fmtFp16, k⟩
    | 3 => let (c, k) := capMag (fmtE4M3.roundMag m e) 0x7E; ⟨c + sgn fmtE4M3, k⟩
    | 4 => let (c, k) := capMag (fmtE5M2.roundMag m e) 0x7B; ⟨c + sgn fmtE5M2, k⟩
    | 5 =>
      let e' := if b = 0 then e else e + 6
      let q := if 0 ≤ e' then m * 2 ^ e'.toNat else rneShift m (-e').toNat
      let i : Int := if n then -(q : Int) else q
      let j := max (-128) (min 127 i)
      ⟨ofSigned 8 j, if i = j then 0 else 1⟩
    | _ => let (c, k) := capMag (fmtE2M1.roundMag m e) 7; ⟨c + sgn fmtE2M1, k⟩

/-- R62: the scale byte of a block of FP32 values about to be stored, with the exponent X, and whether the block is a
block NaN. -/
def blockScale (f : Nat) (vs : List FV) : Nat × Int × Bool :=
  if vs.any fun v => !v.isFinite then (0xFF, 0, true)
  else
    let amax := vs.foldl (fun a v => match v with
      | .fin _ m e => if magLe a.1 a.2 m e then (m, e) else a
      | _ => a) ((0 : Nat), (0 : Int))
    if amax.1 = 0 then (0, -127, false)
    else
      let X := max (-127) (min 127 (FV.log2 (.fin false amax.1 amax.2) - emaxOf f))
      ((X + 127).toNat, X, false)

/-- R61, R62: a block of FP32 values stored: the scale byte and the elements. -/
def storeBlock (f b : Nat) (vs : List FV) : Nat × List Stored :=
  if b = 0 then (0, vs.map (storeElem f b))
  else
    let (sc, X, bad) := blockScale f vs
    (sc, vs.map fun v => if bad then ⟨0, 2⟩ else storeElem f b (v.scale (-X)))

/-- A row of FP32 values along the innermost dimension stored: its scale bytes and its elements. -/
def storeRow (f b : Nat) (vs : List FV) : List Nat × List Stored :=
  if b = 0 then ([], vs.map (storeElem f b))
  else
    let blks := (chunks (blkSize b) vs).map (storeBlock f b)
    (blks.map (·.1), blks.flatMap (·.2))

/-! ### Stochastic rounding (R66–R69) -/

/-- R67: the random word of one rounding. -/
def srWord (seed : List Byte) (site index pass : Nat) : Nat :=
  leAt (aes256 seed (leBytes 4 site ++ leBytes 8 index ++ leBytes 4 pass)) 0 8

/-- The FP32 code below a code in the order of values (neither infinite nor NaN). -/
def prev32 (x : Nat) : Nat :=
  if bitOf x 31 then x + 1 else if x = 0 then 0x80000001 else x - 1

/-- The FP32 code above a code. -/
def next32 (x : Nat) : Nat :=
  if bitOf x 31 then (if x = 0x80000000 then 1 else x - 1) else x + 1

/-- Two finite values are equal as numbers. -/
def FV.same (a b : FV) : Bool := a.isFinite && b.isFinite && !a.lt b && !b.lt a

/-- R68: S + B rounded stochastically with the random word W. A sum beyond the largest finite magnitude that rounds to it has no
second finite neighbour; R68 states no result there, and the model takes the finite one (DESIGN CHOICE, log 140). -/
def sr32 (S B W : Nat) : Nat :=
  let t := (dec32 S).add (dec32 B)
  let r := rne32 t
  if !t.isFinite || !(dec32 r).isFinite || t.same (dec32 r) then r
  else
    let lo := if (dec32 r).lt t then r else prev32 r
    let hi := if (dec32 r).lt t then next32 r else r
    match t.add (dec32 lo).negate, (dec32 hi).add (dec32 lo).negate with
    | .fin _ m1 e1, .fin _ m2 e2 =>
      let e := min e1 e2
      let P := 2 ^ 32 * (m1 * 2 ^ (e1 - e).toNat) / (m2 * 2 ^ (e2 - e).toNat)
      if W / 2 ^ 32 < P then hi else lo
    | _, _ => r

/-! ### The reference order (R63) -/

/-- Adjacent pairs summed and rounded. -/
def pairSums : List Nat → List Nat
  | a :: b :: xs => add32 a b :: pairSums xs
  | xs => xs

/-- The fixed pairwise tree over leaves whose number is a power of two (fuel: its levels). -/
def treeSum : Nat → List Nat → Nat
  | 0, xs => xs.headD 0
  | k + 1, xs => treeSum k (pairSums xs)

/-- One block's sum: its leaves, of which the missing ones are exact zero. -/
def blockSum (w : Nat) (leaves : List Nat) : Nat :=
  treeSum w.log2 (leaves ++ List.replicate (w - leaves.length) 0)

/-- The blocks joined in ascending order, from block b on, with the running total. -/
def joinBlocks (K : Nat) (word : Nat → Nat) : Nat → Nat → List Nat → Nat
  | _, S, [] => S
  | b, S, x :: xs => joinBlocks K word (b + 1) (if 65536 < K then sr32 S x (word b) else add32 S x) xs

/-- R63: an OPEN reduction of K terms given as its leaves (one per s terms), with the random word of each block. -/
def openReduce (K s : Nat) (leaves : List Nat) (word : Nat → Nat) : Nat :=
  let w := 512 / s
  match (chunks w leaves).map (blockSum w) with
  | [] => 0
  | x :: xs => joinBlocks K word 1 x xs

/-- The exact sum of exact products, as one leaf: scaled and rounded once. -/
def leafValue (k : Int) (ps : List (FV × FV)) : Nat :=
  match ps with
  | [] => 0
  | p :: rest => rne32 ((rest.foldl (fun a q => a.add (q.1.mul q.2)) (p.1.mul p.2)).scale k)

/-! ### Rescale (R55, R56, R69) -/

/-- R55: the centred value of r modulo an odd M. -/
def centred (r M : Nat) : Int := if r ≤ (M - 1) / 2 then r else (r : Int) - M

/-- R69: the stochastic choice for r in [0, M) with the random word W. -/
def srDelta (r M W : Nat) : Int := if W * M / 2 ^ 64 < r then (r : Int) - M else r

/-- R55: the BGV correction: δ_0 + k × M with k the representative of −δ_0 / M mod t in (−t/2, t/2]. -/
def bgvDelta (r M t : Nat) : Int :=
  let d0 := centred r M
  let k0 := ((-d0) * (invModAny t (M % t) : Int)) % (t : Int)
  let k : Int := if 2 * k0 ≤ t then k0 else k0 - t
  d0 + k * M
where
  /-- The inverse of a modulo any m coprime to it, by the extended Euclidean steps. -/
  invModAny (m a : Nat) : Nat := invGo m (2 * m.log2 + 4) m a 0 1
  /-- Steps on (r0, r1) with the coefficients of a. -/
  invGo (m : Nat) : Nat → Nat → Nat → Int → Int → Nat
    | 0, _, _, _, x1 => (x1 % (m : Int)).toNat
    | f + 1, r0, r1, x0, x1 =>
      if r1 = 0 then (x0 % (m : Int)).toNat
      else invGo m f r1 (r0 % r1) x1 (x0 - (r0 / r1 : Nat) * x1)

/-- The residue of an integer modulo q. -/
def modInt (i : Int) (q : Nat) : Nat := (i % (q : Int)).toNat

/-- R55: a remaining limb's coefficient after the rescale: (a − δ) × M^−1 mod q. -/
def rescaleCoef (a : Nat) (δ : Int) (M q : Nat) : Nat := modInt ((a : Int) - δ) q * invMod q (M % q) % q

/-- R56: the CRT lift of two residues (r0 modulo q0, r1 modulo q1) into [0, q0 × q1). -/
def crt2 (q0 r0 q1 r1 : Nat) : Nat :=
  let k := (r1 + q1 - r0 % q1) % q1 * invMod q1 (q0 % q1) % q1
  (r0 + q0 * k) % (q0 * q1)

end Sys2Proof.Machine
end

