-- ==== Sys2Proof/Config.lean ====
section
/-! DEFINITION. What the manual leaves open and a part fixes: constants without a body, so that no proof can see a
value of them. Where one is applied to the model's counter `free`, each use is a fresh value. -/

namespace Sys2Proof.Config

/-- The check bits that the durable code (true: a BCH code, 20 bits over 256) or the transient one (SEC-DED, 8 bits over
64) of R255 gives a word: the manual names the codes and not their matrices (free value, log 20). -/
opaque wordCheck : Bool → Nat → Nat

/-- The raw bits of a row that holds an error, as RAW_RD reads them (R258): the flipped bits are the upset's own (free
value, log 20). -/
opaque upsetRow : Nat → List Byte → List Byte

/-- The byte that a traffic generator's pattern leaves at a place: pattern code, channel, slot, byte. The manual names
PRBS31, walking ones and address-in-data and not their layout; pattern 0b11 is zeros (free value, log 21). -/
opaque tgPattern : Nat → Nat → Nat → Nat → Byte

/-- A fresh arbitrary number, for every use of the counter `free` (free value, log 2). -/
opaque freeNat : Nat → Nat

/-- Fresh arbitrary bytes: draws of the noise source, keys and nonces (free value, log 2). -/
opaque freeBytes : Nat → Nat → List Byte

/-- The scale s_p (CKKS) or the correction factor c_p (BGV) that R39 gives a constant operand, as binary64: the encoding
of CTMULC carries none. Site of the operation and the constant's words (free value, log 35). -/
opaque constScale : Nat → List Nat → Nat

/-! ### Identities and packages (R371, R378–R380, R385, R386, R394) -/

/-- The installation configuration (R380): the manual lists its fields and not their layout. -/
structure Inst where
  epid : Nat
  split : Nat
  mbx : List (Nat × Nat × Nat)
  keyAuth : List Byte
  registry : List Byte
  service : List Byte
  roster : List (Nat × List Byte)
  accepted : List (List (List Byte))
  deriving DecidableEq, Repr, Inhabited

/-- What a peer's attestation chain says (R379, R394): the hash of its DIK certificate, its AK modulus, and MEAS0 to
MEAS3. -/
structure Chain where
  dik : List Byte
  ak : List Byte
  meas : List (List Byte)
  deriving DecidableEq, Repr, Inhabited

/-- The header of a share package (R386): the manual lists its fields and not their layout. `len` is what the signature
covers; `eph` the ephemeral key, `salt`, `info`, `iv` and `aad` what the key derivation and the cipher take beside the
secret, `ct` and `tag` the encrypted share, `policy` the policy authority's modulus. -/
structure SharePkg where
  epid : Nat
  dik : List Byte
  epoch : Nat
  keyset : Nat
  chain : Nat
  logn : Nat
  limbs : Nat
  policy : List Byte
  eph : List Byte
  salt : List Byte
  info : List Byte
  iv : List Byte
  aad : List Byte
  ct : List Byte
  tag : List Byte
  len : Nat
  sig : List Byte
  modulus : List Byte
  deriving DecidableEq, Repr, Inhabited

/-- A key-set package (R385): its key set and entries, each with a die mask, the body's size and its SHA-256, the bytes
that the signature covers, the signature with the key authority's modulus, the chain entries, and the bodies. The manual
does not lay the fields out. -/
structure KeysetPkg where
  keyset : Nat
  entries : List (Nat × Nat × List Byte)
  len : Nat
  sig : List Byte
  modulus : List Byte
  chains : List (List Byte)
  bodies : List (List Byte)
  deriving DecidableEq, Repr, Inhabited

/-- The configuration that an image's body holds (free value, log 58). -/
opaque instOf : List Byte → Inst

/-- The chain that DER bytes hold, where it verifies to the Tuzia Linzor root (free value, log 59). -/
opaque chainOf : List Byte → Option Chain

/-- The fields of a share package's bytes (free value, log 58). -/
opaque shareOf : List Byte → SharePkg

/-- The fields of a key-set package's bytes (free value, log 58). -/
opaque keysetOf : List Byte → KeysetPkg

/-- SHA-256 of a firmware signing key, by fuse slot (R371; free value, log 60). -/
opaque vkey : Nat → List Byte

/-- The digest of the boot ROM (R375; free value, log 60). -/
opaque romDigest : List Byte

/-- The 64 bytes of the fuse configuration that MEAS5 takes (R375; free value, log 60). -/
opaque fuseConfig : List Byte

/-- The part's public moduli (R378): kind (1 AK, 2 RIK) and key number (free value, log 60). -/
opaque modulus : Nat → Nat → List Byte

/-- A signature by a part key (R378): kind, key number, message, draw (free value, log 60). -/
opaque signature : Nat → Nat → List Byte → Nat → List Byte

/-- The scalar of the import key XK, by key number (R378; free value, log 60). -/
opaque xk : Nat → Nat

/-- The hash of the part's own DIK certificate (R379; free value, log 60). -/
opaque dikHash : List Byte

/-- The AK chain that the part presents (R379), by key number and MEAS0 to MEAS3 (free value, log 60). -/
opaque akChain : Nat → List (List Byte) → List Byte

/-- The bytes that an SPDM signature or key schedule takes: the request's code and the fields of request and answer. The
manual takes the encodings from the published standard (free value, log 61). -/
opaque spdmBytes : Nat → List (List Byte) → List Byte

/-- A session's secret and the verify data that FINISH must carry, by the key schedule of SPDM (R382; free value, log
61). -/
opaque sessionSecret : List Byte → List Byte
opaque finishData : List Byte → List Byte

/-- The banks that Drazhaest makes durable on a die (R255): the manual says that it sets SPAD_CLASS after reset and not to
what (free value, log 77). -/
opaque spadClass : Nat → Nat

/-- The smudging value of a coefficient (R364), before it is brought into its range: the draws of AES-256-CTR under the
epoch's seed, whose counter block holds SPENT, the limb and the coefficient. The manual lays out neither the block nor
the rejection (free value, log 87). -/
opaque smudge : List Byte → Nat → Nat → Nat → Nat

/-- What a probe's samples are encrypted with, from the agreed secret and the member: key, nonce and associated data (R367;
free value, log 88). -/
opaque probeKey : List Byte → Nat → List Byte × List Byte × List Byte

/-- The identification that the test access port's IDCODE returns (R396; free value, log 62). -/
opaque idcode : Nat

end Sys2Proof.Config
end

