-- ==== Sys2Proof/Machine/RowCode.lean ====
section
/-! DEFINITION. The codes that protect a scratchpad row (R255, R258): its check bits word by word, and what their decoder
makes of stored bits. The codes' matrices are not given (log 20); what they correct is. -/

namespace Sys2Proof.Machine

/-- The data bits of a code word: 256 of the durable code, 64 of the transient one (R255). -/
def codeBits (durable : Bool) : Nat := if durable then 256 else 64

/-- The check bits of a code word (R264). -/
def codeChecks (durable : Bool) : Nat := if durable then 20 else 8

/-- The check bits of a word. -/
def codeCheck (durable : Bool) (w : Nat) : Nat := Config.wordCheck durable w % 2 ^ codeChecks durable

/-- The words of a row. -/
def rowWords (durable : Bool) (row : List Byte) : List Nat := (chunks (codeBits durable / 8) row).map leNat

/-- R264: the check bits of a row as SPAD_TWIN_CHECK holds them, word by word from bit 0 on. -/
def rowCheck (durable : Bool) (row : List Byte) : Nat :=
  (rowWords durable row).foldr (fun w acc => codeCheck durable w + acc * 2 ^ codeChecks durable) 0

/-- The error patterns that a code corrects, over a word's data bits and then its check bits: one bit, and for the durable
code two (R255). -/
def codeErrors (durable : Bool) : List Nat :=
  let one := (List.range (codeBits durable + codeChecks durable)).map fun i => 2 ^ i
  if durable then one ++ one.flatMap fun a => one.map fun b => a ^^^ b else one

/-- A stored word decoded: 0 no error found, 1 corrected, 2 uncorrectable; with the data after correction. -/
def wordDecode (durable : Bool) (w chk : Nat) : Nat × Nat :=
  if codeCheck durable w = chk then (0, w)
  else
    match (codeErrors durable).find? fun e =>
      codeCheck durable (w ^^^ e % 2 ^ codeBits durable) = chk ^^^ e / 2 ^ codeBits durable with
    | some e => (1, w ^^^ e % 2 ^ codeBits durable)
    | none => (2, w)

/-- A stored row decoded word by word (R255, R258): the worst of its words' outcomes, and the bytes after correction. -/
def rowDecode (durable : Bool) (row : List Byte) (chk : Nat) : Nat × List Byte :=
  let ws := (rowWords durable row).zipIdx.map fun (p : Nat × Nat) =>
    wordDecode durable p.1 (bits chk (codeChecks durable * p.2) (codeChecks durable))
  (ws.foldl (fun m p => max m p.1) 0, ws.flatMap fun p => leBytes (codeBits durable / 8) p.2)

end Sys2Proof.Machine
end

