-- ==== Sys2Proof/Machine/RegMap.lean ====
section
/-! DEFINITION. The register map of BAR0 (R465–R476) as data: one constant `R.<REGISTER>_<FIELD>` for every
field of every register, written from the field tables of the chapters that own them, and the table
`regTable` that a register write or read goes by (widths, access codes R13, writers R472, locks R474).
A field marked reserved has no constant: it reads as zero and a write to it is lost (R5). -/

namespace Sys2Proof.Machine

/-- Access codes of R13. -/
inductive Access where
  | rw | ro | wo | w1c | rw1s | rwl
  deriving DecidableEq, Repr

/-- The rows of R472's table of writers; `perChannel` registers follow R324. -/
inductive Writers where
  | hostRings | replay | mgmt | perChannel | secOnly | mgmtCores | twin | mgmtDebug | margin
  deriving DecidableEq, Repr

/-- One field of a register: the byte address of its register in BAR0, its lowest bit, its width in bits and the
value its Reset column gives; `fused` says that the Reset column reads fused, strap or latch (R14), and the value
then comes from the part's fuses. -/
structure Fld where
  addr : Nat
  lo : Nat
  w : Nat
  rst : Nat := 0
  fused : Bool := false
  deriving DecidableEq, Repr

/-- The key under which the register file holds a field. -/
def Fld.key (f : Fld) : Nat := f.addr * 64 + f.lo

/-- A field of a register row: place, width, access code and reset value. -/
structure FRow where
  lo : Nat
  w : Nat
  acc : Access
  rst : Nat
  fused : Bool
  deriving DecidableEq, Repr

/-- A register, or an array of registers, of one window. `dims` lists (count, stride) pairs, outer first; `lock` is
the offset in the same window and the bit of the LOCK that locks its fields (R474). -/
structure RegRow where
  name : String
  cd : Bool
  off : Nat
  width : Nat
  dims : List (Nat × Nat)
  writers : Writers
  lock : Option (Nat × Nat)
  fields : List FRow
  deriving DecidableEq, Repr

/-- R465: the base of compute die d's window. -/
def cdBase (d : Nat) : Nat := 0x0100_0000 + d * 0x0010_0000


def R.CAPS_PART : Fld := ⟨0, 0, 4, 0, true⟩
def R.CAPS_STEPPING : Fld := ⟨0, 4, 4, 0, true⟩
def R.CAPS_DIE_PRESENT : Fld := ⟨0, 8, 8, 0, true⟩
def R.CAPS_DIE_INSERV : Fld := ⟨0, 16, 8, 0, true⟩
def R.CAPS_PD_PRESENT : Fld := ⟨0, 24, 6, 0, true⟩
def R.CAPS_DEGRADED : Fld := ⟨0, 32, 1, 0, true⟩
def R.BASIL_CAPS_PRESENT (d : Nat) : Fld := ⟨cdBase d + 0x20000, 0, 1, 0, true⟩
def R.BASIL_CAPS_F16 (d : Nat) : Fld := ⟨cdBase d + 0x20000, 1, 1, 0, true⟩
def R.BASIL_CAPS_F8 (d : Nat) : Fld := ⟨cdBase d + 0x20000, 2, 1, 0, true⟩
def R.BASIL_CAPS_F4 (d : Nat) : Fld := ⟨cdBase d + 0x20000, 3, 1, 0, true⟩
def R.BASIL_CAPS_AESCORES (d : Nat) : Fld := ⟨cdBase d + 0x20000, 16, 8, 0x40, false⟩
def R.BASIL_CFG_ENABLE (d : Nat) : Fld := ⟨cdBase d + 0x20008, 0, 1, 0, false⟩
def R.BASIL_CFG_OPEN_EN (d : Nat) : Fld := ⟨cdBase d + 0x20008, 1, 1, 0, false⟩
def R.BASIL_CFG_LOCK (d : Nat) : Fld := ⟨cdBase d + 0x20008, 31, 1, 0, false⟩
def R.BASIL_SHAPE_TK (d : Nat) : Fld := ⟨cdBase d + 0x20010, 0, 3, 7, false⟩
def R.BASIL_SHAPE_TN (d : Nat) : Fld := ⟨cdBase d + 0x20010, 3, 3, 7, false⟩
def R.BASIL_SHAPE_QUAD (d : Nat) : Fld := ⟨cdBase d + 0x20010, 6, 1, 0, false⟩
def R.BASIL_STATUS_BUSY (d : Nat) : Fld := ⟨cdBase d + 0x20018, 0, 1, 0, false⟩
def R.BASIL_STATUS_MODE (d : Nat) : Fld := ⟨cdBase d + 0x20018, 1, 1, 0, false⟩
def R.BASIL_STATUS_CONFIG (d : Nat) : Fld := ⟨cdBase d + 0x20018, 2, 2, 0, false⟩
def R.BASIL_STATUS_ENTRY_OK (d : Nat) : Fld := ⟨cdBase d + 0x20018, 4, 1, 0, false⟩
def R.BASIL_STATUS_LAST_CODE (d : Nat) : Fld := ⟨cdBase d + 0x20018, 16, 16, 0, false⟩
def R.BASIL_STATUS_LAST_SITE (d : Nat) : Fld := ⟨cdBase d + 0x20018, 32, 32, 0, false⟩
def R.BASIL_INUSE_INUSE (d : Nat) : Fld := ⟨cdBase d + 0x20020, 0, 48, 0, false⟩
def R.BASIL_WINMAP0_MAP (d : Nat) : Fld := ⟨cdBase d + 0x20028, 0, 64, 0, false⟩
def R.BASIL_WINMAP1_MAP (d : Nat) : Fld := ⟨cdBase d + 0x20030, 0, 64, 0, false⟩
def R.BASIL_TSEED_HANDLE (d : Nat) : Fld := ⟨cdBase d + 0x20038, 0, 16, 0xFFFF, false⟩
def R.BASIL_STALL_LIMIT_LIMIT_US (d : Nat) : Fld := ⟨cdBase d + 0x20040, 0, 32, 0x3E8, false⟩
def R.BASIL_EPOCH_EPOCH (d : Nat) : Fld := ⟨cdBase d + 0x20048, 0, 32, 0, false⟩
def R.BASIL_RESTARTS_COUNT (d : Nat) : Fld := ⟨cdBase d + 0x20050, 0, 32, 0, false⟩
def R.BASIL_STEPS_COUNT (d : Nat) : Fld := ⟨cdBase d + 0x20058, 0, 64, 0, false⟩
def R.MINT_CAPS_PRESENT0 (d : Nat) : Fld := ⟨cdBase d + 0x30000, 0, 1, 0, true⟩
def R.MINT_CAPS_PRESENT1 (d : Nat) : Fld := ⟨cdBase d + 0x30000, 1, 1, 0, true⟩
def R.MINT_CAPS_STORE_KIB (d : Nat) : Fld := ⟨cdBase d + 0x30000, 16, 16, 0x400, false⟩
def R.MINT_CFG_ENABLE0 (d : Nat) : Fld := ⟨cdBase d + 0x30008, 0, 1, 0, false⟩
def R.MINT_CFG_ENABLE1 (d : Nat) : Fld := ⟨cdBase d + 0x30008, 1, 1, 0, false⟩
def R.MINT_CFG_LOCK (d : Nat) : Fld := ⟨cdBase d + 0x30008, 31, 1, 0, false⟩
def R.MINT_STATUS_BUSY0 (d : Nat) : Fld := ⟨cdBase d + 0x30010, 0, 1, 0, false⟩
def R.MINT_STATUS_BUSY1 (d : Nat) : Fld := ⟨cdBase d + 0x30010, 1, 1, 0, false⟩
def R.MINT_STATUS_ENTRY_OK0 (d : Nat) : Fld := ⟨cdBase d + 0x30010, 2, 1, 0, false⟩
def R.MINT_STATUS_ENTRY_OK1 (d : Nat) : Fld := ⟨cdBase d + 0x30010, 3, 1, 0, false⟩
def R.MINT_STATUS_MODE (d : Nat) : Fld := ⟨cdBase d + 0x30010, 4, 1, 0, false⟩
def R.MINT_STATUS_LAST_CODE (d : Nat) : Fld := ⟨cdBase d + 0x30010, 16, 16, 0, false⟩
def R.MINT_STATUS_LAST_SITE (d : Nat) : Fld := ⟨cdBase d + 0x30010, 32, 32, 0, false⟩
def R.MINT_STALL_LIMIT_LIMIT_US (d : Nat) : Fld := ⟨cdBase d + 0x30018, 0, 32, 0x3E8, false⟩
def R.MINT_EPOCH_EPOCH0 (d : Nat) : Fld := ⟨cdBase d + 0x30020, 0, 32, 0, false⟩
def R.MINT_EPOCH_EPOCH1 (d : Nat) : Fld := ⟨cdBase d + 0x30020, 32, 32, 0, false⟩
def R.MINT_RESTARTS_COUNT (d : Nat) : Fld := ⟨cdBase d + 0x30028, 0, 32, 0, false⟩
def R.MINT_STEPS_COUNT (d : Nat) : Fld := ⟨cdBase d + 0x30030, 0, 64, 0, false⟩
def R.MINT_CONFLICTS_COUNT (d : Nat) : Fld := ⟨cdBase d + 0x30038, 0, 64, 0, false⟩
def R.PARS_CAPS_PRESENT (d : Nat) : Fld := ⟨cdBase d + 0x40000, 0, 1, 0, true⟩
def R.PARS_CAPS_FP32 (d : Nat) : Fld := ⟨cdBase d + 0x40000, 1, 1, 0, true⟩
def R.PARS_CAPS_BF16 (d : Nat) : Fld := ⟨cdBase d + 0x40000, 2, 1, 0, true⟩
def R.PARS_CAPS_LANES (d : Nat) : Fld := ⟨cdBase d + 0x40000, 16, 10, 0x200, false⟩
def R.PARS_CAPS_AESCORES (d : Nat) : Fld := ⟨cdBase d + 0x40000, 32, 8, 0x40, false⟩
def R.PARS_CFG_ENABLE (d : Nat) : Fld := ⟨cdBase d + 0x40008, 0, 1, 0, false⟩
def R.PARS_CFG_OPEN_EN (d : Nat) : Fld := ⟨cdBase d + 0x40008, 1, 1, 0, false⟩
def R.PARS_CFG_LOCK (d : Nat) : Fld := ⟨cdBase d + 0x40008, 31, 1, 0, false⟩
def R.PARS_STATUS_BUSY0 (d : Nat) : Fld := ⟨cdBase d + 0x40010, 0, 1, 0, false⟩
def R.PARS_STATUS_BUSY1 (d : Nat) : Fld := ⟨cdBase d + 0x40010, 1, 1, 0, false⟩
def R.PARS_STATUS_ENTRY_OK0 (d : Nat) : Fld := ⟨cdBase d + 0x40010, 2, 1, 0, false⟩
def R.PARS_STATUS_ENTRY_OK1 (d : Nat) : Fld := ⟨cdBase d + 0x40010, 3, 1, 0, false⟩
def R.PARS_STATUS_MODE (d : Nat) : Fld := ⟨cdBase d + 0x40010, 4, 1, 0, false⟩
def R.PARS_STATUS_LAST_CODE (d : Nat) : Fld := ⟨cdBase d + 0x40010, 16, 16, 0, false⟩
def R.PARS_STATUS_LAST_SITE (d : Nat) : Fld := ⟨cdBase d + 0x40010, 32, 32, 0, false⟩
def R.PARS_STALL_LIMIT_LIMIT_US (d : Nat) : Fld := ⟨cdBase d + 0x40018, 0, 32, 0x3E8, false⟩
def R.PARS_EPOCH_EPOCH (d : Nat) : Fld := ⟨cdBase d + 0x40020, 0, 32, 0, false⟩
def R.PARS_RESTARTS_COUNT (d : Nat) : Fld := ⟨cdBase d + 0x40028, 0, 32, 0, false⟩
def R.PARS_STEPS_COUNT (d : Nat) : Fld := ⟨cdBase d + 0x40030, 0, 64, 0, false⟩
def R.PARS_OWNER_CORE (d : Nat) : Fld := ⟨cdBase d + 0x40038, 0, 3, 0, false⟩
def R.DILL_CAPS_PRESENT (d : Nat) : Fld := ⟨cdBase d + 0x50000, 0, 1, 0, true⟩
def R.DILL_CAPS_AESCORES (d : Nat) : Fld := ⟨cdBase d + 0x50000, 16, 8, 0x80, false⟩
def R.DILL_CAPS_CONTEXTS (d : Nat) : Fld := ⟨cdBase d + 0x50000, 24, 4, 2, false⟩
def R.DILL_CAPS_BUF_ROWS (d : Nat) : Fld := ⟨cdBase d + 0x50000, 32, 16, 0x100, false⟩
def R.DILL_CFG_ENABLE0 (d : Nat) : Fld := ⟨cdBase d + 0x50008, 0, 1, 0, false⟩
def R.DILL_CFG_ENABLE1 (d : Nat) : Fld := ⟨cdBase d + 0x50008, 1, 1, 0, false⟩
def R.DILL_CFG_LOCK (d : Nat) : Fld := ⟨cdBase d + 0x50008, 31, 1, 0, false⟩
def R.DILL_STATUS_BUSY0 (d : Nat) : Fld := ⟨cdBase d + 0x50010, 0, 1, 0, false⟩
def R.DILL_STATUS_BUSY1 (d : Nat) : Fld := ⟨cdBase d + 0x50010, 1, 1, 0, false⟩
def R.DILL_STATUS_ENTRY_OK (d : Nat) : Fld := ⟨cdBase d + 0x50010, 2, 1, 0, false⟩
def R.DILL_STATUS_LAST_CODE (d : Nat) : Fld := ⟨cdBase d + 0x50010, 16, 16, 0, false⟩
def R.DILL_STATUS_LAST_SITE (d : Nat) : Fld := ⟨cdBase d + 0x50010, 32, 32, 0, false⟩
def R.DILL_STALL_LIMIT_LIMIT_US (d : Nat) : Fld := ⟨cdBase d + 0x50018, 0, 32, 0x3E8, false⟩
def R.DILL_EPOCH_EPOCH (d : Nat) : Fld := ⟨cdBase d + 0x50020, 0, 32, 0, false⟩
def R.DILL_RESTARTS_COUNT (d : Nat) : Fld := ⟨cdBase d + 0x50028, 0, 32, 0, false⟩
def R.DILL_KOBASE_HANDLE0 (d : Nat) : Fld := ⟨cdBase d + 0x50030, 0, 16, 0xFFFF, false⟩
def R.DILL_KOBASE_HANDLE1 (d : Nat) : Fld := ⟨cdBase d + 0x50030, 16, 16, 0xFFFF, false⟩
def R.DILL_ORDER_NEXT0 (d : Nat) : Fld := ⟨cdBase d + 0x50038, 0, 16, 0, false⟩
def R.DILL_ORDER_NEXT1 (d : Nat) : Fld := ⟨cdBase d + 0x50038, 16, 16, 0, false⟩
def R.DILL_MISMATCH_CAUSE (d : Nat) : Fld := ⟨cdBase d + 0x50040, 0, 4, 0, false⟩
def R.DILL_MISMATCH_CTX (d : Nat) : Fld := ⟨cdBase d + 0x50040, 4, 1, 0, false⟩
def R.DILL_MISMATCH_DIGIT (d : Nat) : Fld := ⟨cdBase d + 0x50040, 5, 3, 0, false⟩
def R.DILL_MISMATCH_SITE (d : Nat) : Fld := ⟨cdBase d + 0x50040, 32, 32, 0, false⟩
def R.DILL_ROWS_COUNT (d : Nat) : Fld := ⟨cdBase d + 0x50048, 0, 64, 0, false⟩
def R.DILL_DRAWS_COUNT (d : Nat) : Fld := ⟨cdBase d + 0x50050, 0, 64, 0, false⟩
def R.DILL_REJECTS_COUNT (d : Nat) : Fld := ⟨cdBase d + 0x50058, 0, 64, 0, false⟩
def R.TARR_CAPS_PRESENT (d : Nat) : Fld := ⟨cdBase d + 0x60000, 0, 1, 0, true⟩
def R.TARR_CAPS_LANES (d : Nat) : Fld := ⟨cdBase d + 0x60000, 16, 8, 0, true⟩
def R.TARR_CAPS_MAX_ELOG (d : Nat) : Fld := ⟨cdBase d + 0x60000, 24, 4, 0xC, false⟩
def R.TARR_CAPS_KSW_LANES (d : Nat) : Fld := ⟨cdBase d + 0x60000, 32, 16, 0x800, false⟩
def R.TARR_CFG_ENABLE (d : Nat) : Fld := ⟨cdBase d + 0x60008, 0, 1, 0, false⟩
def R.TARR_CFG_PROBE_EN (d : Nat) : Fld := ⟨cdBase d + 0x60008, 1, 1, 0, false⟩
def R.TARR_CFG_LOCK (d : Nat) : Fld := ⟨cdBase d + 0x60008, 31, 1, 0, false⟩
def R.TARR_STATUS_BUSY (d : Nat) : Fld := ⟨cdBase d + 0x60010, 0, 1, 0, false⟩
def R.TARR_STATUS_ENTRY_OK (d : Nat) : Fld := ⟨cdBase d + 0x60010, 1, 1, 0, false⟩
def R.TARR_STATUS_OP (d : Nat) : Fld := ⟨cdBase d + 0x60010, 2, 3, 0, false⟩
def R.TARR_STATUS_LAST_CODE (d : Nat) : Fld := ⟨cdBase d + 0x60010, 16, 16, 0, false⟩
def R.TARR_STATUS_LAST_SITE (d : Nat) : Fld := ⟨cdBase d + 0x60010, 32, 32, 0, false⟩
def R.TARR_STALL_LIMIT_LIMIT_US (d : Nat) : Fld := ⟨cdBase d + 0x60018, 0, 32, 0x3E8, false⟩
def R.TARR_EPOCH_EPOCH (d : Nat) : Fld := ⟨cdBase d + 0x60020, 0, 32, 0, false⟩
def R.TARR_RESTARTS_COUNT (d : Nat) : Fld := ⟨cdBase d + 0x60028, 0, 32, 0, false⟩
def R.TARR_STEPS_COUNT (d : Nat) : Fld := ⟨cdBase d + 0x60030, 0, 64, 0, false⟩
def R.TARR_WAVES_COUNT (d : Nat) : Fld := ⟨cdBase d + 0x60038, 0, 64, 0, false⟩
def R.TARR_SAMPLES_COUNT (d : Nat) : Fld := ⟨cdBase d + 0x60040, 0, 64, 0, false⟩
def R.STRM_CAPS_GROUPS (d : Nat) : Fld := ⟨cdBase d + 0x70000, 0, 4, 0, true⟩
def R.STRM_CAPS_FINE (d : Nat) : Fld := ⟨cdBase d + 0x70000, 4, 4, 7, false⟩
def R.STRM_CAPS_SUNITS (d : Nat) : Fld := ⟨cdBase d + 0x70000, 8, 5, 0x10, false⟩
def R.STRM_CAPS_FIFO (d : Nat) : Fld := ⟨cdBase d + 0x70000, 16, 8, 0x10, false⟩
def R.STRM_CFG_ENABLE (d : Nat) : Fld := ⟨cdBase d + 0x70008, 0, 1, 0, false⟩
def R.STRM_CFG_LOCK (d : Nat) : Fld := ⟨cdBase d + 0x70008, 31, 1, 0, false⟩
def R.STRM_GROUP_LVL_B (d : Nat) : Fld := ⟨cdBase d + 0x70010, 0, 1, 0, false⟩
def R.STRM_GROUP_LVL_M (d : Nat) : Fld := ⟨cdBase d + 0x70010, 1, 1, 0, false⟩
def R.STRM_GROUP_LVL_P (d : Nat) : Fld := ⟨cdBase d + 0x70010, 2, 1, 0, false⟩
def R.STRM_GROUP_LVL_T (d : Nat) : Fld := ⟨cdBase d + 0x70010, 3, 1, 0, false⟩
def R.STRM_GROUP_OWN_B (d : Nat) : Fld := ⟨cdBase d + 0x70010, 4, 3, 0, false⟩
def R.STRM_GROUP_OWN_M (d : Nat) : Fld := ⟨cdBase d + 0x70010, 7, 3, 0, false⟩
def R.STRM_GROUP_OWN_T (d : Nat) : Fld := ⟨cdBase d + 0x70010, 10, 3, 0, false⟩
def R.STRM_STATUS_BUSY (d : Nat) : Fld := ⟨cdBase d + 0x70018, 0, 4, 0, false⟩
def R.STRM_STATUS_OCC_B (d : Nat) : Fld := ⟨cdBase d + 0x70018, 16, 5, 0, false⟩
def R.STRM_STATUS_OCC_M (d : Nat) : Fld := ⟨cdBase d + 0x70018, 21, 5, 0, false⟩
def R.STRM_STATUS_OCC_P (d : Nat) : Fld := ⟨cdBase d + 0x70018, 26, 5, 0, false⟩
def R.STRM_STATUS_OCC_T (d : Nat) : Fld := ⟨cdBase d + 0x70018, 31, 5, 0, false⟩
def R.STRM_STALL_LIMIT_LIMIT_US (d : Nat) : Fld := ⟨cdBase d + 0x70020, 0, 32, 0x3E8, false⟩
def R.SU_PROGBASE_HANDLE (d : Nat) : Fld := ⟨cdBase d + 0x70028, 0, 16, 0xFFFF, false⟩
def R.SU_BUSY_BUSY (d : Nat) : Fld := ⟨cdBase d + 0x70030, 0, 16, 0, false⟩
def R.SU_FAULT_UNIT (d : Nat) : Fld := ⟨cdBase d + 0x70038, 0, 4, 0, false⟩
def R.SU_FAULT_CODE (d : Nat) : Fld := ⟨cdBase d + 0x70038, 16, 16, 0, false⟩
def R.SU_FAULT_PROG (d : Nat) : Fld := ⟨cdBase d + 0x70038, 32, 16, 0, false⟩
def R.STRM_LAYER_COUNT (d : Nat) : Fld := ⟨cdBase d + 0x70040, 0, 32, 0, false⟩
def R.SU_BYTES_COUNT (d : Nat) : Fld := ⟨cdBase d + 0x70048, 0, 64, 0, false⟩
def R.CHIVE_CAPS_PRESENT (d : Nat) : Fld := ⟨cdBase d + 0x80000, 0, 8, 0, true⟩
def R.CHIVE_CAPS_DMEM_KIB (d : Nat) : Fld := ⟨cdBase d + 0x80000, 16, 16, 0x100, false⟩
def R.CHIVE_CAPS_IBANK_KIB (d : Nat) : Fld := ⟨cdBase d + 0x80000, 32, 16, 0x20, false⟩
def R.CHIVE_RUN_RUN (d : Nat) : Fld := ⟨cdBase d + 0x80008, 0, 7, 0, false⟩
def R.CHIVE_RUN_RUN7 (d : Nat) : Fld := ⟨cdBase d + 0x80008, 7, 1, 1, false⟩
def R.CHIVE_STATUS_ACTIVE_BANK (d : Nat) : Fld := ⟨cdBase d + 0x80010, 0, 8, 0, false⟩
def R.CHIVE_STATUS_HALTED (d : Nat) : Fld := ⟨cdBase d + 0x80010, 8, 8, 0, false⟩
def R.CHIVE_STATUS_TRAPPED (d : Nat) : Fld := ⟨cdBase d + 0x80010, 16, 8, 0, false⟩
def R.CHIVE_TRAP_CORE (d : Nat) : Fld := ⟨cdBase d + 0x80018, 0, 3, 0, false⟩
def R.CHIVE_TRAP_CAUSE (d : Nat) : Fld := ⟨cdBase d + 0x80018, 8, 8, 0, false⟩
def R.CHIVE_TRAP_EPC (d : Nat) : Fld := ⟨cdBase d + 0x80018, 32, 32, 0, false⟩
def R.CHIVE_INSTRET_COUNT (d c : Nat) : Fld := ⟨cdBase d + 0x80040 + c * 8, 0, 64, 0, false⟩
def R.LDR_CAPS_SLOTS : Fld := ⟨0x60000, 0, 8, 0x10, false⟩
def R.LDR_CAPS_MAX_MIB : Fld := ⟨0x60000, 8, 16, 0x100, false⟩
def R.LDR_CAPS_FMT : Fld := ⟨0x60000, 24, 8, 1, false⟩
def R.LDR_SLOTS_VALID : Fld := ⟨0x60008, 0, 16, 0, false⟩
def R.LDR_SLOTS_INUSE : Fld := ⟨0x60008, 16, 16, 0, false⟩
def R.LDR_LAST_CODE : Fld := ⟨0x60010, 0, 16, 0, false⟩
def R.LDR_LAST_SLOT : Fld := ⟨0x60010, 16, 4, 0, false⟩
def R.LDR_LAST_OFFSET : Fld := ⟨0x60010, 32, 32, 0, false⟩
def R.SPAD_CAPS_HANDLES (d : Nat) : Fld := ⟨cdBase d + 0x90000, 0, 9, 0x100, false⟩
def R.SPAD_CAPS_COPY_ELEMS (d : Nat) : Fld := ⟨cdBase d + 0x90000, 16, 8, 0x10, false⟩
def R.SPAD_CAPS_REMOTE_DIV (d : Nat) : Fld := ⟨cdBase d + 0x90000, 24, 8, 8, false⟩
def R.SPAD_BANKS_INSERV (d : Nat) : Fld := ⟨cdBase d + 0x90008, 0, 64, 0, true⟩
def R.SPAD_CFG_ENABLE (d : Nat) : Fld := ⟨cdBase d + 0x90010, 0, 1, 0, false⟩
def R.SPAD_CFG_LOCK (d : Nat) : Fld := ⟨cdBase d + 0x90010, 31, 1, 0, false⟩
def R.SPAD_CLASS_DURABLE (d : Nat) : Fld := ⟨cdBase d + 0x90018, 0, 64, 0, false⟩
def R.SPAD_PWR_ON (d : Nat) : Fld := ⟨cdBase d + 0x90020, 0, 64, 0xFFFFFFFFFFFFFFFF, false⟩
def R.SPAD_STATUS_COPY_BUSY (d : Nat) : Fld := ⟨cdBase d + 0x90028, 0, 1, 0, false⟩
def R.SPAD_STATUS_SCRUB_BUSY (d : Nat) : Fld := ⟨cdBase d + 0x90028, 1, 1, 1, false⟩
def R.SPAD_STATUS_LAST_CODE (d : Nat) : Fld := ⟨cdBase d + 0x90028, 16, 16, 0, false⟩
def R.SPAD_RTMO_LIMIT_US (d : Nat) : Fld := ⟨cdBase d + 0x90030, 0, 32, 0x64, false⟩
def R.SPAD_CE_COUNT_COUNT (d : Nat) : Fld := ⟨cdBase d + 0x90038, 0, 64, 0, false⟩
def R.SPAD_UE_COUNT_COUNT (d : Nat) : Fld := ⟨cdBase d + 0x90040, 0, 64, 0, false⟩
def R.SPAD_LAST_ERR_BANK (d : Nat) : Fld := ⟨cdBase d + 0x90048, 0, 6, 0, false⟩
def R.SPAD_LAST_ERR_CLASS (d : Nat) : Fld := ⟨cdBase d + 0x90048, 6, 1, 0, false⟩
def R.SPAD_LAST_ERR_UE (d : Nat) : Fld := ⟨cdBase d + 0x90048, 7, 1, 0, false⟩
def R.SPAD_LAST_ERR_ROW (d : Nat) : Fld := ⟨cdBase d + 0x90048, 8, 16, 0, false⟩
def R.SPAD_LAST_ERR_MID (d : Nat) : Fld := ⟨cdBase d + 0x90048, 32, 12, 0, false⟩
def R.SPAD_TDFAULT_CODE (d : Nat) : Fld := ⟨cdBase d + 0x90050, 0, 16, 0, false⟩
def R.SPAD_TDFAULT_HANDLE (d : Nat) : Fld := ⟨cdBase d + 0x90050, 16, 16, 0, false⟩
def R.SPAD_TDFAULT_SLOT (d : Nat) : Fld := ⟨cdBase d + 0x90050, 32, 14, 0, false⟩
def R.SPAD_CONFLICTS_COUNT (d : Nat) : Fld := ⟨cdBase d + 0x90058, 0, 64, 0, false⟩
def R.SPAD_WAKES_COUNT (d : Nat) : Fld := ⟨cdBase d + 0x90060, 0, 32, 0, false⟩
def R.SPAD_TWIN_CTL_BANK (d : Nat) : Fld := ⟨cdBase d + 0x90080, 0, 6, 0, false⟩
def R.SPAD_TWIN_CTL_ROW (d : Nat) : Fld := ⟨cdBase d + 0x90080, 16, 16, 0, false⟩
def R.SPAD_TWIN_CTL_OP (d : Nat) : Fld := ⟨cdBase d + 0x90080, 32, 2, 0, false⟩
def R.SPAD_TWIN_CTL_DONE (d : Nat) : Fld := ⟨cdBase d + 0x90080, 34, 1, 0, false⟩
def R.SPAD_TWIN_CTL_REFUSED (d : Nat) : Fld := ⟨cdBase d + 0x90080, 35, 1, 0, false⟩
def R.SPAD_TWIN_DATA_W (d i : Nat) : Fld := ⟨cdBase d + 0x90100 + i * 8, 0, 64, 0, false⟩
def R.SPAD_TWIN_CHECK_W (d i : Nat) : Fld := ⟨cdBase d + 0x90180 + i * 8, 0, 64, 0, false⟩
def R.SPAD_HTAB0_V (d i : Nat) : Fld := ⟨cdBase d + 0x91000 + i * 0x20, 0, 1, 0, false⟩
def R.SPAD_HTAB0_BOUND (d i : Nat) : Fld := ⟨cdBase d + 0x91000 + i * 0x20, 1, 1, 0, false⟩
def R.SPAD_HTAB0_LOC (d i : Nat) : Fld := ⟨cdBase d + 0x91000 + i * 0x20, 2, 2, 0, false⟩
def R.SPAD_HTAB0_ATTR (d i : Nat) : Fld := ⟨cdBase d + 0x91000 + i * 0x20, 4, 12, 0, false⟩
def R.SPAD_HTAB0_TORN (d i : Nat) : Fld := ⟨cdBase d + 0x91000 + i * 0x20, 16, 1, 0, false⟩
def R.SPAD_HTAB0_STALE (d i : Nat) : Fld := ⟨cdBase d + 0x91000 + i * 0x20, 17, 1, 0, false⟩
def R.SPAD_HTAB0_BANK_LO (d i : Nat) : Fld := ⟨cdBase d + 0x91000 + i * 0x20, 32, 6, 0, false⟩
def R.SPAD_HTAB0_BANK_CNT (d i : Nat) : Fld := ⟨cdBase d + 0x91000 + i * 0x20, 39, 7, 0, false⟩
def R.SPAD_HTAB0_ROW_BASE (d i : Nat) : Fld := ⟨cdBase d + 0x91000 + i * 0x20, 48, 16, 0, false⟩
def R.SPAD_HTAB1_LENGTH (d i : Nat) : Fld := ⟨cdBase d + 0x91008 + i * 0x20, 0, 48, 0, false⟩
def R.SPAD_HTAB2_SBASE (d i : Nat) : Fld := ⟨cdBase d + 0x91010 + i * 0x20, 0, 40, 0, false⟩
def R.SPAD_HTAB3_SLOT (d i : Nat) : Fld := ⟨cdBase d + 0x91018 + i * 0x20, 0, 4, 0, false⟩
def R.SPAD_HTAB3_BUFNO (d i : Nat) : Fld := ⟨cdBase d + 0x91018 + i * 0x20, 16, 16, 0, false⟩
def R.QCH_CAPS_QUEUES (d : Nat) : Fld := ⟨cdBase d + 0xA0000, 0, 8, 0x80, false⟩
def R.QCH_CAPS_STORE_KIB (d : Nat) : Fld := ⟨cdBase d + 0xA0000, 8, 16, 0x400, false⟩
def R.QCH_CAPS_CHANNELS (d : Nat) : Fld := ⟨cdBase d + 0xA0000, 24, 8, 0x20, false⟩
def R.QCH_CAPS_MCAST (d : Nat) : Fld := ⟨cdBase d + 0xA0000, 32, 8, 0x10, false⟩
def R.QCH_CAPS_SEALQ (d : Nat) : Fld := ⟨cdBase d + 0xA0000, 40, 8, 0x20, false⟩
def R.QCH_CAPS_TRACK (d : Nat) : Fld := ⟨cdBase d + 0xA0000, 48, 8, 0x10, false⟩
def R.QCH_CFG_ENABLE (d : Nat) : Fld := ⟨cdBase d + 0xA0008, 0, 1, 0, false⟩
def R.QCH_CFG_LOCK (d : Nat) : Fld := ⟨cdBase d + 0xA0008, 31, 1, 0, false⟩
def R.QCH_STALL_LIMIT_LIMIT_US (d : Nat) : Fld := ⟨cdBase d + 0xA0010, 0, 32, 0x3E8, false⟩
def R.QCH_FSTALL_LIMIT_LIMIT_US (d : Nat) : Fld := ⟨cdBase d + 0xA0018, 0, 32, 0x2710, false⟩
def R.QCH_LAST_STALL_UNIT (d : Nat) : Fld := ⟨cdBase d + 0xA0020, 0, 8, 0, false⟩
def R.QCH_LAST_STALL_QUEUE (d : Nat) : Fld := ⟨cdBase d + 0xA0020, 8, 7, 0, false⟩
def R.QCH_LAST_STALL_WAIT (d : Nat) : Fld := ⟨cdBase d + 0xA0020, 16, 3, 0, false⟩
def R.QCH_LAST_STALL_SITE (d : Nat) : Fld := ⟨cdBase d + 0xA0020, 32, 32, 0, false⟩
def R.QCH_BRIDGE_UP (d : Nat) : Fld := ⟨cdBase d + 0xA0028, 0, 3, 0, false⟩
def R.QCH_BRIDGE_RETRIES (d : Nat) : Fld := ⟨cdBase d + 0xA0028, 32, 32, 0, false⟩
def R.QCH_SEAL_PEND_COUNT (d : Nat) : Fld := ⟨cdBase d + 0xA0030, 0, 6, 0, false⟩
def R.QCH_QSTAT_COUNT (d q : Nat) : Fld := ⟨cdBase d + 0xA0400 + q * 8, 0, 10, 0, false⟩
def R.QCH_QSTAT_CAP (d q : Nat) : Fld := ⟨cdBase d + 0xA0400 + q * 8, 10, 10, 0, false⟩
def R.QCH_QSTAT_CHAN (d q : Nat) : Fld := ⟨cdBase d + 0xA0400 + q * 8, 20, 1, 0, false⟩
def R.QCH_QSTAT_WCLOSED (d q : Nat) : Fld := ⟨cdBase d + 0xA0400 + q * 8, 21, 1, 0, false⟩
def R.QCH_QSTAT_RCLOSED (d q : Nat) : Fld := ⟨cdBase d + 0xA0400 + q * 8, 22, 1, 0, false⟩
def R.QCH_QSTAT_PEER_CLOSED (d q : Nat) : Fld := ⟨cdBase d + 0xA0400 + q * 8, 23, 1, 0, false⟩
def R.QCH_QSTAT_STALLED (d q : Nat) : Fld := ⟨cdBase d + 0xA0400 + q * 8, 24, 1, 0, false⟩
def R.QCH_QSTAT_PUSHED (d q : Nat) : Fld := ⟨cdBase d + 0xA0400 + q * 8, 32, 16, 0, false⟩
def R.QCH_QSTAT_DISCARDED (d q : Nat) : Fld := ⟨cdBase d + 0xA0400 + q * 8, 48, 16, 0, false⟩
def R.QCH_QCFG_CAP (d q : Nat) : Fld := ⟨cdBase d + 0xA0800 + q * 4, 0, 10, 0, false⟩
def R.QCH_QCFG_CHAN (d q : Nat) : Fld := ⟨cdBase d + 0xA0800 + q * 4, 10, 1, 0, false⟩
def R.QCH_QCFG_WRITER (d q : Nat) : Fld := ⟨cdBase d + 0xA0800 + q * 4, 16, 8, 0xFF, false⟩
def R.QCH_QCFG_READER (d q : Nat) : Fld := ⟨cdBase d + 0xA0800 + q * 4, 24, 8, 0xFF, false⟩
def R.QCH_CHTAB0_SQ (d c : Nat) : Fld := ⟨cdBase d + 0xA1000 + c * 0x40, 0, 7, 0, false⟩
def R.QCH_CHTAB0_EN (d c : Nat) : Fld := ⟨cdBase d + 0xA1000 + c * 0x40, 7, 1, 0, false⟩
def R.QCH_CHTAB0_KIND (d c : Nat) : Fld := ⟨cdBase d + 0xA1000 + c * 0x40, 8, 2, 0, false⟩
def R.QCH_CHTAB0_NRECV (d c : Nat) : Fld := ⟨cdBase d + 0xA1000 + c * 0x40, 10, 5, 0, false⟩
def R.QCH_CHTAB0_ACH (d c : Nat) : Fld := ⟨cdBase d + 0xA1000 + c * 0x40, 16, 16, 0, false⟩
def R.QCH_CHTAB1_DEST (d c : Nat) : Fld := ⟨cdBase d + 0xA1008 + c * 0x40, 0, 17, 0, false⟩
def R.QCH_CHTAB1_RQ (d c : Nat) : Fld := ⟨cdBase d + 0xA1008 + c * 0x40, 24, 7, 0, false⟩
def R.QCH_CHRECV_RECV0 (d c j : Nat) : Fld := ⟨cdBase d + 0xA1010 + c * 0x40 + j * 8, 0, 16, 0, false⟩
def R.QCH_CHRECV_RECV1 (d c j : Nat) : Fld := ⟨cdBase d + 0xA1010 + c * 0x40 + j * 8, 16, 16, 0, false⟩
def R.QCH_CHRECV_RECV2 (d c j : Nat) : Fld := ⟨cdBase d + 0xA1010 + c * 0x40 + j * 8, 32, 16, 0, false⟩
def R.QCH_CHRECV_RECV3 (d c j : Nat) : Fld := ⟨cdBase d + 0xA1010 + c * 0x40 + j * 8, 48, 16, 0, false⟩
def R.MEM_CAPS_STACKS (d : Nat) : Fld := ⟨cdBase d + 0xB0000, 0, 2, 0, true⟩
def R.MEM_CAPS_CH_MIB (d : Nat) : Fld := ⟨cdBase d + 0xB0000, 16, 16, 0xF00, false⟩
def R.MEM_CFG_ENABLE (d : Nat) : Fld := ⟨cdBase d + 0xB0008, 0, 1, 0, false⟩
def R.MEM_CFG_LOCK (d : Nat) : Fld := ⟨cdBase d + 0xB0008, 31, 1, 0, false⟩
def R.MEM_CHMAP_INSERV (d : Nat) : Fld := ⟨cdBase d + 0xB0010, 0, 32, 0, true⟩
def R.MEM_CHMAP_COUNT (d : Nat) : Fld := ⟨cdBase d + 0xB0010, 32, 6, 0, true⟩
def R.MEM_THERM_TEMP0 (d : Nat) : Fld := ⟨cdBase d + 0xB0018, 0, 8, 0, false⟩
def R.MEM_THERM_LEVEL0 (d : Nat) : Fld := ⟨cdBase d + 0xB0018, 8, 2, 0, false⟩
def R.MEM_THERM_IMPL0 (d : Nat) : Fld := ⟨cdBase d + 0xB0018, 10, 1, 0, false⟩
def R.MEM_THERM_TEMP1 (d : Nat) : Fld := ⟨cdBase d + 0xB0018, 16, 8, 0, false⟩
def R.MEM_THERM_LEVEL1 (d : Nat) : Fld := ⟨cdBase d + 0xB0018, 24, 2, 0, false⟩
def R.MEM_THERM_IMPL1 (d : Nat) : Fld := ⟨cdBase d + 0xB0018, 26, 1, 0, false⟩
def R.MEM_CE_COUNT_COUNT (d : Nat) : Fld := ⟨cdBase d + 0xB0020, 0, 64, 0, false⟩
def R.MEM_UE_COUNT_COUNT (d : Nat) : Fld := ⟨cdBase d + 0xB0028, 0, 64, 0, false⟩
def R.MEM_ODECC_COUNT (d : Nat) : Fld := ⟨cdBase d + 0xB0030, 0, 64, 0, false⟩
def R.MEM_LAST_ERR_CHANNEL (d : Nat) : Fld := ⟨cdBase d + 0xB0038, 0, 5, 0, false⟩
def R.MEM_LAST_ERR_STACK (d : Nat) : Fld := ⟨cdBase d + 0xB0038, 5, 1, 0, false⟩
def R.MEM_LAST_ERR_UE (d : Nat) : Fld := ⟨cdBase d + 0xB0038, 6, 1, 0, false⟩
def R.MEM_LAST_ERR_SLOT (d : Nat) : Fld := ⟨cdBase d + 0xB0038, 8, 24, 0, false⟩
def R.MEM_LAST_ERR_MID (d : Nat) : Fld := ⟨cdBase d + 0xB0038, 32, 12, 0, false⟩
def R.MEM_TG_CTL_MASK (d : Nat) : Fld := ⟨cdBase d + 0xB0040, 0, 32, 0, false⟩
def R.MEM_TG_CTL_PATTERN (d : Nat) : Fld := ⟨cdBase d + 0xB0040, 32, 2, 0, false⟩
def R.MEM_TG_CTL_START (d : Nat) : Fld := ⟨cdBase d + 0xB0040, 34, 1, 0, false⟩
def R.MEM_TG_CTL_SLOTS_4K (d : Nat) : Fld := ⟨cdBase d + 0xB0040, 40, 12, 0, false⟩
def R.MEM_TG_CTL_SLOT_LO (d : Nat) : Fld := ⟨cdBase d + 0xB0040, 52, 12, 0, false⟩
def R.MEM_TG_RESULT_DONE (d : Nat) : Fld := ⟨cdBase d + 0xB0048, 0, 1, 0, false⟩
def R.MEM_TG_RESULT_REFUSED (d : Nat) : Fld := ⟨cdBase d + 0xB0048, 1, 1, 0, false⟩
def R.MEM_TG_RESULT_DEFERRED (d : Nat) : Fld := ⟨cdBase d + 0xB0048, 2, 1, 0, false⟩
def R.MEM_TG_RESULT_MISMATCH (d : Nat) : Fld := ⟨cdBase d + 0xB0048, 32, 32, 0, false⟩
def R.MEM_MARGIN_CTL_STACK (d : Nat) : Fld := ⟨cdBase d + 0xB0050, 0, 1, 0, false⟩
def R.MEM_MARGIN_CTL_START (d : Nat) : Fld := ⟨cdBase d + 0xB0050, 1, 1, 0, false⟩
def R.MEM_MARGIN_CTL_DONE (d : Nat) : Fld := ⟨cdBase d + 0xB0050, 2, 1, 0, false⟩
def R.MEM_MARGIN_CTL_REFUSED (d : Nat) : Fld := ⟨cdBase d + 0xB0050, 3, 1, 0, false⟩
def R.MEM_MARGIN_CTL_DEFERRED (d : Nat) : Fld := ⟨cdBase d + 0xB0050, 4, 1, 0, false⟩
def R.MEM_MARGIN_RESULT_RD_LO (d : Nat) : Fld := ⟨cdBase d + 0xB0058, 0, 6, 0, false⟩
def R.MEM_MARGIN_RESULT_RD_HI (d : Nat) : Fld := ⟨cdBase d + 0xB0058, 6, 6, 0, false⟩
def R.MEM_MARGIN_RESULT_WR_LO (d : Nat) : Fld := ⟨cdBase d + 0xB0058, 12, 6, 0, false⟩
def R.MEM_MARGIN_RESULT_WR_HI (d : Nat) : Fld := ⟨cdBase d + 0xB0058, 18, 6, 0, false⟩
def R.MEM_MARGIN_RESULT_V_LO (d : Nat) : Fld := ⟨cdBase d + 0xB0058, 24, 5, 0, false⟩
def R.MEM_MARGIN_RESULT_V_HI (d : Nat) : Fld := ⟨cdBase d + 0xB0058, 29, 5, 0, false⟩
def R.HIF_CAPS_SQS : Fld := ⟨0x10000, 0, 7, 0x40, false⟩
def R.HIF_CAPS_CQS : Fld := ⟨0x10000, 8, 7, 0x40, false⟩
def R.HIF_CAPS_VECTORS : Fld := ⟨0x10000, 16, 9, 0x100, false⟩
def R.HIF_CAPS_APERTURE : Fld := ⟨0x10000, 25, 1, 0, true⟩
def R.HIF_CFG_ENABLE : Fld := ⟨0x10008, 0, 1, 0, false⟩
def R.HIF_CFG_LOCK : Fld := ⟨0x10008, 31, 1, 0, false⟩
def R.HIF_EQ_BASE_BASE : Fld := ⟨0x10010, 0, 64, 0, false⟩
def R.HIF_EQ_CFG_LOG2SZ : Fld := ⟨0x10018, 0, 4, 4, false⟩
def R.HIF_EQ_CFG_VEC : Fld := ⟨0x10018, 8, 8, 0, false⟩
def R.HIF_EQ_CFG_CLASSMASK : Fld := ⟨0x10018, 16, 8, 0xFF, false⟩
def R.HIF_EQ_CFG_EN : Fld := ⟨0x10018, 24, 1, 0, false⟩
def R.HIF_EQ_STATE_TAIL : Fld := ⟨0x10020, 0, 16, 0, false⟩
def R.HIF_EQ_STATE_HEAD : Fld := ⟨0x10020, 16, 16, 0, false⟩
def R.HIF_EQ_STATE_OVF : Fld := ⟨0x10020, 32, 1, 0, false⟩
def R.HIF_EQ_STATE_DROPS : Fld := ⟨0x10020, 33, 31, 0, false⟩
def R.SQ_BASE_BASE (r : Nat) : Fld := ⟨0x11000 + r * 0x20, 0, 64, 0, false⟩
def R.SQ_CFG_LOG2SZ (r : Nat) : Fld := ⟨0x11008 + r * 0x20, 0, 4, 4, false⟩
def R.SQ_CFG_CQ (r : Nat) : Fld := ⟨0x11008 + r * 0x20, 8, 6, 0, false⟩
def R.SQ_CFG_KINDS (r : Nat) : Fld := ⟨0x11008 + r * 0x20, 16, 7, 0, false⟩
def R.SQ_CFG_ABORT_ANY (r : Nat) : Fld := ⟨0x11008 + r * 0x20, 23, 1, 0, false⟩
def R.SQ_CFG_EN (r : Nat) : Fld := ⟨0x11008 + r * 0x20, 24, 1, 0, false⟩
def R.SQ_SHADOW_ADDR (r : Nat) : Fld := ⟨0x11010 + r * 0x20, 0, 64, 0, false⟩
def R.SQ_STATE_HEAD (r : Nat) : Fld := ⟨0x11018 + r * 0x20, 0, 16, 0, false⟩
def R.SQ_STATE_TAIL (r : Nat) : Fld := ⟨0x11018 + r * 0x20, 16, 16, 0, false⟩
def R.CQ_BASE_BASE (c : Nat) : Fld := ⟨0x12000 + c * 0x20, 0, 64, 0, false⟩
def R.CQ_CFG_LOG2SZ (c : Nat) : Fld := ⟨0x12008 + c * 0x20, 0, 4, 4, false⟩
def R.CQ_CFG_VEC (c : Nat) : Fld := ⟨0x12008 + c * 0x20, 8, 8, 0, false⟩
def R.CQ_CFG_COAL_N (c : Nat) : Fld := ⟨0x12008 + c * 0x20, 16, 8, 0, false⟩
def R.CQ_CFG_COAL_US (c : Nat) : Fld := ⟨0x12008 + c * 0x20, 24, 8, 0, false⟩
def R.CQ_CFG_EN (c : Nat) : Fld := ⟨0x12008 + c * 0x20, 32, 1, 0, false⟩
def R.CQ_STATE_TAIL (c : Nat) : Fld := ⟨0x12010 + c * 0x20, 0, 16, 0, false⟩
def R.CQ_STATE_HEAD (c : Nat) : Fld := ⟨0x12010 + c * 0x20, 16, 16, 0, false⟩
def R.CQ_STATE_PHASE (c : Nat) : Fld := ⟨0x12010 + c * 0x20, 32, 1, 0, false⟩
def R.HIF_APWIN_HANDLE (w : Nat) : Fld := ⟨0x13000 + w * 8, 0, 16, 0xFFFF, false⟩
def R.HIF_APWIN_EN (w : Nat) : Fld := ⟨0x13000 + w * 8, 16, 1, 0, false⟩
def R.HIF_APWIN_OFF_2M (w : Nat) : Fld := ⟨0x13000 + w * 8, 32, 16, 0, false⟩
def R.MBX_BIND_SENDER (m : Nat) : Fld := ⟨0x20000 + m * 8, 0, 12, 0, false⟩
def R.MBX_BIND_RECEIVER (m : Nat) : Fld := ⟨0x20000 + m * 8, 16, 12, 0, false⟩
def R.MBX_BIND_VEC (m : Nat) : Fld := ⟨0x20000 + m * 8, 32, 8, 0, false⟩
def R.MBX_BIND_EN (m : Nat) : Fld := ⟨0x20000 + m * 8, 40, 1, 0, false⟩
def R.MBX_LOCK_LOCK : Fld := ⟨0x20100, 0, 1, 0, false⟩
def R.MBX_DB_DB : Fld := ⟨0x20108, 0, 32, 0, false⟩
def R.MBX_MASK_MASK : Fld := ⟨0x20110, 0, 32, 0, false⟩
def R.MBX_STATUS_FULL : Fld := ⟨0x20118, 0, 32, 0, false⟩
def R.MBX_STATUS_REFUSED : Fld := ⟨0x20118, 32, 32, 0, false⟩
def R.MBX_DATA_W (m i : Nat) : Fld := ⟨0x21000 + m * 0x80 + i * 8, 0, 64, 0, false⟩
def R.MBX_SEND_SEND (m : Nat) : Fld := ⟨0x21040 + m * 0x80, 0, 1, 0, false⟩
def R.FAB_CAPS_PORTS : Fld := ⟨0x80000, 0, 8, 0, true⟩
def R.FAB_CAPS_LANES : Fld := ⟨0x80000, 8, 8, 8, false⟩
def R.FAB_CAPS_PEERS : Fld := ⟨0x80000, 16, 13, 0x1000, false⟩
def R.FAB_CAPS_RXENT : Fld := ⟨0x80000, 32, 9, 0x100, false⟩
def R.FAB_CAPS_GROUPS : Fld := ⟨0x80000, 41, 9, 0x100, false⟩
def R.FAB_CAPS_GMAX : Fld := ⟨0x80000, 50, 7, 0x40, false⟩
def R.FAB_CFG_ENABLE : Fld := ⟨0x80008, 0, 1, 0, false⟩
def R.FAB_CFG_VLAN_EN : Fld := ⟨0x80008, 1, 1, 0, false⟩
def R.FAB_CFG_ETYPE : Fld := ⟨0x80008, 16, 16, 0x88B5, false⟩
def R.FAB_CFG_VID : Fld := ⟨0x80008, 32, 12, 0, false⟩
def R.FAB_CFG_PCP : Fld := ⟨0x80008, 44, 3, 0, false⟩
def R.FAB_CFG_LOCK : Fld := ⟨0x80008, 63, 1, 0, false⟩
def R.FAB_EPID_EPID : Fld := ⟨0x80010, 0, 17, 0, false⟩
def R.FAB_RTO_RTO_US : Fld := ⟨0x80018, 0, 16, 0x32, false⟩
def R.FAB_RTO_RETRIES : Fld := ⟨0x80018, 16, 4, 8, false⟩
def R.FAB_RETX_COUNT : Fld := ⟨0x80020, 0, 64, 0, false⟩
def R.FAB_PORT_UP (p : Nat) : Fld := ⟨0x80100 + p * 8, 0, 1, 0, false⟩
def R.FAB_PORT_DEGRADED (p : Nat) : Fld := ⟨0x80100 + p * 8, 1, 1, 0, false⟩
def R.FAB_PORT_HALF (p : Nat) : Fld := ⟨0x80100 + p * 8, 2, 1, 0, false⟩
def R.FAB_PORT_LANE_OK (p : Nat) : Fld := ⟨0x80100 + p * 8, 8, 8, 0, false⟩
def R.FAB_PORT_RETRAINS (p : Nat) : Fld := ⟨0x80100 + p * 8, 32, 32, 0, false⟩
def R.FAB_DROP_COUNT (k : Nat) : Fld := ⟨0x80200 + k * 8, 0, 64, 0, false⟩
def R.FAB_PEERTAB_EPID (i : Nat) : Fld := ⟨0x810000 + i * 8, 0, 17, 0, false⟩
def R.FAB_PEERTAB_V (i : Nat) : Fld := ⟨0x810000 + i * 8, 17, 1, 0, false⟩
def R.FAB_PEERTAB_PORTS (i : Nat) : Fld := ⟨0x810000 + i * 8, 24, 8, 0, false⟩
def R.FAB_PEERTAB_KEYSLOT (i : Nat) : Fld := ⟨0x810000 + i * 8, 32, 12, 0, false⟩
def R.FAB_RXTAB_SRC (i : Nat) : Fld := ⟨0x820000 + i * 8, 0, 17, 0, false⟩
def R.FAB_RXTAB_V (i : Nat) : Fld := ⟨0x820000 + i * 8, 17, 1, 0, false⟩
def R.FAB_RXTAB_DIE (i : Nat) : Fld := ⟨0x820000 + i * 8, 24, 3, 0, false⟩
def R.FAB_RXTAB_ACH (i : Nat) : Fld := ⟨0x820000 + i * 8, 32, 16, 0, false⟩
def R.FAB_RXTAB_RQ (i : Nat) : Fld := ⟨0x820000 + i * 8, 48, 7, 0, false⟩
def R.FAB_MCAST_EPID (g i : Nat) : Fld := ⟨0x830000 + g * 0x100 + i * 4, 0, 17, 0, false⟩
def R.FAB_MCAST_V (g i : Nat) : Fld := ⟨0x830000 + g * 0x100 + i * 4, 31, 1, 0, false⟩
def R.SAGE_CAPS_REC_LOG2 : Fld := ⟨0x90000, 0, 5, 0x18, false⟩
def R.SAGE_CAPS_KMIN_HW : Fld := ⟨0x90000, 8, 8, 3, false⟩
def R.SAGE_CAPS_MSLOTS : Fld := ⟨0x90000, 16, 16, 0x400, false⟩
def R.SAGE_CAPS_FAILTAB : Fld := ⟨0x90000, 32, 16, 0x100, false⟩
def R.SAGE_CAPS_ALLOW_MAX : Fld := ⟨0x90000, 48, 16, 0x1000, false⟩
def R.SAGE_CFG_ENABLE : Fld := ⟨0x90008, 0, 1, 0, false⟩
def R.SAGE_CFG_LOCK : Fld := ⟨0x90008, 31, 1, 0, false⟩
def R.SAGE_STATE_EPOCH : Fld := ⟨0x90010, 0, 32, 0, false⟩
def R.SAGE_STATE_SHARE : Fld := ⟨0x90010, 32, 1, 0, false⟩
def R.SAGE_STATE_ALLOW : Fld := ⟨0x90010, 33, 1, 0, false⟩
def R.SAGE_STATE_FROZEN : Fld := ⟨0x90010, 34, 1, 0, false⟩
def R.SAGE_STATE_KMIN : Fld := ⟨0x90010, 40, 24, 3, false⟩
def R.SAGE_BUDGET_BUDGET : Fld := ⟨0x90018, 0, 32, 0, false⟩
def R.SAGE_BUDGET_SPENT : Fld := ⟨0x90018, 32, 32, 0, false⟩
def R.SAGE_RECORDS_INUSE : Fld := ⟨0x90020, 0, 25, 0, false⟩
def R.SAGE_RECORDS_PEAK : Fld := ⟨0x90020, 32, 25, 0, false⟩
def R.SAGE_LAST_CAUSE : Fld := ⟨0x90028, 0, 8, 0, false⟩
def R.SAGE_LAST_KIND : Fld := ⟨0x90028, 8, 8, 0, false⟩
def R.SAGE_LAST_MEMBER : Fld := ⟨0x90028, 16, 5, 0, false⟩
def R.SAGE_LAST_TAG : Fld := ⟨0x90028, 32, 32, 0, false⟩
def R.SAGE_RELEASES_COUNT : Fld := ⟨0x90030, 0, 64, 0, false⟩
def R.SAGE_REFUSALS_COUNT : Fld := ⟨0x90038, 0, 64, 0, false⟩
def R.SAGE_BIND_LINEAGE (d i : Nat) : Fld := ⟨cdBase d + 0xC0000 + i * 8, 0, 24, 0, false⟩
def R.SAGE_BIND_GROUPM1 (d i : Nat) : Fld := ⟨cdBase d + 0xC0000 + i * 8, 24, 5, 0, false⟩
def R.SAGE_BIND_V (d i : Nat) : Fld := ⟨cdBase d + 0xC0000 + i * 8, 31, 1, 0, false⟩
def R.SAGE_BIND_POISON (d i : Nat) : Fld := ⟨cdBase d + 0xC0000 + i * 8, 32, 8, 0, false⟩
def R.SEC_CAPS_SHA_LANES : Fld := ⟨0xA0000, 0, 16, 0x600, false⟩
def R.SEC_CAPS_COUNTERS : Fld := ⟨0xA0000, 16, 8, 0x10, false⟩
def R.SEC_CAPS_SVC_TRIES : Fld := ⟨0xA0000, 24, 8, 3, false⟩
def R.SEC_CAPS_CACHE_LOG2 : Fld := ⟨0xA0000, 32, 8, 0x10, false⟩
def R.SEC_STATE_STAGE : Fld := ⟨0xA0008, 0, 3, 0, false⟩
def R.SEC_STATE_SLOT_SP : Fld := ⟨0xA0008, 3, 1, 0, false⟩
def R.SEC_STATE_SLOT_DZ : Fld := ⟨0xA0008, 4, 1, 0, false⟩
def R.SEC_STATE_SERVICE : Fld := ⟨0xA0008, 5, 1, 0, false⟩
def R.SEC_STATE_SVC_LOCK : Fld := ⟨0xA0008, 6, 1, 0, false⟩
def R.SEC_STATE_TRNG_FAIL : Fld := ⟨0xA0008, 7, 1, 0, false⟩
def R.SEC_STATE_SECREG : Fld := ⟨0xA0008, 8, 1, 0, false⟩
def R.SEC_STATE_KEYGEN : Fld := ⟨0xA0008, 9, 1, 0, false⟩
def R.SEC_STATE_SHARE : Fld := ⟨0xA0008, 10, 1, 0, false⟩
def R.SEC_STATE_CFG_FAIL : Fld := ⟨0xA0008, 11, 1, 0, false⟩
def R.SEC_SVN_FLOOR : Fld := ⟨0xA0010, 0, 7, 0, true⟩
def R.SEC_SVN_RUNNING : Fld := ⟨0xA0010, 32, 32, 0, false⟩
def R.SEC_LAST_CODE : Fld := ⟨0xA0018, 0, 16, 0, false⟩
def R.SEC_LAST_SOURCE : Fld := ⟨0xA0018, 16, 3, 0, false⟩
def R.SEC_LAST_TAG : Fld := ⟨0xA0018, 32, 32, 0, false⟩
def R.SEC_INGEST_ACCEPTED : Fld := ⟨0xA0020, 0, 32, 0, false⟩
def R.SEC_INGEST_REFUSED : Fld := ⟨0xA0020, 32, 32, 0, false⟩
def R.SEC_LOVAGE_CALLS : Fld := ⟨0xA0028, 0, 32, 0, false⟩
def R.SEC_LOVAGE_INVARIANT : Fld := ⟨0xA0028, 32, 32, 0, false⟩
def R.SEC_MEAS_W (k j : Nat) : Fld := ⟨0xA0100 + k * 0x20 + j * 8, 0, 64, 0, false⟩
def R.ADM_CAPS_FLOOR : Fld := ⟨0xB0000, 0, 12, 0x4B0, false⟩
def R.ADM_CAPS_NOMINAL : Fld := ⟨0xB0000, 12, 12, 0x640, false⟩
def R.ADM_CAPS_MAXIMUM : Fld := ⟨0xB0000, 24, 12, 0x7D0, false⟩
def R.ADM_CAPS_ANSWER_US : Fld := ⟨0xB0000, 36, 12, 0x64, false⟩
def R.ADM_CFG_ENABLE : Fld := ⟨0xB0008, 0, 1, 0, false⟩
def R.ADM_CFG_LOCK : Fld := ⟨0xB0008, 31, 1, 0, false⟩
def R.ADM_STATE_STOP : Fld := ⟨0xB0010, 0, 1, 1, false⟩
def R.ADM_STATE_CAUSE : Fld := ⟨0xB0010, 4, 4, 5, false⟩
def R.ADM_STATE_ADMITTED : Fld := ⟨0xB0010, 16, 16, 0, false⟩
def R.ADM_TIME_TIME : Fld := ⟨0xB0018, 0, 64, 0, false⟩
def R.ADM_LAST_CODE : Fld := ⟨0xB0020, 0, 16, 0, false⟩
def R.ADM_LAST_TAG : Fld := ⟨0xB0020, 32, 32, 0, false⟩
def R.PWR_CAPS_P_MAX : Fld := ⟨0xB0028, 0, 16, 0, true⟩
def R.PWR_CAPS_P_FLOOR : Fld := ⟨0xB0028, 16, 16, 0, true⟩
def R.PWR_LIMIT_LIMIT : Fld := ⟨0xB0030, 0, 16, 0, true⟩
def R.PWR_INPUT_POWER : Fld := ⟨0xB0038, 0, 16, 0, false⟩
def R.PWR_INPUT_VIN : Fld := ⟨0xB0038, 16, 16, 0, false⟩
def R.ADM_HORIZON_TIME (d2 : Nat) : Fld := ⟨0xB0100 + d2 * 8, 0, 64, 0, false⟩
def R.PACE_TIME_TIME (d : Nat) : Fld := ⟨cdBase d + 0xD0000, 0, 64, 0, false⟩
def R.PACE_NOW_PACE (d : Nat) : Fld := ⟨cdBase d + 0xD0008, 0, 12, 0, false⟩
def R.PACE_NOW_LOW (d : Nat) : Fld := ⟨cdBase d + 0xD0008, 12, 1, 0, false⟩
def R.PACE_NOW_BELOW (d : Nat) : Fld := ⟨cdBase d + 0xD0008, 13, 1, 0, false⟩
def R.PACE_NOW_STALE (d : Nat) : Fld := ⟨cdBase d + 0xD0008, 14, 1, 0, false⟩
def R.PACE_CAL_PACE (d : Nat) : Fld := ⟨cdBase d + 0xD0010, 0, 12, 0, false⟩
def R.PACE_CAL_FAILED (d : Nat) : Fld := ⟨cdBase d + 0xD0010, 12, 1, 0, false⟩
def R.PACE_CAL_AGE_MS (d : Nat) : Fld := ⟨cdBase d + 0xD0010, 32, 32, 0, false⟩
def R.PACE_CAP_CAP (d : Nat) : Fld := ⟨cdBase d + 0xD0018, 0, 12, 0x7D0, false⟩
def R.PACE_SENSE_VCORE (d : Nat) : Fld := ⟨cdBase d + 0xD0020, 0, 12, 0, false⟩
def R.PACE_SENSE_TJ (d : Nat) : Fld := ⟨cdBase d + 0xD0020, 16, 8, 0, false⟩
def R.PACE_SENSE_IMPL (d : Nat) : Fld := ⟨cdBase d + 0xD0020, 24, 1, 0, false⟩
def R.PACE_REQ_OP (d : Nat) : Fld := ⟨cdBase d + 0xD0028, 0, 2, 0, false⟩
def R.PACE_REQ_START (d : Nat) : Fld := ⟨cdBase d + 0xD0028, 2, 1, 0, false⟩
def R.PACE_REQ_DONE (d : Nat) : Fld := ⟨cdBase d + 0xD0028, 3, 1, 0, false⟩
def R.PACE_REQ_DEFERRED (d : Nat) : Fld := ⟨cdBase d + 0xD0028, 4, 1, 0, false⟩
def R.PACE_REQ_REFUSED (d : Nat) : Fld := ⟨cdBase d + 0xD0028, 5, 1, 0, false⟩
def R.PACE_REQ_FAILMASK (d : Nat) : Fld := ⟨cdBase d + 0xD0028, 16, 6, 0, false⟩
def R.PACE_EARLIEST_TIME (d : Nat) : Fld := ⟨cdBase d + 0xD0030, 0, 64, 0, false⟩
def R.PACE_MIN_PACE (d : Nat) : Fld := ⟨cdBase d + 0xD0038, 0, 12, 0xFFF, false⟩
def R.PKG_CAPS_PD_COUNT : Fld := ⟨0xC0000, 0, 3, 0, true⟩
def R.PKG_CAPS_DOMAINS : Fld := ⟨0xC0000, 8, 5, 0, true⟩
def R.PKG_CAPS_PD_WATTS : Fld := ⟨0xC0000, 16, 16, 0x258, false⟩
def R.PKG_CAPS_SMB_ADDR : Fld := ⟨0xC0000, 32, 7, 0, true⟩
def R.PKG_STATE_PHASE : Fld := ⟨0xC0008, 0, 4, 1, false⟩
def R.PKG_STATE_READY : Fld := ⟨0xC0008, 4, 1, 0, false⟩
def R.PKG_STATE_STEP : Fld := ⟨0xC0008, 8, 4, 0, false⟩
def R.PKG_STATE_READY_MS : Fld := ⟨0xC0008, 32, 32, 0, false⟩
def R.PKG_PD_ON : Fld := ⟨0xC0010, 0, 6, 0, false⟩
def R.PKG_PD_FAULT : Fld := ⟨0xC0010, 8, 6, 0, false⟩
def R.PKG_PD_V6 : Fld := ⟨0xC0010, 32, 16, 0, false⟩
def R.PKG_CLK_PCIE : Fld := ⟨0xC0018, 0, 1, 0, false⟩
def R.PKG_CLK_PORT : Fld := ⟨0xC0018, 1, 8, 0, false⟩
def R.PKG_CLK_MPHY : Fld := ⟨0xC0018, 9, 8, 0, false⟩
def R.PKG_CLK_PDCLK : Fld := ⟨0xC0018, 17, 6, 0, false⟩
def R.PKG_CLK_MGMT : Fld := ⟨0xC0018, 23, 1, 0, false⟩
def R.PKG_CLK_TAP : Fld := ⟨0xC0018, 24, 1, 0, false⟩
def R.PKG_ALERT_HOT : Fld := ⟨0xC0020, 0, 1, 0, false⟩
def R.PKG_ALERT_AT_RISK : Fld := ⟨0xC0020, 1, 1, 0, false⟩
def R.PKG_ALERT_PD : Fld := ⟨0xC0020, 2, 1, 0, false⟩
def R.PKG_ALERT_VLOW : Fld := ⟨0xC0020, 3, 1, 0, false⟩
def R.PKG_ALERT_VHIGH : Fld := ⟨0xC0020, 4, 1, 0, false⟩
def R.PKG_ALERT_SENSOR : Fld := ⟨0xC0020, 5, 1, 0, false⟩
def R.PKG_ALERT_MEMTHR : Fld := ⟨0xC0020, 6, 1, 0, false⟩
def R.PKG_ALERT_MASK : Fld := ⟨0xC0020, 8, 8, 0, false⟩
def R.PKG_LASTOFF_CAUSE : Fld := ⟨0xC0028, 0, 4, 0, true⟩
def R.PKG_LASTOFF_PD : Fld := ⟨0xC0028, 4, 3, 0, true⟩
def R.PKG_LASTOFF_DIE : Fld := ⟨0xC0028, 8, 4, 0, true⟩
def R.PKG_THERM_TJMAX : Fld := ⟨0xC0030, 0, 8, 0, false⟩
def R.PKG_THERM_DIE : Fld := ⟨0xC0030, 8, 4, 0, false⟩
def R.EVT_COUNT_COUNT (k : Nat) : Fld := ⟨0x40000 + k * 8, 0, 64, 0, false⟩
def R.EVT_LAST_CODE : Fld := ⟨0x40040, 0, 16, 0, false⟩
def R.EVT_LAST_SRC : Fld := ⟨0x40040, 16, 8, 0, false⟩
def R.EVT_LAST_UNIT : Fld := ⟨0x40040, 24, 8, 0, false⟩
def R.EVT_LAST_SITE : Fld := ⟨0x40040, 32, 32, 0, false⟩
def R.EVT_DROP_COUNT : Fld := ⟨0x40048, 0, 64, 0, false⟩
def R.RPL_CFG_CAPTURE : Fld := ⟨0x40080, 0, 1, 0, false⟩
def R.RPL_CFG_RESERVE_GIB : Fld := ⟨0x40080, 16, 10, 0, false⟩
def R.RPL_CFG_LOCK : Fld := ⟨0x40080, 63, 1, 0, false⟩
def R.RPL_ARM_JOBID : Fld := ⟨0x40088, 0, 48, 0, false⟩
def R.RPL_ARM_EN : Fld := ⟨0x40088, 63, 1, 0, false⟩
def R.RPL_STATUS_ARMED : Fld := ⟨0x40090, 0, 1, 0, false⟩
def R.RPL_STATUS_NOTFOUND : Fld := ⟨0x40090, 1, 1, 0, false⟩
def R.RPL_STATUS_RUNNING : Fld := ⟨0x40090, 2, 1, 0, false⟩
def R.RPL_STATUS_MATCH : Fld := ⟨0x40090, 3, 1, 0, false⟩
def R.RPL_STATUS_DIVERGED : Fld := ⟨0x40090, 4, 1, 0, false⟩
def R.RPL_STATUS_CODE : Fld := ⟨0x40090, 16, 16, 0, false⟩
def R.RPL_USED_CAPTURES : Fld := ⟨0x40098, 0, 32, 0, false⟩
def R.RPL_USED_MIB : Fld := ⟨0x40098, 32, 32, 0, false⟩
def R.MEM_SPLIT_PW_MIB : Fld := ⟨0x70000, 0, 12, 0, false⟩
def R.MEM_SPLIT_LOCK : Fld := ⟨0x70000, 31, 1, 0, false⟩
def R.MSIX_ADDR_ADDR (v : Nat) : Fld := ⟨0x30000 + v * 0x10, 0, 64, 0, false⟩
def R.MSIX_CTL_DATA (v : Nat) : Fld := ⟨0x30008 + v * 0x10, 0, 32, 0, false⟩
def R.MSIX_CTL_MASK (v : Nat) : Fld := ⟨0x30008 + v * 0x10, 32, 1, 1, false⟩
def R.MSIX_PBA_PEND (i : Nat) : Fld := ⟨0x31000 + i * 8, 0, 64, 0, false⟩

/-- The CAPS registers at HUB + 0x0_0000. -/
def regsHub0 : List RegRow := [
  ⟨"CAPS", false, 0, 64, [], .mgmt, none, [
      ⟨0, 4, .ro, 0, true⟩,
      ⟨4, 4, .ro, 0, true⟩,
      ⟨8, 8, .ro, 0, true⟩,
      ⟨16, 8, .ro, 0, true⟩,
      ⟨24, 6, .ro, 0, true⟩,
      ⟨32, 1, .ro, 0, true⟩]⟩]

/-- The BASIL registers at CDn + 0x2_0000. -/
def regsCd2 : List RegRow := [
  ⟨"BASIL_CAPS", true, 0x20000, 64, [], .mgmt, none, [
      ⟨0, 1, .ro, 0, true⟩,
      ⟨1, 1, .ro, 0, true⟩,
      ⟨2, 1, .ro, 0, true⟩,
      ⟨3, 1, .ro, 0, true⟩,
      ⟨16, 8, .ro, 0x40, false⟩]⟩,
  ⟨"BASIL_CFG", true, 0x20008, 32, [], .mgmt, some (0x20008, 31), [
      ⟨0, 1, .rwl, 0, false⟩,
      ⟨1, 1, .rwl, 0, false⟩,
      ⟨31, 1, .rw1s, 0, false⟩]⟩,
  ⟨"BASIL_SHAPE", true, 0x20010, 32, [], .mgmt, none, [
      ⟨0, 3, .rw, 7, false⟩,
      ⟨3, 3, .rw, 7, false⟩,
      ⟨6, 1, .rw, 0, false⟩]⟩,
  ⟨"BASIL_STATUS", true, 0x20018, 64, [], .mgmt, none, [
      ⟨0, 1, .ro, 0, false⟩,
      ⟨1, 1, .ro, 0, false⟩,
      ⟨2, 2, .ro, 0, false⟩,
      ⟨4, 1, .ro, 0, false⟩,
      ⟨16, 16, .ro, 0, false⟩,
      ⟨32, 32, .ro, 0, false⟩]⟩,
  ⟨"BASIL_INUSE", true, 0x20020, 64, [], .mgmt, none, [
      ⟨0, 48, .ro, 0, false⟩]⟩,
  ⟨"BASIL_WINMAP0", true, 0x20028, 64, [], .mgmt, none, [
      ⟨0, 64, .rw, 0, false⟩]⟩,
  ⟨"BASIL_WINMAP1", true, 0x20030, 64, [], .mgmt, none, [
      ⟨0, 64, .rw, 0, false⟩]⟩,
  ⟨"BASIL_TSEED", true, 0x20038, 32, [], .mgmt, some (0x20008, 31), [
      ⟨0, 16, .rwl, 0xFFFF, false⟩]⟩,
  ⟨"BASIL_STALL_LIMIT", true, 0x20040, 32, [], .mgmt, some (0x20008, 31), [
      ⟨0, 32, .rwl, 0x3E8, false⟩]⟩,
  ⟨"BASIL_EPOCH", true, 0x20048, 32, [], .mgmt, none, [
      ⟨0, 32, .ro, 0, false⟩]⟩,
  ⟨"BASIL_RESTARTS", true, 0x20050, 32, [], .mgmt, none, [
      ⟨0, 32, .ro, 0, false⟩]⟩,
  ⟨"BASIL_STEPS", true, 0x20058, 64, [], .mgmt, none, [
      ⟨0, 64, .ro, 0, false⟩]⟩]

/-- The MINT registers at CDn + 0x3_0000. -/
def regsCd3 : List RegRow := [
  ⟨"MINT_CAPS", true, 0x30000, 64, [], .mgmt, none, [
      ⟨0, 1, .ro, 0, true⟩,
      ⟨1, 1, .ro, 0, true⟩,
      ⟨16, 16, .ro, 0x400, false⟩]⟩,
  ⟨"MINT_CFG", true, 0x30008, 32, [], .mgmt, some (0x30008, 31), [
      ⟨0, 1, .rwl, 0, false⟩,
      ⟨1, 1, .rwl, 0, false⟩,
      ⟨31, 1, .rw1s, 0, false⟩]⟩,
  ⟨"MINT_STATUS", true, 0x30010, 64, [], .mgmt, none, [
      ⟨0, 1, .ro, 0, false⟩,
      ⟨1, 1, .ro, 0, false⟩,
      ⟨2, 1, .ro, 0, false⟩,
      ⟨3, 1, .ro, 0, false⟩,
      ⟨4, 1, .ro, 0, false⟩,
      ⟨16, 16, .ro, 0, false⟩,
      ⟨32, 32, .ro, 0, false⟩]⟩,
  ⟨"MINT_STALL_LIMIT", true, 0x30018, 32, [], .mgmt, some (0x30008, 31), [
      ⟨0, 32, .rwl, 0x3E8, false⟩]⟩,
  ⟨"MINT_EPOCH", true, 0x30020, 64, [], .mgmt, none, [
      ⟨0, 32, .ro, 0, false⟩,
      ⟨32, 32, .ro, 0, false⟩]⟩,
  ⟨"MINT_RESTARTS", true, 0x30028, 32, [], .mgmt, none, [
      ⟨0, 32, .ro, 0, false⟩]⟩,
  ⟨"MINT_STEPS", true, 0x30030, 64, [], .mgmt, none, [
      ⟨0, 64, .ro, 0, false⟩]⟩,
  ⟨"MINT_CONFLICTS", true, 0x30038, 64, [], .mgmt, none, [
      ⟨0, 64, .ro, 0, false⟩]⟩]

/-- The PARS registers at CDn + 0x4_0000. -/
def regsCd4 : List RegRow := [
  ⟨"PARS_CAPS", true, 0x40000, 64, [], .mgmt, none, [
      ⟨0, 1, .ro, 0, true⟩,
      ⟨1, 1, .ro, 0, true⟩,
      ⟨2, 1, .ro, 0, true⟩,
      ⟨16, 10, .ro, 0x200, false⟩,
      ⟨32, 8, .ro, 0x40, false⟩]⟩,
  ⟨"PARS_CFG", true, 0x40008, 32, [], .mgmt, some (0x40008, 31), [
      ⟨0, 1, .rwl, 0, false⟩,
      ⟨1, 1, .rwl, 0, false⟩,
      ⟨31, 1, .rw1s, 0, false⟩]⟩,
  ⟨"PARS_STATUS", true, 0x40010, 64, [], .mgmt, none, [
      ⟨0, 1, .ro, 0, false⟩,
      ⟨1, 1, .ro, 0, false⟩,
      ⟨2, 1, .ro, 0, false⟩,
      ⟨3, 1, .ro, 0, false⟩,
      ⟨4, 1, .ro, 0, false⟩,
      ⟨16, 16, .ro, 0, false⟩,
      ⟨32, 32, .ro, 0, false⟩]⟩,
  ⟨"PARS_STALL_LIMIT", true, 0x40018, 32, [], .mgmt, some (0x40008, 31), [
      ⟨0, 32, .rwl, 0x3E8, false⟩]⟩,
  ⟨"PARS_EPOCH", true, 0x40020, 32, [], .mgmt, none, [
      ⟨0, 32, .ro, 0, false⟩]⟩,
  ⟨"PARS_RESTARTS", true, 0x40028, 32, [], .mgmt, none, [
      ⟨0, 32, .ro, 0, false⟩]⟩,
  ⟨"PARS_STEPS", true, 0x40030, 64, [], .mgmt, none, [
      ⟨0, 64, .ro, 0, false⟩]⟩,
  ⟨"PARS_OWNER", true, 0x40038, 32, [], .mgmt, some (0x40008, 31), [
      ⟨0, 3, .rwl, 0, false⟩]⟩]

/-- The DILL registers at CDn + 0x5_0000. -/
def regsCd5 : List RegRow := [
  ⟨"DILL_CAPS", true, 0x50000, 64, [], .mgmt, none, [
      ⟨0, 1, .ro, 0, true⟩,
      ⟨16, 8, .ro, 0x80, false⟩,
      ⟨24, 4, .ro, 2, false⟩,
      ⟨32, 16, .ro, 0x100, false⟩]⟩,
  ⟨"DILL_CFG", true, 0x50008, 32, [], .mgmt, some (0x50008, 31), [
      ⟨0, 1, .rwl, 0, false⟩,
      ⟨1, 1, .rwl, 0, false⟩,
      ⟨31, 1, .rw1s, 0, false⟩]⟩,
  ⟨"DILL_STATUS", true, 0x50010, 64, [], .mgmt, none, [
      ⟨0, 1, .ro, 0, false⟩,
      ⟨1, 1, .ro, 0, false⟩,
      ⟨2, 1, .ro, 0, false⟩,
      ⟨16, 16, .ro, 0, false⟩,
      ⟨32, 32, .ro, 0, false⟩]⟩,
  ⟨"DILL_STALL_LIMIT", true, 0x50018, 32, [], .mgmt, some (0x50008, 31), [
      ⟨0, 32, .rwl, 0x3E8, false⟩]⟩,
  ⟨"DILL_EPOCH", true, 0x50020, 32, [], .mgmt, none, [
      ⟨0, 32, .ro, 0, false⟩]⟩,
  ⟨"DILL_RESTARTS", true, 0x50028, 32, [], .mgmt, none, [
      ⟨0, 32, .ro, 0, false⟩]⟩,
  ⟨"DILL_KOBASE", true, 0x50030, 32, [], .mgmt, none, [
      ⟨0, 16, .rw, 0xFFFF, false⟩,
      ⟨16, 16, .rw, 0xFFFF, false⟩]⟩,
  ⟨"DILL_ORDER", true, 0x50038, 64, [], .mgmt, none, [
      ⟨0, 16, .ro, 0, false⟩,
      ⟨16, 16, .ro, 0, false⟩]⟩,
  ⟨"DILL_MISMATCH", true, 0x50040, 64, [], .mgmt, none, [
      ⟨0, 4, .ro, 0, false⟩,
      ⟨4, 1, .ro, 0, false⟩,
      ⟨5, 3, .ro, 0, false⟩,
      ⟨32, 32, .ro, 0, false⟩]⟩,
  ⟨"DILL_ROWS", true, 0x50048, 64, [], .mgmt, none, [
      ⟨0, 64, .ro, 0, false⟩]⟩,
  ⟨"DILL_DRAWS", true, 0x50050, 64, [], .mgmt, none, [
      ⟨0, 64, .ro, 0, false⟩]⟩,
  ⟨"DILL_REJECTS", true, 0x50058, 64, [], .mgmt, none, [
      ⟨0, 64, .ro, 0, false⟩]⟩]

/-- The TARR registers at CDn + 0x6_0000. -/
def regsCd6 : List RegRow := [
  ⟨"TARR_CAPS", true, 0x60000, 64, [], .mgmt, none, [
      ⟨0, 1, .ro, 0, true⟩,
      ⟨16, 8, .ro, 0, true⟩,
      ⟨24, 4, .ro, 0xC, false⟩,
      ⟨32, 16, .ro, 0x800, false⟩]⟩,
  ⟨"TARR_CFG", true, 0x60008, 32, [], .mgmt, some (0x60008, 31), [
      ⟨0, 1, .rwl, 0, false⟩,
      ⟨1, 1, .rwl, 0, false⟩,
      ⟨31, 1, .rw1s, 0, false⟩]⟩,
  ⟨"TARR_STATUS", true, 0x60010, 64, [], .mgmt, none, [
      ⟨0, 1, .ro, 0, false⟩,
      ⟨1, 1, .ro, 0, false⟩,
      ⟨2, 3, .ro, 0, false⟩,
      ⟨16, 16, .ro, 0, false⟩,
      ⟨32, 32, .ro, 0, false⟩]⟩,
  ⟨"TARR_STALL_LIMIT", true, 0x60018, 32, [], .mgmt, some (0x60008, 31), [
      ⟨0, 32, .rwl, 0x3E8, false⟩]⟩,
  ⟨"TARR_EPOCH", true, 0x60020, 32, [], .mgmt, none, [
      ⟨0, 32, .ro, 0, false⟩]⟩,
  ⟨"TARR_RESTARTS", true, 0x60028, 32, [], .mgmt, none, [
      ⟨0, 32, .ro, 0, false⟩]⟩,
  ⟨"TARR_STEPS", true, 0x60030, 64, [], .mgmt, none, [
      ⟨0, 64, .ro, 0, false⟩]⟩,
  ⟨"TARR_WAVES", true, 0x60038, 64, [], .mgmt, none, [
      ⟨0, 64, .ro, 0, false⟩]⟩,
  ⟨"TARR_SAMPLES", true, 0x60040, 64, [], .mgmt, none, [
      ⟨0, 64, .ro, 0, false⟩]⟩]

/-- The STRM registers at CDn + 0x7_0000. -/
def regsCd7 : List RegRow := [
  ⟨"STRM_CAPS", true, 0x70000, 64, [], .mgmt, none, [
      ⟨0, 4, .ro, 0, true⟩,
      ⟨4, 4, .ro, 7, false⟩,
      ⟨8, 5, .ro, 0x10, false⟩,
      ⟨16, 8, .ro, 0x10, false⟩]⟩,
  ⟨"STRM_CFG", true, 0x70008, 32, [], .mgmt, some (0x70008, 31), [
      ⟨0, 1, .rwl, 0, false⟩,
      ⟨31, 1, .rw1s, 0, false⟩]⟩,
  ⟨"STRM_GROUP", true, 0x70010, 32, [], .mgmt, some (0x70008, 31), [
      ⟨0, 1, .rwl, 0, false⟩,
      ⟨1, 1, .rwl, 0, false⟩,
      ⟨2, 1, .rwl, 0, false⟩,
      ⟨3, 1, .ro, 0, false⟩,
      ⟨4, 3, .rwl, 0, false⟩,
      ⟨7, 3, .rwl, 0, false⟩,
      ⟨10, 3, .rwl, 0, false⟩]⟩,
  ⟨"STRM_STATUS", true, 0x70018, 64, [], .mgmt, none, [
      ⟨0, 4, .ro, 0, false⟩,
      ⟨16, 5, .ro, 0, false⟩,
      ⟨21, 5, .ro, 0, false⟩,
      ⟨26, 5, .ro, 0, false⟩,
      ⟨31, 5, .ro, 0, false⟩]⟩,
  ⟨"STRM_STALL_LIMIT", true, 0x70020, 32, [], .mgmt, some (0x70008, 31), [
      ⟨0, 32, .rwl, 0x3E8, false⟩]⟩,
  ⟨"SU_PROGBASE", true, 0x70028, 32, [], .mgmt, none, [
      ⟨0, 16, .rw, 0xFFFF, false⟩]⟩,
  ⟨"SU_BUSY", true, 0x70030, 32, [], .mgmt, none, [
      ⟨0, 16, .ro, 0, false⟩]⟩,
  ⟨"SU_FAULT", true, 0x70038, 64, [], .mgmt, none, [
      ⟨0, 4, .ro, 0, false⟩,
      ⟨16, 16, .ro, 0, false⟩,
      ⟨32, 16, .ro, 0, false⟩]⟩,
  ⟨"STRM_LAYER", true, 0x70040, 32, [], .mgmt, none, [
      ⟨0, 32, .ro, 0, false⟩]⟩,
  ⟨"SU_BYTES", true, 0x70048, 64, [], .mgmt, none, [
      ⟨0, 64, .ro, 0, false⟩]⟩]

/-- The CHIVE registers at CDn + 0x8_0000. -/
def regsCd8 : List RegRow := [
  ⟨"CHIVE_CAPS", true, 0x80000, 64, [], .mgmt, none, [
      ⟨0, 8, .ro, 0, true⟩,
      ⟨16, 16, .ro, 0x100, false⟩,
      ⟨32, 16, .ro, 0x20, false⟩]⟩,
  ⟨"CHIVE_RUN", true, 0x80008, 32, [], .mgmt, none, [
      ⟨0, 7, .rw, 0, false⟩,
      ⟨7, 1, .ro, 1, false⟩]⟩,
  ⟨"CHIVE_STATUS", true, 0x80010, 64, [], .mgmt, none, [
      ⟨0, 8, .ro, 0, false⟩,
      ⟨8, 8, .ro, 0, false⟩,
      ⟨16, 8, .ro, 0, false⟩]⟩,
  ⟨"CHIVE_TRAP", true, 0x80018, 64, [], .mgmt, none, [
      ⟨0, 3, .ro, 0, false⟩,
      ⟨8, 8, .ro, 0, false⟩,
      ⟨32, 32, .ro, 0, false⟩]⟩,
  ⟨"CHIVE_INSTRET", true, 0x80040, 64, [(8, 8)], .mgmt, none, [
      ⟨0, 64, .ro, 0, false⟩]⟩]

/-- The LDR registers at HUB + 0x6_0000. -/
def regsHub6 : List RegRow := [
  ⟨"LDR_CAPS", false, 0x60000, 64, [], .mgmt, none, [
      ⟨0, 8, .ro, 0x10, false⟩,
      ⟨8, 16, .ro, 0x100, false⟩,
      ⟨24, 8, .ro, 1, false⟩]⟩,
  ⟨"LDR_SLOTS", false, 0x60008, 32, [], .mgmt, none, [
      ⟨0, 16, .ro, 0, false⟩,
      ⟨16, 16, .ro, 0, false⟩]⟩,
  ⟨"LDR_LAST", false, 0x60010, 64, [], .mgmt, none, [
      ⟨0, 16, .ro, 0, false⟩,
      ⟨16, 4, .ro, 0, false⟩,
      ⟨32, 32, .ro, 0, false⟩]⟩]

/-- The SPAD registers at CDn + 0x9_0000. -/
def regsCd9 : List RegRow := [
  ⟨"SPAD_CAPS", true, 0x90000, 64, [], .mgmt, none, [
      ⟨0, 9, .ro, 0x100, false⟩,
      ⟨16, 8, .ro, 0x10, false⟩,
      ⟨24, 8, .ro, 8, false⟩]⟩,
  ⟨"SPAD_BANKS", true, 0x90008, 64, [], .mgmt, none, [
      ⟨0, 64, .ro, 0, true⟩]⟩,
  ⟨"SPAD_CFG", true, 0x90010, 32, [], .mgmt, some (0x90010, 31), [
      ⟨0, 1, .rwl, 0, false⟩,
      ⟨31, 1, .rw1s, 0, false⟩]⟩,
  ⟨"SPAD_CLASS", true, 0x90018, 64, [], .mgmt, some (0x90010, 31), [
      ⟨0, 64, .rwl, 0, false⟩]⟩,
  ⟨"SPAD_PWR", true, 0x90020, 64, [], .mgmt, none, [
      ⟨0, 64, .rw, 0xFFFFFFFFFFFFFFFF, false⟩]⟩,
  ⟨"SPAD_STATUS", true, 0x90028, 64, [], .mgmt, none, [
      ⟨0, 1, .ro, 0, false⟩,
      ⟨1, 1, .ro, 1, false⟩,
      ⟨16, 16, .ro, 0, false⟩]⟩,
  ⟨"SPAD_RTMO", true, 0x90030, 32, [], .mgmt, some (0x90010, 31), [
      ⟨0, 32, .rwl, 0x64, false⟩]⟩,
  ⟨"SPAD_CE_COUNT", true, 0x90038, 64, [], .mgmt, none, [
      ⟨0, 64, .ro, 0, false⟩]⟩,
  ⟨"SPAD_UE_COUNT", true, 0x90040, 64, [], .mgmt, none, [
      ⟨0, 64, .ro, 0, false⟩]⟩,
  ⟨"SPAD_LAST_ERR", true, 0x90048, 64, [], .mgmt, none, [
      ⟨0, 6, .ro, 0, false⟩,
      ⟨6, 1, .ro, 0, false⟩,
      ⟨7, 1, .ro, 0, false⟩,
      ⟨8, 16, .ro, 0, false⟩,
      ⟨32, 12, .ro, 0, false⟩]⟩,
  ⟨"SPAD_TDFAULT", true, 0x90050, 64, [], .mgmt, none, [
      ⟨0, 16, .ro, 0, false⟩,
      ⟨16, 16, .ro, 0, false⟩,
      ⟨32, 14, .ro, 0, false⟩]⟩,
  ⟨"SPAD_CONFLICTS", true, 0x90058, 64, [], .mgmt, none, [
      ⟨0, 64, .ro, 0, false⟩]⟩,
  ⟨"SPAD_WAKES", true, 0x90060, 32, [], .mgmt, none, [
      ⟨0, 32, .ro, 0, false⟩]⟩,
  ⟨"SPAD_TWIN_CTL", true, 0x90080, 64, [], .twin, none, [
      ⟨0, 6, .rw, 0, false⟩,
      ⟨16, 16, .rw, 0, false⟩,
      ⟨32, 2, .rw, 0, false⟩,
      ⟨34, 1, .ro, 0, false⟩,
      ⟨35, 1, .ro, 0, false⟩]⟩,
  ⟨"SPAD_TWIN_DATA", true, 0x90100, 64, [(16, 8)], .twin, none, [
      ⟨0, 64, .rw, 0, false⟩]⟩,
  ⟨"SPAD_TWIN_CHECK", true, 0x90180, 64, [(2, 8)], .twin, none, [
      ⟨0, 64, .rw, 0, false⟩]⟩,
  ⟨"SPAD_HTAB0", true, 0x91000, 64, [(256, 0x20)], .mgmt, none, [
      ⟨0, 1, .rw, 0, false⟩,
      ⟨1, 1, .rw, 0, false⟩,
      ⟨2, 2, .rw, 0, false⟩,
      ⟨4, 12, .rw, 0, false⟩,
      ⟨16, 1, .rw, 0, false⟩,
      ⟨17, 1, .rw, 0, false⟩,
      ⟨32, 6, .rw, 0, false⟩,
      ⟨39, 7, .rw, 0, false⟩,
      ⟨48, 16, .rw, 0, false⟩]⟩,
  ⟨"SPAD_HTAB1", true, 0x91008, 64, [(256, 0x20)], .mgmt, none, [
      ⟨0, 48, .rw, 0, false⟩]⟩,
  ⟨"SPAD_HTAB2", true, 0x91010, 64, [(256, 0x20)], .mgmt, none, [
      ⟨0, 40, .rw, 0, false⟩]⟩,
  ⟨"SPAD_HTAB3", true, 0x91018, 64, [(256, 0x20)], .mgmt, none, [
      ⟨0, 4, .rw, 0, false⟩,
      ⟨16, 16, .rw, 0, false⟩]⟩]

/-- The QCH registers at CDn + 0xA_0000. -/
def regsCdA : List RegRow := [
  ⟨"QCH_CAPS", true, 0xA0000, 64, [], .mgmt, none, [
      ⟨0, 8, .ro, 0x80, false⟩,
      ⟨8, 16, .ro, 0x400, false⟩,
      ⟨24, 8, .ro, 0x20, false⟩,
      ⟨32, 8, .ro, 0x10, false⟩,
      ⟨40, 8, .ro, 0x20, false⟩,
      ⟨48, 8, .ro, 0x10, false⟩]⟩,
  ⟨"QCH_CFG", true, 0xA0008, 32, [], .mgmt, some (0xA0008, 31), [
      ⟨0, 1, .rwl, 0, false⟩,
      ⟨31, 1, .rw1s, 0, false⟩]⟩,
  ⟨"QCH_STALL_LIMIT", true, 0xA0010, 32, [], .mgmt, some (0xA0008, 31), [
      ⟨0, 32, .rwl, 0x3E8, false⟩]⟩,
  ⟨"QCH_FSTALL_LIMIT", true, 0xA0018, 32, [], .mgmt, some (0xA0008, 31), [
      ⟨0, 32, .rwl, 0x2710, false⟩]⟩,
  ⟨"QCH_LAST_STALL", true, 0xA0020, 64, [], .mgmt, none, [
      ⟨0, 8, .ro, 0, false⟩,
      ⟨8, 7, .ro, 0, false⟩,
      ⟨16, 3, .ro, 0, false⟩,
      ⟨32, 32, .ro, 0, false⟩]⟩,
  ⟨"QCH_BRIDGE", true, 0xA0028, 64, [], .mgmt, none, [
      ⟨0, 3, .ro, 0, false⟩,
      ⟨32, 32, .ro, 0, false⟩]⟩,
  ⟨"QCH_SEAL_PEND", true, 0xA0030, 32, [], .mgmt, none, [
      ⟨0, 6, .ro, 0, false⟩]⟩,
  ⟨"QCH_QSTAT", true, 0xA0400, 64, [(128, 8)], .mgmt, none, [
      ⟨0, 10, .ro, 0, false⟩,
      ⟨10, 10, .ro, 0, false⟩,
      ⟨20, 1, .ro, 0, false⟩,
      ⟨21, 1, .ro, 0, false⟩,
      ⟨22, 1, .ro, 0, false⟩,
      ⟨23, 1, .ro, 0, false⟩,
      ⟨24, 1, .ro, 0, false⟩,
      ⟨32, 16, .ro, 0, false⟩,
      ⟨48, 16, .ro, 0, false⟩]⟩,
  ⟨"QCH_QCFG", true, 0xA0800, 32, [(128, 4)], .mgmt, none, [
      ⟨0, 10, .rw, 0, false⟩,
      ⟨10, 1, .rw, 0, false⟩,
      ⟨16, 8, .rw, 0xFF, false⟩,
      ⟨24, 8, .rw, 0xFF, false⟩]⟩,
  ⟨"QCH_CHTAB0", true, 0xA1000, 64, [(32, 0x40)], .mgmt, none, [
      ⟨0, 7, .rw, 0, false⟩,
      ⟨7, 1, .rw, 0, false⟩,
      ⟨8, 2, .rw, 0, false⟩,
      ⟨10, 5, .rw, 0, false⟩,
      ⟨16, 16, .rw, 0, false⟩]⟩,
  ⟨"QCH_CHTAB1", true, 0xA1008, 64, [(32, 0x40)], .mgmt, none, [
      ⟨0, 17, .rw, 0, false⟩,
      ⟨24, 7, .rw, 0, false⟩]⟩,
  ⟨"QCH_CHRECV", true, 0xA1010, 64, [(32, 0x40), (4, 8)], .mgmt, none, [
      ⟨0, 16, .rw, 0, false⟩,
      ⟨16, 16, .rw, 0, false⟩,
      ⟨32, 16, .rw, 0, false⟩,
      ⟨48, 16, .rw, 0, false⟩]⟩]

/-- The MEM registers at CDn + 0xB_0000. -/
def regsCdB : List RegRow := [
  ⟨"MEM_CAPS", true, 0xB0000, 64, [], .mgmt, none, [
      ⟨0, 2, .ro, 0, true⟩,
      ⟨16, 16, .ro, 0xF00, false⟩]⟩,
  ⟨"MEM_CFG", true, 0xB0008, 32, [], .mgmt, some (0xB0008, 31), [
      ⟨0, 1, .rwl, 0, false⟩,
      ⟨31, 1, .rw1s, 0, false⟩]⟩,
  ⟨"MEM_CHMAP", true, 0xB0010, 64, [], .mgmt, none, [
      ⟨0, 32, .ro, 0, true⟩,
      ⟨32, 6, .ro, 0, true⟩]⟩,
  ⟨"MEM_THERM", true, 0xB0018, 64, [], .mgmt, none, [
      ⟨0, 8, .ro, 0, false⟩,
      ⟨8, 2, .ro, 0, false⟩,
      ⟨10, 1, .ro, 0, false⟩,
      ⟨16, 8, .ro, 0, false⟩,
      ⟨24, 2, .ro, 0, false⟩,
      ⟨26, 1, .ro, 0, false⟩]⟩,
  ⟨"MEM_CE_COUNT", true, 0xB0020, 64, [], .mgmt, none, [
      ⟨0, 64, .ro, 0, false⟩]⟩,
  ⟨"MEM_UE_COUNT", true, 0xB0028, 64, [], .mgmt, none, [
      ⟨0, 64, .ro, 0, false⟩]⟩,
  ⟨"MEM_ODECC", true, 0xB0030, 64, [], .mgmt, none, [
      ⟨0, 64, .ro, 0, false⟩]⟩,
  ⟨"MEM_LAST_ERR", true, 0xB0038, 64, [], .mgmt, none, [
      ⟨0, 5, .ro, 0, false⟩,
      ⟨5, 1, .ro, 0, false⟩,
      ⟨6, 1, .ro, 0, false⟩,
      ⟨8, 24, .ro, 0, false⟩,
      ⟨32, 12, .ro, 0, false⟩]⟩,
  ⟨"MEM_TG_CTL", true, 0xB0040, 64, [], .mgmtDebug, none, [
      ⟨0, 32, .rw, 0, false⟩,
      ⟨32, 2, .rw, 0, false⟩,
      ⟨34, 1, .rw1s, 0, false⟩,
      ⟨40, 12, .rw, 0, false⟩,
      ⟨52, 12, .rw, 0, false⟩]⟩,
  ⟨"MEM_TG_RESULT", true, 0xB0048, 64, [], .mgmt, none, [
      ⟨0, 1, .ro, 0, false⟩,
      ⟨1, 1, .ro, 0, false⟩,
      ⟨2, 1, .ro, 0, false⟩,
      ⟨32, 32, .ro, 0, false⟩]⟩,
  ⟨"MEM_MARGIN_CTL", true, 0xB0050, 64, [], .margin, none, [
      ⟨0, 1, .rw, 0, false⟩,
      ⟨1, 1, .rw1s, 0, false⟩,
      ⟨2, 1, .ro, 0, false⟩,
      ⟨3, 1, .ro, 0, false⟩,
      ⟨4, 1, .ro, 0, false⟩]⟩,
  ⟨"MEM_MARGIN_RESULT", true, 0xB0058, 64, [], .mgmt, none, [
      ⟨0, 6, .ro, 0, false⟩,
      ⟨6, 6, .ro, 0, false⟩,
      ⟨12, 6, .ro, 0, false⟩,
      ⟨18, 6, .ro, 0, false⟩,
      ⟨24, 5, .ro, 0, false⟩,
      ⟨29, 5, .ro, 0, false⟩]⟩]

/-- The HIF registers at HUB + 0x1_0000. -/
def regsHub1 : List RegRow := [
  ⟨"HIF_CAPS", false, 0x10000, 64, [], .mgmt, none, [
      ⟨0, 7, .ro, 0x40, false⟩,
      ⟨8, 7, .ro, 0x40, false⟩,
      ⟨16, 9, .ro, 0x100, false⟩,
      ⟨25, 1, .ro, 0, true⟩]⟩,
  ⟨"HIF_CFG", false, 0x10008, 32, [], .mgmt, some (0x10008, 31), [
      ⟨0, 1, .rwl, 0, false⟩,
      ⟨31, 1, .rw1s, 0, false⟩]⟩,
  ⟨"HIF_EQ_BASE", false, 0x10010, 64, [], .hostRings, none, [
      ⟨0, 64, .rw, 0, false⟩]⟩,
  ⟨"HIF_EQ_CFG", false, 0x10018, 64, [], .hostRings, none, [
      ⟨0, 4, .rw, 4, false⟩,
      ⟨8, 8, .rw, 0, false⟩,
      ⟨16, 8, .rw, 0xFF, false⟩,
      ⟨24, 1, .rw, 0, false⟩]⟩,
  ⟨"HIF_EQ_STATE", false, 0x10020, 64, [], .hostRings, none, [
      ⟨0, 16, .ro, 0, false⟩,
      ⟨16, 16, .ro, 0, false⟩,
      ⟨32, 1, .w1c, 0, false⟩,
      ⟨33, 31, .ro, 0, false⟩]⟩,
  ⟨"SQ_BASE", false, 0x11000, 64, [(64, 0x20)], .hostRings, none, [
      ⟨0, 64, .rw, 0, false⟩]⟩,
  ⟨"SQ_CFG", false, 0x11008, 64, [(64, 0x20)], .hostRings, none, [
      ⟨0, 4, .rw, 4, false⟩,
      ⟨8, 6, .rw, 0, false⟩,
      ⟨16, 7, .rw, 0, false⟩,
      ⟨23, 1, .rw, 0, false⟩,
      ⟨24, 1, .rw, 0, false⟩]⟩,
  ⟨"SQ_SHADOW", false, 0x11010, 64, [(64, 0x20)], .hostRings, none, [
      ⟨0, 64, .rw, 0, false⟩]⟩,
  ⟨"SQ_STATE", false, 0x11018, 64, [(64, 0x20)], .hostRings, none, [
      ⟨0, 16, .ro, 0, false⟩,
      ⟨16, 16, .ro, 0, false⟩]⟩,
  ⟨"CQ_BASE", false, 0x12000, 64, [(64, 0x20)], .hostRings, none, [
      ⟨0, 64, .rw, 0, false⟩]⟩,
  ⟨"CQ_CFG", false, 0x12008, 64, [(64, 0x20)], .hostRings, none, [
      ⟨0, 4, .rw, 4, false⟩,
      ⟨8, 8, .rw, 0, false⟩,
      ⟨16, 8, .rw, 0, false⟩,
      ⟨24, 8, .rw, 0, false⟩,
      ⟨32, 1, .rw, 0, false⟩]⟩,
  ⟨"CQ_STATE", false, 0x12010, 64, [(64, 0x20)], .hostRings, none, [
      ⟨0, 16, .ro, 0, false⟩,
      ⟨16, 16, .ro, 0, false⟩,
      ⟨32, 1, .ro, 0, false⟩]⟩,
  ⟨"HIF_APWIN", false, 0x13000, 64, [(64, 8)], .hostRings, none, [
      ⟨0, 16, .rw, 0xFFFF, false⟩,
      ⟨16, 1, .rw, 0, false⟩,
      ⟨32, 16, .rw, 0, false⟩]⟩]

/-- The MBX registers at HUB + 0x2_0000. -/
def regsHub2 : List RegRow := [
  ⟨"MBX_BIND", false, 0x20000, 64, [(32, 8)], .mgmt, some (0x20100, 0), [
      ⟨0, 12, .rwl, 0, false⟩,
      ⟨16, 12, .rwl, 0, false⟩,
      ⟨32, 8, .rwl, 0, false⟩,
      ⟨40, 1, .rwl, 0, false⟩]⟩,
  ⟨"MBX_LOCK", false, 0x20100, 32, [], .mgmt, none, [
      ⟨0, 1, .rw1s, 0, false⟩]⟩,
  ⟨"MBX_DB", false, 0x20108, 32, [], .perChannel, none, [
      ⟨0, 32, .w1c, 0, false⟩]⟩,
  ⟨"MBX_MASK", false, 0x20110, 32, [], .perChannel, none, [
      ⟨0, 32, .rw, 0, false⟩]⟩,
  ⟨"MBX_STATUS", false, 0x20118, 64, [], .perChannel, none, [
      ⟨0, 32, .ro, 0, false⟩,
      ⟨32, 32, .w1c, 0, false⟩]⟩,
  ⟨"MBX_DATA", false, 0x21000, 64, [(32, 0x80), (8, 8)], .perChannel, none, [
      ⟨0, 64, .rw, 0, false⟩]⟩,
  ⟨"MBX_SEND", false, 0x21040, 32, [(32, 0x80)], .perChannel, none, [
      ⟨0, 1, .wo, 0, false⟩]⟩]

/-- The FAB registers at HUB + 0x8_0000. -/
def regsHub8 : List RegRow := [
  ⟨"FAB_CAPS", false, 0x80000, 64, [], .mgmt, none, [
      ⟨0, 8, .ro, 0, true⟩,
      ⟨8, 8, .ro, 8, false⟩,
      ⟨16, 13, .ro, 0x1000, false⟩,
      ⟨32, 9, .ro, 0x100, false⟩,
      ⟨41, 9, .ro, 0x100, false⟩,
      ⟨50, 7, .ro, 0x40, false⟩]⟩,
  ⟨"FAB_CFG", false, 0x80008, 64, [], .mgmt, some (0x80008, 63), [
      ⟨0, 1, .rwl, 0, false⟩,
      ⟨1, 1, .rwl, 0, false⟩,
      ⟨16, 16, .rwl, 0x88B5, false⟩,
      ⟨32, 12, .rwl, 0, false⟩,
      ⟨44, 3, .rwl, 0, false⟩,
      ⟨63, 1, .rw1s, 0, false⟩]⟩,
  ⟨"FAB_EPID", false, 0x80010, 32, [], .mgmt, some (0x80008, 63), [
      ⟨0, 17, .rwl, 0, false⟩]⟩,
  ⟨"FAB_RTO", false, 0x80018, 32, [], .mgmt, some (0x80008, 63), [
      ⟨0, 16, .rwl, 0x32, false⟩,
      ⟨16, 4, .rwl, 8, false⟩]⟩,
  ⟨"FAB_RETX", false, 0x80020, 64, [], .mgmt, none, [
      ⟨0, 64, .ro, 0, false⟩]⟩,
  ⟨"FAB_PORT", false, 0x80100, 64, [(8, 8)], .mgmt, none, [
      ⟨0, 1, .ro, 0, false⟩,
      ⟨1, 1, .ro, 0, false⟩,
      ⟨2, 1, .ro, 0, false⟩,
      ⟨8, 8, .ro, 0, false⟩,
      ⟨32, 32, .ro, 0, false⟩]⟩,
  ⟨"FAB_DROP", false, 0x80200, 64, [(12, 8)], .mgmt, none, [
      ⟨0, 64, .ro, 0, false⟩]⟩]

/-- The FAB registers at HUB + 0x81_0000. -/
def regsHub81 : List RegRow := [
  ⟨"FAB_PEERTAB", false, 0x810000, 64, [(4096, 8)], .secOnly, none, [
      ⟨0, 17, .rw, 0, false⟩,
      ⟨17, 1, .rw, 0, false⟩,
      ⟨24, 8, .rw, 0, false⟩,
      ⟨32, 12, .rw, 0, false⟩]⟩]

/-- The FAB registers at HUB + 0x82_0000. -/
def regsHub82 : List RegRow := [
  ⟨"FAB_RXTAB", false, 0x820000, 64, [(256, 8)], .mgmt, none, [
      ⟨0, 17, .rw, 0, false⟩,
      ⟨17, 1, .rw, 0, false⟩,
      ⟨24, 3, .rw, 0, false⟩,
      ⟨32, 16, .rw, 0, false⟩,
      ⟨48, 7, .rw, 0, false⟩]⟩]

/-- The FAB registers at HUB + 0x83_0000. -/
def regsHub83 : List RegRow := [
  ⟨"FAB_MCAST", false, 0x830000, 32, [(256, 0x100), (64, 4)], .mgmt, none, [
      ⟨0, 17, .rw, 0, false⟩,
      ⟨31, 1, .rw, 0, false⟩]⟩]

/-- The SAGE registers at HUB + 0x9_0000. -/
def regsHub9 : List RegRow := [
  ⟨"SAGE_CAPS", false, 0x90000, 64, [], .mgmt, none, [
      ⟨0, 5, .ro, 0x18, false⟩,
      ⟨8, 8, .ro, 3, false⟩,
      ⟨16, 16, .ro, 0x400, false⟩,
      ⟨32, 16, .ro, 0x100, false⟩,
      ⟨48, 16, .ro, 0x1000, false⟩]⟩,
  ⟨"SAGE_CFG", false, 0x90008, 32, [], .mgmt, some (0x90008, 31), [
      ⟨0, 1, .rwl, 0, false⟩,
      ⟨31, 1, .rw1s, 0, false⟩]⟩,
  ⟨"SAGE_STATE", false, 0x90010, 64, [], .mgmt, none, [
      ⟨0, 32, .ro, 0, false⟩,
      ⟨32, 1, .ro, 0, false⟩,
      ⟨33, 1, .ro, 0, false⟩,
      ⟨34, 1, .ro, 0, false⟩,
      ⟨40, 24, .ro, 3, false⟩]⟩,
  ⟨"SAGE_BUDGET", false, 0x90018, 64, [], .mgmt, none, [
      ⟨0, 32, .ro, 0, false⟩,
      ⟨32, 32, .ro, 0, false⟩]⟩,
  ⟨"SAGE_RECORDS", false, 0x90020, 64, [], .mgmt, none, [
      ⟨0, 25, .ro, 0, false⟩,
      ⟨32, 25, .ro, 0, false⟩]⟩,
  ⟨"SAGE_LAST", false, 0x90028, 64, [], .mgmt, none, [
      ⟨0, 8, .ro, 0, false⟩,
      ⟨8, 8, .ro, 0, false⟩,
      ⟨16, 5, .ro, 0, false⟩,
      ⟨32, 32, .ro, 0, false⟩]⟩,
  ⟨"SAGE_RELEASES", false, 0x90030, 64, [], .mgmt, none, [
      ⟨0, 64, .ro, 0, false⟩]⟩,
  ⟨"SAGE_REFUSALS", false, 0x90038, 64, [], .mgmt, none, [
      ⟨0, 64, .ro, 0, false⟩]⟩]

/-- The SAGE registers at CDn + 0xC_0000. -/
def regsCdC : List RegRow := [
  ⟨"SAGE_BIND", true, 0xC0000, 64, [(256, 8)], .mgmt, none, [
      ⟨0, 24, .ro, 0, false⟩,
      ⟨24, 5, .ro, 0, false⟩,
      ⟨31, 1, .ro, 0, false⟩,
      ⟨32, 8, .ro, 0, false⟩]⟩]

/-- The SEC registers at HUB + 0xA_0000. -/
def regsHubA : List RegRow := [
  ⟨"SEC_CAPS", false, 0xA0000, 64, [], .mgmt, none, [
      ⟨0, 16, .ro, 0x600, false⟩,
      ⟨16, 8, .ro, 0x10, false⟩,
      ⟨24, 8, .ro, 3, false⟩,
      ⟨32, 8, .ro, 0x10, false⟩]⟩,
  ⟨"SEC_STATE", false, 0xA0008, 64, [], .mgmt, none, [
      ⟨0, 3, .ro, 0, false⟩,
      ⟨3, 1, .ro, 0, false⟩,
      ⟨4, 1, .ro, 0, false⟩,
      ⟨5, 1, .ro, 0, false⟩,
      ⟨6, 1, .ro, 0, false⟩,
      ⟨7, 1, .ro, 0, false⟩,
      ⟨8, 1, .ro, 0, false⟩,
      ⟨9, 1, .ro, 0, false⟩,
      ⟨10, 1, .ro, 0, false⟩,
      ⟨11, 1, .ro, 0, false⟩]⟩,
  ⟨"SEC_SVN", false, 0xA0010, 64, [], .mgmt, none, [
      ⟨0, 7, .ro, 0, true⟩,
      ⟨32, 32, .ro, 0, false⟩]⟩,
  ⟨"SEC_LAST", false, 0xA0018, 64, [], .mgmt, none, [
      ⟨0, 16, .ro, 0, false⟩,
      ⟨16, 3, .ro, 0, false⟩,
      ⟨32, 32, .ro, 0, false⟩]⟩,
  ⟨"SEC_INGEST", false, 0xA0020, 64, [], .mgmt, none, [
      ⟨0, 32, .ro, 0, false⟩,
      ⟨32, 32, .ro, 0, false⟩]⟩,
  ⟨"SEC_LOVAGE", false, 0xA0028, 64, [], .mgmt, none, [
      ⟨0, 32, .ro, 0, false⟩,
      ⟨32, 32, .ro, 0, false⟩]⟩,
  ⟨"SEC_MEAS", false, 0xA0100, 64, [(8, 0x20), (4, 8)], .mgmt, none, [
      ⟨0, 64, .ro, 0, false⟩]⟩]

/-- The ADM registers at HUB + 0xB_0000. -/
def regsHubB : List RegRow := [
  ⟨"ADM_CAPS", false, 0xB0000, 64, [], .mgmt, none, [
      ⟨0, 12, .ro, 0x4B0, false⟩,
      ⟨12, 12, .ro, 0x640, false⟩,
      ⟨24, 12, .ro, 0x7D0, false⟩,
      ⟨36, 12, .ro, 0x64, false⟩]⟩,
  ⟨"ADM_CFG", false, 0xB0008, 32, [], .mgmt, some (0xB0008, 31), [
      ⟨0, 1, .rwl, 0, false⟩,
      ⟨31, 1, .rw1s, 0, false⟩]⟩,
  ⟨"ADM_STATE", false, 0xB0010, 64, [], .mgmt, none, [
      ⟨0, 1, .ro, 1, false⟩,
      ⟨4, 4, .ro, 5, false⟩,
      ⟨16, 16, .ro, 0, false⟩]⟩,
  ⟨"ADM_TIME", false, 0xB0018, 64, [], .mgmt, none, [
      ⟨0, 64, .ro, 0, false⟩]⟩,
  ⟨"ADM_LAST", false, 0xB0020, 64, [], .mgmt, none, [
      ⟨0, 16, .ro, 0, false⟩,
      ⟨32, 32, .ro, 0, false⟩]⟩,
  ⟨"PWR_CAPS", false, 0xB0028, 64, [], .mgmt, none, [
      ⟨0, 16, .ro, 0, true⟩,
      ⟨16, 16, .ro, 0, true⟩]⟩,
  ⟨"PWR_LIMIT", false, 0xB0030, 32, [], .mgmtCores, none, [
      ⟨0, 16, .rw, 0, true⟩]⟩,
  ⟨"PWR_INPUT", false, 0xB0038, 64, [], .mgmt, none, [
      ⟨0, 16, .ro, 0, false⟩,
      ⟨16, 16, .ro, 0, false⟩]⟩,
  ⟨"ADM_HORIZON", false, 0xB0100, 64, [(8, 8)], .mgmt, none, [
      ⟨0, 64, .ro, 0, false⟩]⟩]

/-- The PACE registers at CDn + 0xD_0000. -/
def regsCdD : List RegRow := [
  ⟨"PACE_TIME", true, 0xD0000, 64, [], .mgmt, none, [
      ⟨0, 64, .ro, 0, false⟩]⟩,
  ⟨"PACE_NOW", true, 0xD0008, 32, [], .mgmt, none, [
      ⟨0, 12, .ro, 0, false⟩,
      ⟨12, 1, .ro, 0, false⟩,
      ⟨13, 1, .ro, 0, false⟩,
      ⟨14, 1, .ro, 0, false⟩]⟩,
  ⟨"PACE_CAL", true, 0xD0010, 64, [], .mgmt, none, [
      ⟨0, 12, .ro, 0, false⟩,
      ⟨12, 1, .ro, 0, false⟩,
      ⟨32, 32, .ro, 0, false⟩]⟩,
  ⟨"PACE_CAP", true, 0xD0018, 32, [], .mgmtCores, none, [
      ⟨0, 12, .rw, 0x7D0, false⟩]⟩,
  ⟨"PACE_SENSE", true, 0xD0020, 32, [], .mgmt, none, [
      ⟨0, 12, .ro, 0, false⟩,
      ⟨16, 8, .ro, 0, false⟩,
      ⟨24, 1, .ro, 0, false⟩]⟩,
  ⟨"PACE_REQ", true, 0xD0028, 32, [], .mgmtDebug, none, [
      ⟨0, 2, .rw, 0, false⟩,
      ⟨2, 1, .rw1s, 0, false⟩,
      ⟨3, 1, .ro, 0, false⟩,
      ⟨4, 1, .ro, 0, false⟩,
      ⟨5, 1, .ro, 0, false⟩,
      ⟨16, 6, .ro, 0, false⟩]⟩,
  ⟨"PACE_EARLIEST", true, 0xD0030, 64, [], .mgmt, none, [
      ⟨0, 64, .ro, 0, false⟩]⟩,
  ⟨"PACE_MIN", true, 0xD0038, 32, [], .mgmt, none, [
      ⟨0, 12, .ro, 0xFFF, false⟩]⟩]

/-- The PKG registers at HUB + 0xC_0000. -/
def regsHubC : List RegRow := [
  ⟨"PKG_CAPS", false, 0xC0000, 64, [], .mgmt, none, [
      ⟨0, 3, .ro, 0, true⟩,
      ⟨8, 5, .ro, 0, true⟩,
      ⟨16, 16, .ro, 0x258, false⟩,
      ⟨32, 7, .ro, 0, true⟩]⟩,
  ⟨"PKG_STATE", false, 0xC0008, 64, [], .mgmt, none, [
      ⟨0, 4, .ro, 1, false⟩,
      ⟨4, 1, .ro, 0, false⟩,
      ⟨8, 4, .ro, 0, false⟩,
      ⟨32, 32, .ro, 0, false⟩]⟩,
  ⟨"PKG_PD", false, 0xC0010, 64, [], .mgmt, none, [
      ⟨0, 6, .ro, 0, false⟩,
      ⟨8, 6, .ro, 0, false⟩,
      ⟨32, 16, .ro, 0, false⟩]⟩,
  ⟨"PKG_CLK", false, 0xC0018, 32, [], .mgmt, none, [
      ⟨0, 1, .ro, 0, false⟩,
      ⟨1, 8, .ro, 0, false⟩,
      ⟨9, 8, .ro, 0, false⟩,
      ⟨17, 6, .ro, 0, false⟩,
      ⟨23, 1, .ro, 0, false⟩,
      ⟨24, 1, .ro, 0, false⟩]⟩,
  ⟨"PKG_ALERT", false, 0xC0020, 32, [], .mgmt, none, [
      ⟨0, 1, .w1c, 0, false⟩,
      ⟨1, 1, .w1c, 0, false⟩,
      ⟨2, 1, .w1c, 0, false⟩,
      ⟨3, 1, .w1c, 0, false⟩,
      ⟨4, 1, .w1c, 0, false⟩,
      ⟨5, 1, .w1c, 0, false⟩,
      ⟨6, 1, .w1c, 0, false⟩,
      ⟨8, 8, .rw, 0, false⟩]⟩,
  ⟨"PKG_LASTOFF", false, 0xC0028, 32, [], .mgmt, none, [
      ⟨0, 4, .ro, 0, true⟩,
      ⟨4, 3, .ro, 0, true⟩,
      ⟨8, 4, .ro, 0, true⟩]⟩,
  ⟨"PKG_THERM", false, 0xC0030, 32, [], .mgmt, none, [
      ⟨0, 8, .ro, 0, false⟩,
      ⟨8, 4, .ro, 0, false⟩]⟩]

/-- The EVT registers at HUB + 0x4_0000. -/
def regsHub4 : List RegRow := [
  ⟨"EVT_COUNT", false, 0x40000, 64, [(8, 8)], .mgmt, none, [
      ⟨0, 64, .ro, 0, false⟩]⟩,
  ⟨"EVT_LAST", false, 0x40040, 64, [], .mgmt, none, [
      ⟨0, 16, .ro, 0, false⟩,
      ⟨16, 8, .ro, 0, false⟩,
      ⟨24, 8, .ro, 0, false⟩,
      ⟨32, 32, .ro, 0, false⟩]⟩,
  ⟨"EVT_DROP", false, 0x40048, 64, [], .mgmt, none, [
      ⟨0, 64, .ro, 0, false⟩]⟩,
  ⟨"RPL_CFG", false, 0x40080, 64, [], .replay, some (0x40080, 63), [
      ⟨0, 1, .rwl, 0, false⟩,
      ⟨16, 10, .rwl, 0, false⟩,
      ⟨63, 1, .rw1s, 0, false⟩]⟩,
  ⟨"RPL_ARM", false, 0x40088, 64, [], .replay, none, [
      ⟨0, 48, .rw, 0, false⟩,
      ⟨63, 1, .rw, 0, false⟩]⟩,
  ⟨"RPL_STATUS", false, 0x40090, 64, [], .mgmt, none, [
      ⟨0, 1, .ro, 0, false⟩,
      ⟨1, 1, .ro, 0, false⟩,
      ⟨2, 1, .ro, 0, false⟩,
      ⟨3, 1, .ro, 0, false⟩,
      ⟨4, 1, .ro, 0, false⟩,
      ⟨16, 16, .ro, 0, false⟩]⟩,
  ⟨"RPL_USED", false, 0x40098, 64, [], .mgmt, none, [
      ⟨0, 32, .ro, 0, false⟩,
      ⟨32, 32, .ro, 0, false⟩]⟩]

/-- The MEM registers at HUB + 0x7_0000. -/
def regsHub7 : List RegRow := [
  ⟨"MEM_SPLIT", false, 0x70000, 32, [], .mgmt, some (0x70000, 31), [
      ⟨0, 12, .rwl, 0, false⟩,
      ⟨31, 1, .rw1s, 0, false⟩]⟩]

/-- The MSIX registers at HUB + 0x3_0000. -/
def regsHub3 : List RegRow := [
  ⟨"MSIX_ADDR", false, 0x30000, 64, [(256, 0x10)], .hostRings, none, [
      ⟨0, 64, .rw, 0, false⟩]⟩,
  ⟨"MSIX_CTL", false, 0x30008, 64, [(256, 0x10)], .hostRings, none, [
      ⟨0, 32, .rw, 0, false⟩,
      ⟨32, 1, .rw, 1, false⟩]⟩,
  ⟨"MSIX_PBA", false, 0x31000, 64, [(4, 8)], .hostRings, none, [
      ⟨0, 64, .ro, 0, false⟩]⟩]

/-- Every register of the hub window (R467). -/
def hubRegs : List RegRow :=
  regsHub0 ++ regsHub6 ++ regsHub1 ++ regsHub2 ++ regsHub8 ++ regsHub81 ++ regsHub82 ++ regsHub83 ++ regsHub9 ++ regsHubA ++ regsHubB ++ regsHubC ++ regsHub4 ++ regsHub7 ++ regsHub3

/-- Every register of a compute-die window (R470). -/
def cdRegs : List RegRow :=
  regsCd2 ++ regsCd3 ++ regsCd4 ++ regsCd5 ++ regsCd6 ++ regsCd7 ++ regsCd8 ++ regsCd9 ++ regsCdA ++ regsCdB ++ regsCdC ++ regsCdD

/-- The offset of the element of an array that an offset falls in, with the rest; `none` outside the array. -/
def dimHit : List (Nat × Nat) → Nat → Option (Nat × Nat)
  | [], o => some (0, o)
  | (n, st) :: ds, o =>
    if o / st < n then
      match dimHit ds (o % st) with
      | some (b, r) => some (o / st * st + b, r)
      | none => none
    else none

/-- Whether a window offset falls in a register row, and if so the offset of that element. -/
def RegRow.hit (r : RegRow) (o : Nat) : Option Nat :=
  if r.off ≤ o then
    match dimHit r.dims (o - r.off) with
    | some (b, rem) => if rem < r.width / 8 then some (r.off + b) else none
    | none => none
  else none

/-- The row of a table that an offset falls in, with its element's offset. -/
def findRow : List RegRow → Nat → Option (RegRow × Nat)
  | [], _ => none
  | r :: rs, o => match r.hit o with
    | some b => some (r, b)
    | none => findRow rs o

/-- R465: the register row of a BAR0 byte address, with the BAR0 address of its element and the die of a compute-die
window; `none` at a reserved offset. -/
def regAt (a : Nat) : Option (RegRow × Nat × Option Nat) :=
  if a < 0x0100_0000 then
    match findRow hubRegs a with
    | some (r, b) => some (r, b, none)
    | none => none
  else if a < 0x0180_0000 then
    let d := (a - 0x0100_0000) / 0x0010_0000
    match findRow cdRegs ((a - 0x0100_0000) % 0x0010_0000) with
    | some (r, b) => some (r, cdBase d + b, some d)
    | none => none
  else none

/-- The field constant of a field row at an element's address. -/
def FRow.fld (f : FRow) (addr : Nat) : Fld := ⟨addr, f.lo, f.w, f.rst, f.fused⟩

end Sys2Proof.Machine
end

