-- ==== Sys2Proof/Machine/State.lean ====
section
/-! DEFINITION. The state of the part, as plain data: the register file, the memories with their error marks, the
queues, the engine groups and stream units, the key spool, the control cores, the rings, the jobs, the fabric, the
release gate, the security processor, the package, and the queue of commands that wait. -/

namespace Sys2Proof.Machine

/-- The reasons the model stops with a fault: there are none. A block takes every command (each one that the part turns
away changes its state as the rules say), so no command stops it. -/
inductive Fault where
  deriving DecidableEq, Repr

/-- The reasons the model refuses a command. -/
inductive Refusal where
  /-- The command's meaning has not been written. Raised by `exec`'s arms alone; safe. -/
  | notModelled (mnemonic : String)
  deriving DecidableEq, Repr

/-- A queue entry (R266): 2,048 bytes of operand data or a descriptor token, with its tags. `owners` are the handles
that the output descriptor of the operation that pushed it names (R183). -/
structure QEntry where
  bytes : List Byte
  token : Bool := false
  dataT : Bool := false
  ct : Bool := false
  void : Bool := false
  owners : List Nat := []
  deriving DecidableEq, Repr

/-- An operation that OPM or OPF has issued, as captured when it retired (R185): ticket, whether fine, the operation
word, the parameter block (macro level) and the GEMM block, the SCALAR and LIMBVEC values of its second and third
operand, the epochs latched for its core (R188), its site and its core, and its place in the order in which the groups of
its die were issued to (R126). -/
structure Issued where
  ticket : Nat
  fine : Bool
  word : Nat
  pblock : List Byte
  gblock : List Byte
  k1 : List Nat
  k2 : List Nat
  epochs : List Nat
  site : Nat
  core : Nat
  seq : Nat := 0
  deriving DecidableEq, Repr

/-- One descriptor that a running operation will commit: its slot reference, the 64 bytes, the number of the
output queue its entries leave by, and what a watch of the site observes (R74): whether it carries data, and the drift
and the skew in 8.8. -/
structure Commit where
  ref : Nat
  desc : List Byte
  out : Nat
  seen : Bool
  drift : Nat
  skew : Nat
  deriving DecidableEq, Repr

/-- The operation a group is executing after its data has been computed: what is left is to push its output entries,
to commit its descriptors (R182) and to complete. `aux` are the staging, partial-sum and statistics handles it wrote;
`wrote` whether it has made its first write (R109); `full` its output entries, which a restart pushes again, and `took` the
entries that each operand took (R108); `sealing` the statistics buffer that its completion seals, with the site (R105);
`auxData` the bytes of its partial sums and statistics by handle and offset, which a restart initialises again (R108). -/
structure Running where
  op : Issued
  code : Nat
  void : Bool
  commits : List Commit
  aux : List Nat
  poisoned : Bool
  committed : Bool
  wrote : Bool := false
  full : List (List QEntry) := []
  took : List Nat := []
  auxData : List (Nat × Nat × List Byte) := []
  sealing : Option (Nat × Nat) := none
  deriving DecidableEq, Repr

/-- An engine group of a die (R176): its operation FIFO, the next ticket (R186), the status words of its last 64
completed operations, the entries popped for the operation at the head by operand, the output entries not yet pushed,
and the operation that waits for its pushes and commits; `issued` counts the records of the issue list consumed (R226),
`retries` the consecutive fetch errors of the operation at the head (R108), `redo` what the operation at the head had
computed before it was restarted (R108: the same bits), and `at_` since when, on the die's counter, the operation at the
head has waited for what it needs next (R277). -/
structure Group where
  fifo : List Issued := []
  nextTicket : Nat := 1
  hist : List (Nat × Nat) := []
  inb : List (List QEntry) := [[], [], []]
  outb : List (List QEntry) := [[], []]
  cur : Option Running := none
  issued : Nat := 0
  retries : Nat := 0
  redo : Option Running := none
  at_ : Nat := 0
  deriving DecidableEq, Repr

/-- A stream unit of a die (R201–R206): the programs started and not yet at the head, the record of the program at
the head with the number of transfers made, the byte offsets fed to it, the bytes read and not yet formed into an
entry with the tags they carry, the entries ready to push or popped to be written, the bytes of the first popped entry
already written, the number of SUSTART instructions taken in this job, the code of the last fault, the bytes landed, the
fed offsets that the program at the head has used (R206), since when, on the die's counter, it has waited (R277), and the
layer barriers that its group's owner has passed in this job (R481). -/
structure SUnit where
  waiting : List Nat := []
  prog : Option (Nat × List Byte) := none
  made : Nat := 0
  feeds : List Nat := []
  rest : List Byte := []
  restData : Bool := false
  restCt : Bool := false
  ents : List QEntry := []
  used : Nat := 0
  starts : Nat := 0
  failed : Nat := 0
  landed : Nat := 0
  fed : List Nat := []
  at_ : Nat := 0
  layers : Nat := 0
  deriving DecidableEq, Repr

/-- An entry of a die's transaction table (R192): the descriptors of the opener's DIN0 and DIN1, the ciphertext
descriptors that its operations have read, each once (R355), whether every other operand so far is an image constant
(row 5 of R355), whether a fault has made the rest of it void (R480), the POISON flags it has collected, an AUT's
Galois element (R117; 0 for none), whether a key-switch inner product has run in it, and the SPECIAL of its working rows
(R39, R40). -/
structure Txn where
  desc0 : List Byte
  desc1 : List Byte
  ins : List (List Byte)
  constOnly : Bool
  voided : Bool
  flags : Nat
  g : Nat
  ksip : Bool := false
  special : Nat := 0
  deriving DecidableEq, Repr

/-- A b-half row that the key spool holds ahead of its consumer (R149): the index of its key-order entry, its bytes, and
whether they could not be corrected. -/
structure DillRow where
  entry : Nat
  bytes : List Byte
  ue : Bool
  deriving DecidableEq, Repr

/-- A streaming context of the key spool (Dill): whether it serves its next entry, the snapshot of the header slots (R145),
the key rows of that entry in the buffer (both halves counted) and the b-halves among them in order, the rows of the entry
fetched so far, the b-halves fetched for later entries (R149), whether a UE was met in the headers, the slot of the
first one, and since when, on the die's counter, it has waited (R153). -/
structure DillCtx where
  active : Bool := false
  snap : List (List Byte) := []
  buffered : Nat := 0
  fetched : Nat := 0
  rows : List DillRow := []
  ahead : List DillRow := []
  ueSeen : Bool := false
  ueSlot : Nat := 0
  at_ : Nat := 0
  deriving DecidableEq, Repr

/-- A write that has been issued and has not landed (R281): its initiator and write channel (R282), the die, handle
and offset it goes to, its bytes, whether it is sealed, its number in issue order, and when it was issued, on the counter
of the die that it goes to. -/
structure Flight where
  mid : Nat
  chan : Nat
  handle : Nat
  off : Nat
  bytes : List Byte
  isSealed : Bool
  seq : Nat
  at_ : Nat := 0
  deriving DecidableEq, Repr

/-- A copy that the copy unit of a die holds (R251, R254): its slot reference, the committing core, the pair of
descriptors, the elements moved so far, the code of a fault met, and since when, on the die's counter, it has waited. -/
structure CopyJob where
  ref : Nat
  mid : Nat
  dst : List Byte
  src : List Byte
  done : Nat := 0
  fault : Nat := 0
  at_ : Nat := 0
  deriving DecidableEq, Repr

/-- A Chive core (R208): the x registers, the pc, private data memory, the two instruction banks, the segment that is
active and whether the next one is loaded, what the core waits at, and since when, on the die's counter; `resv` is the
reservation of a load-reserve in private data memory, address and width, and `memErr` that an uncorrectable error stands in
the core's memory (R211). -/
structure Core where
  x : Vector Word64 32 := Vector.replicate 32 0
  pc : Nat := 0x40000
  dmem : NMap Byte := []
  bank0 : List Byte := []
  bank1 : List Byte := []
  seg : Nat := 0
  segReady : Bool := false
  atBoundary : Bool := false
  ended : Bool := false
  debugHalt : Bool := false
  atBarrier : Option Nat := none
  suStart : Nat := 0
  staging : List Byte := []
  stageRef : Option Nat := none
  remote : Vector Word64 8 := Vector.replicate 8 0
  epochs : List Nat := []
  at_ : Nat := 0
  resv : Option (Nat × Nat) := none
  memErr : Bool := false
  deriving DecidableEq, Repr

/-- What the pace monitor and the power manager keep for a die (R405–R420): when the last counted calibration ended and
the replica rate over it, whether one has been tried, the gap items reserved (0 a calibration, 1 a self-test, 2 to 7 the
entry checks of Basil, Mint 0, Mint 1, Parsley, Dill and Tarragon), each with the job admitted next, the pending request
(0 none, 1 a calibration, 2 a self-test), the units a pending self-test has checked and the units asleep (bits 0 to 5 in that order), since when the
pace has been below 1,260 and 1,200, the last junction reading and the plausible readings still needed (R416), since
when the junction has been hot or cool, and the caps that heat, power and the management cores call for. -/
structure PaceSt where
  lastCal : Option Nat := none
  tried : Bool := false
  rate : Nat := 0
  gaps : NMap Nat := []
  pend : Nat := 0
  tested : Nat := 0
  asleep : Nat := 0
  lowAt : Option Nat := none
  belowAt : Option Nat := none
  prev : Option Int := none
  held : Nat := 0
  hotAt : Option Nat := none
  coolAt : Option Nat := none
  heatCap : Nat := 2000
  powCap : Nat := 2000
  setCap : Nat := 2000
  deriving DecidableEq, Repr

/-- A compute die with its scratch die and memory stacks. `spadErr` and `stackErr` mark rows and sectors that hold an
error (1 correctable, 2 uncorrectable); `spadChk` holds the check bits that the test window stored; `dirty`,
`scrubbing` are bank masks; `ceTimes` holds when ECC_CE was last raised for a bank or (64 +) a channel; `statProd` holds, for a
statistics buffer, the site, INVK and EPS of its last producer (R104); `lastMode` the mode and configuration of Basil's
last operation; `activeLost` the free values that the active stationary register holds since a change of either (R83), and
`idleLost` those that the idle one holds since it was exchanged for such a register; `limbStores` Mint's four limb stores by unit and store (R115); `issueSeq` the issues made (R126); `headAt` since when each
queue's head entry has been its head (R277); `tg` the traffic generator request under way: channel mask, pattern, first slot and
slots (R300); `leftover` that a fine-level group's queue held entries at a layer barrier of this job (R229). -/
structure Die where
  time : Nat := 0
  spad : NMap Byte := []
  spadErr : NMap Nat := []
  spadChk : NMap Nat := []
  dirty : Nat := 0
  scrubbing : Nat := 0
  stack : NMap Byte := []
  stackErr : NMap Nat := []
  ueSectors : List Nat := []
  ceTimes : NMap Nat := []
  evWindow : Nat := 0
  evCount : Nat := 0
  queues : NMap (List QEntry) := []
  headAt : NMap Nat := []
  tiles : NMap (List Word32) := []
  tileScales : NMap (List Byte) := []
  statActive : NMap (List Word32) := []
  statIdle : NMap (List Word32) := []
  exchange : Bool := false
  groups : Vector Group 4 := Vector.replicate 4 {}
  sunits : Vector SUnit 16 := Vector.replicate 16 {}
  txns : NMap Txn := []
  dill : Vector DillCtx 2 := Vector.replicate 2 {}
  cores : Vector Core 8 := Vector.replicate 8 {}
  copies : List CopyJob := []
  stackRep : NMap Int := []
  stackRun : NMap Nat := []
  statProd : NMap (Nat × Nat × Nat) := []
  lastMode : Option (Nat × Nat) := none
  activeLost : Option Nat := none
  idleLost : Option Nat := none
  limbStores : NMap (List Word32) := []
  issueSeq : Nat := 0
  tg : Option (Nat × Nat × Nat × Nat) := none
  leftover : Bool := false
  pace : PaceSt := {}
  deriving DecidableEq, Repr

/-- The accumulators of a watched site (R73, R74): the site, its kind (1 OPEN tensor, 2 ciphertext) and its fields by
number as its watch record lays them out, with the crossings already raised. -/
structure Watch where
  site : Nat
  kind : Nat
  fields : List Int
  crossed : Bool
  deriving DecidableEq, Repr

/-- The steps of a job's life (R235): admitted and waiting for its dies; configured and running; ending early under
R237; ended. -/
inductive Phase where
  | waiting | running | ended
  deriving DecidableEq, Repr

/-- An admitted job: its number, ring, tag, the ring's head after its entry was read, its image slot and digest, the
physical die of each logical die, its times (doorbell, computed finish and deadline on the hub counter, 0 for no
deadline), its seed, its inputs (descriptor reference, declaration index, key set) and the handles they name, the host
addresses it names, the completion ring that its entry reserved room on (64 for none; R314), its phase, the cores that have ended (bit 8 d + c), its event records, its marks, the descriptors
it has committed by slot, its watches, its input digests, the digest of its keys, what it has already raised, and its
replay links. -/
structure Job where
  id : Nat
  ring : Nat
  tag : Nat
  sqHead : Nat
  slot : Nat
  digest : List Byte
  dieMap : List Nat
  tDoor : Nat
  finish : Nat
  deadline : Nat
  seed : List Byte
  inputs : List (Nat × Nat × Nat)
  handles : List Nat
  watchAddr : Nat
  watchLen : Nat
  recAddr : Nat
  phase : Phase := .waiting
  coresEnded : Nat := 0
  events : List (List Byte) := []
  evLost : Nat := 0
  missed : Bool := false
  poisoned : Bool := false
  captured : Bool := false
  replayOf : Nat := 0
  outs : NMap (List Byte) := []
  watches : List Watch := []
  idigs : List (List Byte) := []
  keydig : List Byte := []
  tornSeen : List Nat := []
  closedRaised : List Nat := []
  poisonSeen : Bool := false
  cq : Nat := 0
  deriving DecidableEq, Repr

/-- A capture held in the replay reserve (R461): the job, what its record says of image, seed and inputs, the captured
descriptors with the bytes of their buffers, the input digests, the digest of the outputs, and the bytes it takes. -/
structure Capture where
  job : Nat
  digest : List Byte
  seed : List Byte
  inputs : List (Nat × Nat × Nat)
  objs : List (List Byte × List (List Byte))
  idigs : List (List Byte)
  odigest : List Byte
  size : Nat
  deriving DecidableEq, Repr

/-- A load whose image has landed and which the verifier has not judged (R234): slot, ring, tag, the ring's head after
the entry was read, the image, and the completion ring that the entry reserved room on (64 for none; R314). -/
structure Landing where
  slot : Nat
  ring : Nat
  tag : Nat
  sqHead : Nat
  image : List Byte
  cq : Nat := 0
  deriving DecidableEq, Repr

/-- What an SPDM request is answered with (R382, R383): the fields that the manual gives each response. -/
inductive SpdmAnswer where
  | version (vs : List Nat)
  | capabilities (sessions : Nat)
  | algorithms
  | digests (slots : List (Nat × List Byte))
  | certificate (portion : List Byte) (remainder : Nat)
  | challenge (certHash nonce sig : List Byte)
  | measurements (blocks : List (Nat × List Byte)) (nonce sig : List Byte)
  | keyExchange (session : Nat) (random exchange sig : List Byte)
  | finish
  | heartbeat
  | keyUpdate
  | endSession
  | error (code : Nat)
  deriving DecidableEq, Repr

/-- What the part last answered to a requester outside it: nothing, data, Unsupported Request, Completer Abort, or no
acknowledgement on the SMBus; an SPDM response; the time of the earliest schedule gap, to a deferred request (R300). -/
inductive Answer where
  | none
  | data (bytes : List Byte)
  | unsupported
  | completerAbort
  | nack
  | spdm (r : SpdmAnswer)
  | earliest (t : Nat)
  deriving DecidableEq, Repr

/-- A lineage record (R349). -/
structure LinRec where
  cls : Nat := 0
  mstate : Nat := 0
  released : Bool := false
  relcount : Nat := 0
  mslot : Nat := 0
  floor : Nat := 0
  link : Nat := 0
  job : Nat := 0
  chain : List Byte := List.replicate 16 0
  deriving DecidableEq, Repr

/-- What Sage keeps for a manifest of a running job (R357): the job, the slot, the record of R356, LAST, COUNT by lane,
OPEN, BROKEN, and whether its closing site has been reached. -/
structure Manifest where
  job : Nat
  mslot : Nat
  mno : Nat
  gm1 : Nat
  nleaf : Nat
  close : Nat
  sums : List Nat
  last : Nat := 0
  counts : NMap Nat := []
  opens : Nat := 0
  broken : Bool := false
  closed : Bool := false
  deriving DecidableEq, Repr

/-- The threshold key share that is sealed (R358, R386): epoch, key set, chain, ring dimension, limbs, the policy
authority's modulus (DEDUCED, log 81), the smudging seed and the share's residues. -/
structure Share where
  epoch : Nat
  keyset : Nat
  chain : Nat
  logn : Nat
  limbs : Nat
  policy : List Byte
  seed : List Byte
  body : List Byte
  deriving DecidableEq, Repr

/-- The allowlist in force (R359). -/
structure Allow where
  epoch : Nat
  seq : Nat
  kmin : Nat
  budget : Nat
  relmax : Nat
  smudge : Nat
  head : Nat
  keyset : Nat
  peerhash : List Byte
  entries : List (List Byte)
  deriving DecidableEq, Repr

/-- A sign-probe ticket (R172, R367): its number, its epoch, the source records of the members released under it, their
key set and chain, and whether its one reply has been admitted. -/
structure Ticket where
  num : Nat
  epoch : Nat
  sources : List LinRec
  keyset : Nat
  chain : Nat
  used : Bool
  deriving DecidableEq, Repr

/-- The release gate (R348–R367). -/
structure Sage where
  records : NMap LinRec := []
  manifests : List Manifest := []
  failed : List Nat := []
  share : Option Share := none
  allow : Option Allow := none
  tickets : List Ticket := []
  nextTicket : Nat := 1
  deriving DecidableEq, Repr

/-- A frame that a connection's sender holds until an ACK covers it (R336): its PSN, its header and payload with SPORT
zero, the times it has been sent, and the hub time and port of the last sending. -/
structure TxFrame where
  psn : Nat
  body : List Byte
  sends : Nat
  at_ : Nat
  port : Nat
  deriving DecidableEq, Repr

/-- A connection with a peer in both directions (R335, R336): the next PSN to send, the frames not yet acknowledged,
the frames held while the connection is renewed (R395), the PSN up to which every frame has been received, those
received beyond it, the frames received since the last ACK with the time of the first, the last 64 atomic replies by
PSN, the ENTRY frames that wait for their turn, the peer's port that is next, and the WSEQs landed for each core and
Acxia channel of the peer (the next one expected and those beyond it). -/
structure Conn where
  epid : Nat
  txPsn : Nat := 0
  unacked : List TxFrame := []
  heldTx : List (List Byte) := []
  rxCum : Nat := 0
  rxSeen : List Nat := []
  ackCnt : Nat := 0
  ackAt : Nat := 0
  replies : List (Nat × List Byte) := []
  early : List (Nat × List Byte) := []
  peerTurn : Nat := 0
  landed : NMap (Nat × List Nat) := []
  deriving DecidableEq, Repr

/-- A sealed WRITE that has arrived and is held (R344), and since when, on the counter of its handle's die. -/
structure HeldWrite where
  epid : Nat
  port : Nat
  smid : Nat
  ach : Nat
  wseq : Nat
  handle : Nat
  off : Nat
  bytes : List Byte
  at_ : Nat := 0
  deriving DecidableEq, Repr

/-- What the part keeps for a receive binding (R338–R340): the job and physical die it serves, the credit it has
granted and not yet received entries for, the CT-tagged entries that the last token still covers, and whether its end
is closed. -/
structure RxBind where
  job : Nat
  die : Nat
  credit : Nat := 0
  cover : Nat := 0
  closed : Bool := false
  deriving DecidableEq, Repr

/-- A member of a fabric channel as its sender sees it (R340, R341): die and entry of the channel table, the endpoint,
the credit held and whether the member has closed. -/
structure TxMem where
  die : Nat
  ch : Nat
  epid : Nat
  credit : Nat := 0
  closed : Bool := false
  deriving DecidableEq, Repr

/-- A remote request that a core has posted and that has not completed (R342): die, core, the 64 bytes, whether its
frame has been sent, the number it carries (WSEQ or request number), and when it was posted, on the die's counter. -/
structure Post where
  die : Nat
  core : Nat
  rec' : List Byte
  sent : Bool := false
  num : Nat := 0
  at_ : Nat := 0
  deriving DecidableEq, Repr

/-- A KEYX exchange under way with a peer (R394): whether this part sent the INIT, the ephemeral secret, the payloads
sent and received so far, and the sends of the INIT with the time of the last. -/
structure Keyx where
  epid : Nat
  initiator : Bool
  secret : Nat
  init : List Byte
  resp : List Byte := []
  sends : Nat := 1
  at_ : Nat := 0
  deriving DecidableEq, Repr

/-- The fabric (R327–R347). `wire` are the frames that the ports have sent, oldest first, each with its port; `wseq`
the next write number of each core, destination and Acxia channel (R344); `keys` the session keys by the security
processor's slot (R394); `dropAt` when FAB_FRAME_DROP was last raised for a cause. -/
structure Fab where
  conns : List Conn := []
  nextPort : Nat := 0
  mems : List TxMem := []
  binds : NMap RxBind := []
  posts : List Post := []
  wseq : NMap Nat := []
  reqNo : Nat := 0
  held : List HeldWrite := []
  dropAt : NMap Nat := []
  keys : NMap (List Byte) := []
  keyx : List Keyx := []
  wire : List (Nat × List Byte) := []
  deriving DecidableEq, Repr

/-- An SPDM session (R382): its number, whether FINISH has completed it, its secret, and the updates of its requester's
and responder's keys. -/
structure Session where
  id : Nat
  done : Bool := false
  secret : List Byte := []
  reqKeys : Nat := 0
  rspKeys : Nat := 0
  deriving DecidableEq, Repr

/-- The SPI flash (R374): the signing public keys of the directory, slots A and B of the security firmware and of the
two Drazhaest images, the installation configuration, the number of the keys in the identity store with the MEAS1 that
they are wrapped under, and the sealed share. -/
structure Flash where
  dir : List (List Byte) := []
  sp : List (List Byte) := [[], []]
  hub : List (List Byte) := [[], []]
  sup : List (List Byte) := [[], []]
  config : List Byte := []
  keyNo : Nat := 0
  wrapped : List Byte := []
  share : Option Share := none
  deriving DecidableEq, Repr

/-- The security processor (R369–R400): the counter store, the OWNER fuse (empty while blank), the revoke bits of the
VKEY slots, the flash, the installation configuration applied, the SVN of the Drazhaest image that runs, the
certificate cache, the nonce of a service challenge with the failures since RESET_N, and the SPDM responder's version,
state (capabilities given, algorithms agreed) and sessions. -/
structure Sec where
  epoch : Nat := 0
  spent : Nat := 0
  allowSeq : Nat := 0
  owner : List Byte := []
  revoked : Nat := 0
  flash : Flash := {}
  inst : Option Config.Inst := none
  svnDz : Nat := 0
  certs : List (List Byte) := []
  nonce : Option (List Byte) := none
  tries : Nat := 0
  version : Nat := 0
  caps : Bool := false
  algs : Bool := false
  sessions : List Session := []
  tapIr : Nat := 0
  tapBits : List Byte := []
  deriving DecidableEq, Repr

/-- The package (R422–R447): the levels of VIN52, PWRGOOD and RESET_N, whether the rails are up, whether THERMTRIP_N is
driven low, PD0's latch (cause, power die, die), the hub time of the release of RESET_N, since when the input power has
been above its limit and 5% below it and when a cap last moved for it, since when admission has had no cause to stop,
the input-voltage band that VIN is in (1 low, 2 high), since when the two voltage readings have differed and whether
that has been raised, the conditions
that hold for the causes of PKG_ALERT, whether PWRGOOD has risen and the rails are coming up, and when TCK last toggled. -/
structure Power where
  vin52 : Bool := true
  pwrgood : Bool := true
  resetn : Bool := false
  on : Bool := true
  trip : Bool := false
  latch : Nat × Nat × Nat := (0, 0, 0)
  releaseAt : Nat := 0
  overAt : Option Nat := none
  underAt : Option Nat := none
  stepAt : Nat := 0
  clearAt : Option Nat := none
  band : Nat := 0
  diffAt : Option Nat := none
  vinBad : Bool := false
  conds : Nat := 0
  rising : Bool := false
  tapAt : Option Nat := none
  deriving DecidableEq, Repr

/-- The PCIe function (R305, R306): whether it is in D3hot, the GiB that BAR4 decodes (0 for disabled), and whether its AER
status holds an Unsupported Request and a Completer Abort that it gave as a completer. What it holds after reset: logs 151
and 167. -/
structure Pcie where
  d3hot : Bool := false
  bar4 : Nat := 64
  ur : Bool := false
  ca : Bool := false
  deriving DecidableEq, Repr

/-- The whole part. `regs` is the register file: the value of every field of `regTable` that differs from what the
part came out of reset with, by `Fld.key`; `fuses` holds the fused, strapped and latched values; `chanBad` the channels
whose start-up check fails (R302: the model's own field, which no command writes; log 161); `time` is the hub
interval counter in ns; `hostMem` is what the part has written to host memory; `msix` the vectors sent and `irqs` the
mailbox interrupts given to on-die initiators, oldest first; `free` is the model's own counter for free values; and
`pending` is the queue of commands that wait, first in, first out. -/
structure State where
  regs : NMap Nat
  fuses : NMap Nat
  time : Nat
  dies : Vector Die 8
  hostMem : NMap Byte
  answer : Answer
  msix : List Nat
  irqs : List Nat
  sqTimes : NMap (List Nat)
  nextRing : Nat
  shadowSeen : NMap Nat
  coal : NMap (Nat × Nat)
  mbxStage : NMap Byte
  mbxSlot : NMap Byte
  jobs : List Job
  nextJob : Nat
  images : NMap (List Byte)
  slotDies : NMap (List Nat)
  slotBufs : NMap (List (Nat × Nat))
  landings : List Landing
  chains : NMap (List Byte)
  pendSlots : List (Nat × Nat × Nat × Nat)
  badSlots : List Nat
  flights : List Flight
  flightSeq : Nat
  mapOut : List (Nat × Nat)
  chanBad : List (Nat × Nat)
  hubEvWindow : Nat
  hubEvCount : Nat
  staleDue : List (Nat × Nat)
  poll : Nat
  sage : Sage
  captures : List Capture
  keyBodies : NMap (Nat × List Byte)
  probeMask : NMap (Nat × Nat × Nat)
  fab : Fab
  sec : Sec
  power : Power
  pcie : Pcie
  free : Nat
  pending : List Instr
  deriving DecidableEq, Repr

/-- R290, R455: the dies in service at the last reset, whose channels make the part-wide space: latched with the fuses, no
register. -/
def R.PART_DIES : Fld := ⟨0xFFFF_FF00, 0, 8, 0, true⟩

/-- The fused values of a full TLB-8D at stepping A1 (DESIGN CHOICE, log 1): every die, unit, lane, bank, channel and
port present and in service, SVN floor 0, SMBus strap 0x58, no recorded shutdown cause. -/
def fuses8D : NMap Nat :=
  let put (m : NMap Nat) (p : Fld × Nat) := mapPut m p.1.key p.2
  let hub : List (Fld × Nat) := [
    (R.CAPS_PART, 1), (R.CAPS_STEPPING, 1), (R.CAPS_DIE_PRESENT, 0xFF), (R.CAPS_DIE_INSERV, 0xFF), (R.PART_DIES, 0xFF),
    (R.CAPS_PD_PRESENT, 0x3F), (R.CAPS_DEGRADED, 0), (R.HIF_CAPS_APERTURE, 1), (R.FAB_CAPS_PORTS, 0xFF),
    (R.SEC_SVN_FLOOR, 0), (R.PWR_CAPS_P_MAX, 3000), (R.PWR_CAPS_P_FLOOR, 2400), (R.PWR_LIMIT_LIMIT, 3000),
    (R.PKG_CAPS_PD_COUNT, 6), (R.PKG_CAPS_DOMAINS, 25), (R.PKG_CAPS_SMB_ADDR, 0x58), (R.PKG_LASTOFF_CAUSE, 0),
    (R.PKG_LASTOFF_PD, 0), (R.PKG_LASTOFF_DIE, 0)]
  let die (d : Nat) : List (Fld × Nat) := [
    (R.BASIL_CAPS_PRESENT d, 1), (R.BASIL_CAPS_F16 d, 1), (R.BASIL_CAPS_F8 d, 1), (R.BASIL_CAPS_F4 d, 1),
    (R.MINT_CAPS_PRESENT0 d, 1), (R.MINT_CAPS_PRESENT1 d, 1), (R.PARS_CAPS_PRESENT d, 1), (R.PARS_CAPS_FP32 d, 1),
    (R.PARS_CAPS_BF16 d, 1), (R.DILL_CAPS_PRESENT d, 1), (R.TARR_CAPS_PRESENT d, 1), (R.TARR_CAPS_LANES d, 0x40),
    (R.STRM_CAPS_GROUPS d, 0xF), (R.CHIVE_CAPS_PRESENT d, 0xFF), (R.SPAD_BANKS_INSERV d, 2 ^ 64 - 1),
    (R.MEM_CAPS_STACKS d, 3), (R.MEM_CHMAP_INSERV d, 2 ^ 32 - 1), (R.MEM_CHMAP_COUNT d, 32)]
  (hub ++ (List.range 8).flatMap die).foldl put []

/-- R14, R441: the part right after power-up and RESET_N held: every register at its reset value, every memory
clear, every scratchpad bank in its reset scrub (R259), no command waiting. -/
def State.reset : State where
  regs := []
  fuses := fuses8D
  time := 0
  dies := Vector.replicate 8 { scrubbing := 2 ^ 64 - 1 }
  hostMem := []
  answer := .none
  msix := []
  irqs := []
  sqTimes := []
  nextRing := 0
  shadowSeen := []
  coal := []
  mbxStage := []
  mbxSlot := []
  jobs := []
  nextJob := 1
  images := []
  slotDies := []
  slotBufs := []
  landings := []
  chains := []
  pendSlots := []
  badSlots := []
  flights := []
  flightSeq := 0
  mapOut := []
  chanBad := []
  hubEvWindow := 0
  hubEvCount := 0
  staleDue := []
  poll := 0
  sage := {}
  captures := []
  keyBodies := []
  probeMask := []
  fab := {}
  sec := {}
  power := {}
  pcie := {}
  free := 0
  pending := []

end Sys2Proof.Machine
end

