-- ==== Sys2Proof/Machine/Ops.lean ====
section
/-! DEFINITION. The shared operations over registers, dies, handles, memory and events. Every other file of the
machine reads and changes the state through these. -/

namespace Sys2Proof.Machine

/-! ### Registers and dies -/

/-- What a register field stands at: what was last put there, else its reset value (R14). -/
def State.raw (s : State) (f : Fld) : Nat :=
  match mapFind s.regs f.key with
  | some v => v
  | none => if f.fused then mapGet 0 s.fuses f.key else f.rst

/-- The value a register field holds, of the field's width. -/
def State.rd (s : State) (f : Fld) : Nat := s.raw f % 2 ^ f.w

/-- The state with a register field set; the value is cut to the field's width. -/
def State.wr (s : State) (f : Fld) (v : Nat) : State :=
  { s with regs := mapPut s.regs f.key (v % 2 ^ f.w) }

/-- A one-bit field read as a Boolean. -/
def State.on (s : State) (f : Fld) : Bool := s.rd f != 0

/-- A counter that wraps at its field's width, advanced. -/
def State.inc (s : State) (f : Fld) (n : Nat) : State := s.wr f (s.rd f + n)

/-- A counter that saturates at its field's width, advanced. -/
def State.sat (s : State) (f : Fld) (n : Nat) : State := s.wr f (satAdd f.w (s.rd f) n)

/-- A die's own state. -/
def State.die (s : State) (d : Nat) : Die := (s.dies[d]?).getD {}

/-- The state with a die changed. -/
def State.updDie (s : State) (d : Nat) (f : Die → Die) : State :=
  { s with dies := s.dies.setIfInBounds d (f (s.die d)) }

/-- A group of a die. -/
def Die.group (x : Die) (g : Nat) : Group := (x.groups[g]?).getD {}

/-- The die with a group changed. -/
def Die.updGroup (x : Die) (g : Nat) (f : Group → Group) : Die :=
  { x with groups := x.groups.setIfInBounds g (f (x.group g)) }

/-- A stream unit of a die. -/
def Die.sunit (x : Die) (u : Nat) : SUnit := (x.sunits[u]?).getD {}

/-- The die with a stream unit changed. -/
def Die.updSunit (x : Die) (u : Nat) (f : SUnit → SUnit) : Die :=
  { x with sunits := x.sunits.setIfInBounds u (f (x.sunit u)) }

/-- A core of a die. -/
def Die.core (x : Die) (c : Nat) : Core := (x.cores[c]?).getD {}

/-- The die with a core changed. -/
def Die.updCore (x : Die) (c : Nat) (f : Core → Core) : Die :=
  { x with cores := x.cores.setIfInBounds c (f (x.core c)) }

/-- The state with a group of a die changed. -/
def State.updGroup (s : State) (d g : Nat) (f : Group → Group) : State := s.updDie d fun x => x.updGroup g f

/-- The state with a stream unit of a die changed. -/
def State.updSunit (s : State) (d u : Nat) (f : SUnit → SUnit) : State := s.updDie d fun x => x.updSunit u f

/-- The state with a core of a die changed. -/
def State.updCore (s : State) (d c : Nat) (f : Core → Core) : State := s.updDie d fun x => x.updCore c f

/-- R466, R455: a compute die is in service, with its rails up. -/
def State.inServ (s : State) (d : Nat) : Bool := d < 8 && s.power.on && bitOf (s.rd R.CAPS_DIE_INSERV) d

/-- R466: a compute die is present in the package, with its rails up. -/
def State.present (s : State) (d : Nat) : Bool := d < 8 && s.power.on && bitOf (s.rd R.CAPS_DIE_PRESENT) d

/-- The physical dies in service, ascending (R223). -/
def State.diesInServ (s : State) : List Nat := (List.range 8).filter s.inServ

/-- R290, R455: the dies of the part-wide space, those in service at the last reset: a die that has left service since keeps
its channels there until the next (R303). -/
def State.partDies (s : State) : List Nat := (List.range 8).filter fun d => s.power.on && bitOf (s.rd R.PART_DIES) d

/-- The next use of the model's counter of free values. -/
def State.fresh (s : State) : Nat × State := (s.free, { s with free := s.free + 1 })

/-- R16: the MID of a Chive core. -/
def coreMid (d c : Nat) : Nat := 0x010 + 8 * d + c

/-- R16: the MIDs 0x001 to 0x003. -/
def isMgmt (mid : Nat) : Bool := 1 ≤ mid && mid ≤ 3

/-! ### Events (R449–R452) -/

/-- The event codes of R452. -/
abbrev Ev.RANGE : Nat := 0x0101
abbrev Ev.SHAPE_MISMATCH : Nat := 0x0102
abbrev Ev.LEVEL_EXHAUSTED : Nat := 0x0103
abbrev Ev.NOISE_BOUND : Nat := 0x0104
abbrev Ev.POISON_IN : Nat := 0x0105
abbrev Ev.WATCH_LIMIT : Nat := 0x0106
abbrev Ev.STALE_UNIT : Nat := 0x0107
abbrev Ev.CORE_TRAP : Nat := 0x0108
abbrev Ev.UNIT_OUT : Nat := 0x0109
abbrev Ev.REPLAY_DIVERGED : Nat := 0x010A
abbrev Ev.KEYSET_MISMATCH : Nat := 0x0201
abbrev Ev.PEER_CLOSED : Nat := 0x0301
abbrev Ev.STALL : Nat := 0x0302
abbrev Ev.BRIDGE_FAIL : Nat := 0x0303
abbrev Ev.ABORT_LATE : Nat := 0x0304
abbrev Ev.ECC_CE : Nat := 0x0401
abbrev Ev.ECC_UE : Nat := 0x0402
abbrev Ev.TORN : Nat := 0x0403
abbrev Ev.ALIGN : Nat := 0x0404
abbrev Ev.OVERLAP : Nat := 0x0405
abbrev Ev.IMEM_ACTIVE : Nat := 0x0406
abbrev Ev.MEM_SENSOR : Nat := 0x0407
abbrev Ev.MEM_THROTTLE : Nat := 0x0408
abbrev Ev.CHANNEL_MAPOUT : Nat := 0x0409
abbrev Ev.RPL_FULL : Nat := 0x040A
abbrev Ev.FAB_LANE_DEGRADED : Nat := 0x0501
abbrev Ev.FAB_LINK_DOWN : Nat := 0x0502
abbrev Ev.FAB_PEER_LOST : Nat := 0x0503
abbrev Ev.FAB_FRAME_DROP : Nat := 0x0504
abbrev Ev.FAB_LINEAGE : Nat := 0x0505
abbrev Ev.GATE_REFUSED : Nat := 0x0601
abbrev Ev.LINEAGE_FULL : Nat := 0x0602
abbrev Ev.LINEAGE_MANIFEST : Nat := 0x0603
abbrev Ev.SIG_BAD : Nat := 0x0604
abbrev Ev.CERT_BAD : Nat := 0x0605
abbrev Ev.DIGEST_BAD : Nat := 0x0606
abbrev Ev.TRNG_FAIL : Nat := 0x0607
abbrev Ev.COUNTER_FAIL : Nat := 0x0608
abbrev Ev.LOVAGE_FAULT : Nat := 0x0609
abbrev Ev.BOOT_FALLBACK : Nat := 0x060A
abbrev Ev.PACE_LOW : Nat := 0x0701
abbrev Ev.DEADLINE_AT_RISK : Nat := 0x0702
abbrev Ev.DEADLINE_MISSED : Nat := 0x0703
abbrev Ev.PACE_RESUMED : Nat := 0x0704
abbrev Ev.DEFERRED : Nat := 0x0705
abbrev Ev.ADMIT_BUDGET : Nat := 0x0706
abbrev Ev.ADMIT_LATE : Nat := 0x0707
abbrev Ev.PM_SENSOR : Nat := 0x0708
abbrev Ev.PD_FAULT : Nat := 0x0709
abbrev Ev.VIN_LOW : Nat := 0x070A
abbrev Ev.VIN_HIGH : Nat := 0x070B
abbrev Ev.ISSUE_ORDER : Nat := 0x0820
abbrev Ev.JOB_INVARIANT : Nat := 0x0821

/-- The unit numbers of R449 beyond the end codes of R265. -/
abbrev Unit.HOST : Nat := 0x40
abbrev Unit.FABRIC : Nat := 0x41
abbrev Unit.SECURITY : Nat := 0x42
abbrev Unit.SAGE : Nat := 0x43
abbrev Unit.LOADER : Nat := 0x44
abbrev Unit.POWER : Nat := 0x45
abbrev Unit.MEMORY : Nat := 0x46
abbrev Unit.SPAD : Nat := 0x47
abbrev Unit.BRIDGES : Nat := 0x48
abbrev Unit.NONE : Nat := 0xFF

/-- An event as its raiser gives it: code, die (8 the hub), unit, site, job and detail. -/
structure Event where
  code : Nat
  src : Nat := 8
  unit : Nat := 0xFF
  site : Nat := 0
  job : Nat := 0
  detail : Nat := 0
  deriving DecidableEq, Repr

/-- R11, R403: the interval counter of a die, or of the hub. -/
def State.timeOf (s : State) (src : Nat) : Nat := if src < 8 then (s.die src).time else s.time

/-- R449: the 32 bytes of an event record. -/
def State.eventRecord (s : State) (e : Event) : List Byte :=
  leBytes 2 e.code ++ leBytes 1 e.src ++ leBytes 1 e.unit ++ leBytes 4 e.site ++ leBytes 8 (s.timeOf e.src) ++
    leBytes 8 e.job ++ leBytes 8 e.detail

/-- R321, R469: an MSI-X message on a vector: sent, or left pending while the vector is masked. -/
def State.sendMsix (s : State) (v : Nat) : State :=
  if s.on (R.MSIX_CTL_MASK v) then
    s.wr (R.MSIX_PBA_PEND (v / 64)) (setBit (s.rd (R.MSIX_PBA_PEND (v / 64))) (v % 64))
  else { s with msix := s.msix ++ [v] }

/-- Bytes the part writes to host memory. -/
def State.toHost (s : State) (a : Nat) (bs : List Byte) : State := { s with hostMem := mapPutBytes s.hostMem a bs }

/-- R320: an event record delivered to the host's event ring, or lost when the ring is full. A ring of S entries
holds S − 1 records (DEDUCED, log 3). -/
def State.toEventRing (s : State) (cls : Nat) (rec : List Byte) : State :=
  if s.on R.HIF_CFG_ENABLE && s.on R.HIF_EQ_CFG_EN && bitOf (s.rd R.HIF_EQ_CFG_CLASSMASK) cls then
    let size := 2 ^ s.rd R.HIF_EQ_CFG_LOG2SZ
    let tail := s.rd R.HIF_EQ_STATE_TAIL
    if (tail + 1) % size = s.rd R.HIF_EQ_STATE_HEAD then
      (s.sat R.HIF_EQ_STATE_DROPS 1).wr R.HIF_EQ_STATE_OVF 1
    else
      ((s.toHost (s.rd R.HIF_EQ_BASE_BASE + 32 * tail) rec).wr R.HIF_EQ_STATE_TAIL ((tail + 1) % size)).sendMsix
        (s.rd R.HIF_EQ_CFG_VEC)
  else s

/-- R440: the cause bit of PKG_ALERT that an event sets. -/
def alertBit (code : Nat) : Option Nat :=
  if code = Ev.DEADLINE_AT_RISK then some 1
  else if code = Ev.PD_FAULT then some 2
  else if code = Ev.VIN_LOW then some 3
  else if code = Ev.VIN_HIGH then some 4
  else if code = Ev.PM_SENSOR || code = Ev.MEM_SENSOR then some 5
  else if code = Ev.MEM_THROTTLE then some 6
  else none

/-- The PKG_ALERT cause fields, by number (R440). -/
def alertFld : Nat → Fld
  | 0 => R.PKG_ALERT_HOT
  | 1 => R.PKG_ALERT_AT_RISK
  | 2 => R.PKG_ALERT_PD
  | 3 => R.PKG_ALERT_VLOW
  | 4 => R.PKG_ALERT_VHIGH
  | 5 => R.PKG_ALERT_SENSOR
  | _ => R.PKG_ALERT_MEMTHR

/-- The state with a job changed. -/
def State.updJob (s : State) (id : Nat) (f : Job → Job) : State :=
  { s with jobs := s.jobs.map fun j => if j.id = id then f j else j }

/-- The job with a number. -/
def State.job? (s : State) (id : Nat) : Option Job := s.jobs.find? fun j => j.id = id

/-- R451: the rate limit of a die's records: at most 256 in each 1,000 µs on its counter. A window starts at the
first record after the last window has passed (DESIGN CHOICE, log 4). -/
def State.evAllowed (s : State) (src : Nat) : Bool × State :=
  if src < 8 then
    let x := s.die src
    if x.evWindow + 1000000 ≤ x.time || x.evCount = 0 then
      (true, s.updDie src fun y => { y with evWindow := x.time, evCount := 1 })
    else if x.evCount < 256 then (true, s.updDie src fun y => { y with evCount := x.evCount + 1 })
    else (false, s)
  else
    if s.hubEvWindow + 1000000 ≤ s.time || s.hubEvCount = 0 then
      (true, { s with hubEvWindow := s.time, hubEvCount := 1 })
    else if s.hubEvCount < 256 then (true, { s with hubEvCount := s.hubEvCount + 1 })
    else (false, s)

/-- R449–R451, R320, R440: an event raised: counted and shown in EVT_COUNT and EVT_LAST, its alert cause set, its
record entered in the job's record (up to 64, R451) and delivered to the host, unless the die's rate limit drops it. -/
def State.raise (s : State) (e : Event) : State :=
  let cls := e.code / 256 - 1
  let s1 := ((((s.sat (R.EVT_COUNT_COUNT cls) 1).wr R.EVT_LAST_CODE e.code).wr R.EVT_LAST_SRC e.src).wr
    R.EVT_LAST_UNIT e.unit).wr R.EVT_LAST_SITE e.site
  let s2 := match alertBit e.code with
    | some k => s1.wr (alertFld k) 1
    | none => s1
  let (ok, s3) := s2.evAllowed e.src
  if ok then
    let rec' := s3.eventRecord e
    let s4 := if e.job = 0 then s3 else s3.updJob e.job fun j =>
      if j.events.length < 64 then { j with events := j.events ++ [rec'] } else { j with evLost := satAdd 16 j.evLost 1 }
    s4.toEventRing cls rec'
  else s3.sat R.EVT_DROP_COUNT 1

/-- RANGE raised for a write or request that a rule refuses, by the hub's or a die's unit. -/
def State.raiseRange (s : State) (src unit : Nat) : State := s.raise { code := Ev.RANGE, src := src, unit := unit }

/-! ### Jobs and dies -/

/-- R410, R286: the job that runs on a die. -/
def State.jobOn (s : State) (d : Nat) : Option Job :=
  s.jobs.find? fun j => j.phase == .running && j.dieMap.contains d

/-- The number of the job that runs on a die, 0 for none. -/
def State.jobIdOn (s : State) (d : Nat) : Nat := ((s.jobOn d).map (·.id)).getD 0

/-- A job is admitted and has not ended. -/
def Job.live (j : Job) : Bool := j.phase != .ended

/-- Some admitted job binds a die. -/
def State.dieBound (s : State) (d : Nat) : Bool := s.jobs.any fun j => j.live && j.dieMap.contains d

/-- Some admitted job refers to an image slot. -/
def State.slotInUse (s : State) (k : Nat) : Bool := s.jobs.any fun j => j.live && j.slot = k

/-! ### Handles (R243–R245) -/

/-- R16: the values that name an initiator. -/
def listedMid (m : Nat) : Bool :=
  (1 ≤ m && m ≤ 3) || (0x10 ≤ m && m < 0x50) || (0x100 ≤ m && m < 0x140) || m = 0x200 || (0x300 ≤ m && m < 0x308)

/-- The null handle. -/
abbrev nullHandle : Nat := 0xFFFF

/-- The die of a handle. -/
def hDie (h : Nat) : Nat := bits h 8 3

/-- The index of a handle. -/
def hIdx (h : Nat) : Nat := bits h 0 8

/-- R245: the attribute bits. -/
abbrev Attr.CT : Nat := 0
abbrev Attr.KEY : Nat := 1
abbrev Attr.PROBE : Nat := 2
abbrev Attr.DESC : Nat := 3
abbrev Attr.CONST : Nat := 4
abbrev Attr.CRD : Nat := 5
abbrev Attr.CWR : Nat := 6
abbrev Attr.HOST : Nat := 7

/-- R264, R304: the memory of a handle accepts accesses: the scratchpad of its die, or the controllers that hold its space
(of a part-wide range, those of every die of the space). -/
def State.memEnabled (s : State) (h : Nat) : Bool :=
  match s.rd (R.SPAD_HTAB0_LOC (hDie h) (hIdx h)) with
  | 2 => s.on (R.MEM_CFG_ENABLE (hDie h))
  | 3 => s.partDies.all fun d => s.on (R.MEM_CFG_ENABLE d)
  | _ => s.on (R.SPAD_CFG_ENABLE (hDie h))

/-- R243: a handle that may be presented: bits 15:11 zero, its die in service, its entry valid, its memory enabled (R264,
R304; DEDUCED, log 152: a handle into memory that accepts no accesses is refused as an invalid one is). -/
def State.handleOk (s : State) (h : Nat) : Bool :=
  h < 2048 && s.inServ (hDie h) && s.on (R.SPAD_HTAB0_V (hDie h) (hIdx h)) && s.memEnabled h

def State.hLoc (s : State) (h : Nat) : Nat := s.rd (R.SPAD_HTAB0_LOC (hDie h) (hIdx h))
def State.hAttr (s : State) (h a : Nat) : Bool := bitOf (s.rd (R.SPAD_HTAB0_ATTR (hDie h) (hIdx h))) a
def State.hLen (s : State) (h : Nat) : Nat := s.rd (R.SPAD_HTAB1_LENGTH (hDie h) (hIdx h))
def State.hTorn (s : State) (h : Nat) : Bool := s.on (R.SPAD_HTAB0_TORN (hDie h) (hIdx h))
def State.hStale (s : State) (h : Nat) : Bool := s.on (R.SPAD_HTAB0_STALE (hDie h) (hIdx h))
def State.hBound (s : State) (h : Nat) : Bool := s.on (R.SPAD_HTAB0_BOUND (hDie h) (hIdx h))
def State.setTorn (s : State) (h v : Nat) : State := s.wr (R.SPAD_HTAB0_TORN (hDie h) (hIdx h)) v
def State.setStale (s : State) (h v : Nat) : State := s.wr (R.SPAD_HTAB0_STALE (hDie h) (hIdx h)) v

/-- A handle's range lies in scratchpad. -/
def State.hSpad (s : State) (h : Nat) : Bool := s.hLoc h < 2

/-- R203: the access width of a handle's memory, 128 bytes in scratchpad and 64 in stacked memory. -/
def State.hWidth (s : State) (h : Nat) : Nat := if s.hSpad h then 128 else 64

/-! ### Where a byte lies (R241, R288–R291) -/

/-- R288: granule slots of 256 bytes in a channel. -/
abbrev slotsPerChannel : Nat := 15728640

/-- R290: the channels of a die's die-local space, in logical order: stack 2d's, then stack 2d + 1's. -/
def State.dieChans (s : State) (d : Nat) : List (Nat × Nat) :=
  ((List.range 32).filter (bitOf (s.rd (R.MEM_CHMAP_INSERV d)))).map fun c => (d, c)

/-- R290: the channels of the part-wide space, the lists of its dies in ascending order. -/
def State.partChans (s : State) : List (Nat × Nat) := s.partDies.flatMap s.dieChans

/-- R289: the slots per channel given to the part-wide space. -/
def State.partSlots (s : State) : Nat := s.rd R.MEM_SPLIT_PW_MIB * 4096

/-- R291: the rotation h of a slot number. -/
def rotOf (sl : Nat) : Nat := bits sl 0 7 ^^^ bits sl 7 7 ^^^ bits sl 14 7 ^^^ bits sl 21 7

/-- R291: the logical channel and the slot number of a byte address in a space of C channels. -/
def interleave (C A : Nat) : Nat × Nat :=
  let g := A / 256
  let sl := g / C
  ((g % C + rotOf sl) % C, sl)

/-- A place in storage: a die, whether in its scratchpad, the row or sector that one code word set protects, and the
key of the byte in that die's map. -/
structure Place where
  die : Nat
  spad : Bool
  unit : Nat
  key : Nat
  deriving DecidableEq, Repr

/-- R241: a scratchpad byte. The unit is the row of its bank; rows are numbered 65,536 per bank. -/
def spadPlace (d bankLo bankCnt rowBase o : Nat) : Place :=
  let r := o / 128
  let bank := bankLo + (r + r / bankCnt) % bankCnt
  let row := rowBase + r / bankCnt
  ⟨d, true, bank * 65536 + row, (bank * 65536 + row) * 128 + o % 128⟩

/-- R291: a stacked-memory byte in a space whose channels are given, with the first slot of the space. -/
def stackPlace (chs : List (Nat × Nat)) (first A : Nat) : Place :=
  let (lc, sl) := interleave chs.length A
  let (d, c) := chs.getD lc (0, 0)
  let slot := first + sl
  ⟨d, false, (c * 2 ^ 24 + slot) * 4 + A % 256 / 64, (c * 2 ^ 24 + slot) * 256 + A % 256⟩

/-- Where byte o of a handle's range lies. -/
def State.place (s : State) (h o : Nat) : Place :=
  let d := hDie h
  let i := hIdx h
  if s.hSpad h then
    spadPlace d (s.rd (R.SPAD_HTAB0_BANK_LO d i)) (s.rd (R.SPAD_HTAB0_BANK_CNT d i))
      (s.rd (R.SPAD_HTAB0_ROW_BASE d i)) o
  else
    let A := s.rd (R.SPAD_HTAB2_SBASE d i) + o
    if s.hLoc h = 2 then stackPlace (s.dieChans d) 0 A
    else stackPlace s.partChans (slotsPerChannel - s.partSlots) A

/-- R297, R301: a stack of a die issues no accesses: it is at level 3, or margining runs on it. -/
def State.stackShut (s : State) (d k : Nat) : Bool :=
  s.rd (if k = 0 then R.MEM_THERM_LEVEL0 d else R.MEM_THERM_LEVEL1 d) = 3 ||
    (s.on (R.MEM_MARGIN_CTL_START d) && s.rd (R.MEM_MARGIN_CTL_STACK d) = k)

/-- R299, R301: some granule of n bytes at offset o of a handle lies on a stack that issues no accesses: the access waits. -/
def State.accessWaits (s : State) (h o n : Nat) : Bool :=
  !s.hSpad h && ((List.range 16).any fun i => s.stackShut (i / 2) (i % 2)) &&
    (List.range (ceilDiv (o % 256 + n) 256)).any fun k =>
      let p := s.place h (o / 256 * 256 + 256 * k)
      s.stackShut p.die (p.unit / 2 ^ 30)

/-- The byte stored at a place. -/
def State.byteAt (s : State) (p : Place) : Byte :=
  mapGet 0 (if p.spad then (s.die p.die).spad else (s.die p.die).stack) p.key

/-- The state with a byte stored at a place. -/
def State.setByteAt (s : State) (p : Place) (b : Byte) : State :=
  s.updDie p.die fun x =>
    if p.spad then { x with spad := mapSet 0 x.spad p.key b } else { x with stack := mapSet 0 x.stack p.key b }

/-- The error that a row or sector holds: 0 none, 1 correctable, 2 uncorrectable. A row whose check bits the test
window stored is judged by the decoder. -/
def State.errAt (s : State) (p : Place) : Nat :=
  let x := s.die p.die
  if p.spad then
    match mapFind x.spadChk p.unit with
    | some chk =>
      let durable := bitOf (s.rd (R.SPAD_CLASS_DURABLE p.die)) (p.unit / 65536)
      let row := mapBytes x.spad (p.unit * 128) 128
      (rowDecode durable row chk).1
    | none => mapGet 0 x.spadErr p.unit
  else mapGet 0 x.stackErr p.unit

/-- The state with a row's or sector's error mark set to e (0 clears it) and its check bits fresh. -/
def State.setErr (s : State) (p : Place) (e : Nat) : State :=
  s.updDie p.die fun x =>
    if p.spad then { x with spadErr := mapSet 0 x.spadErr p.unit e, spadChk := mapDel x.spadChk p.unit }
    else { x with stackErr := mapSet 0 x.stackErr p.unit e }

/-- The errors that strike before a command reads, planted; one in a core's own memory stands until the core meets it. -/
def State.plant (s : State) : List Upset → State
  | [] => s
  | .row d b r u :: us => (s.setErr ⟨d, true, b.val * 65536 + r.toNat, 0⟩ (if u then 2 else 1)).plant us
  | .sector d c sl sec u :: us =>
    (s.setErr ⟨d, false, (c.val * 2 ^ 24 + sl.toNat) * 4 + sec.val, 0⟩ (if u then 2 else 1)).plant us
  | .ondie d c :: us => (s.updCore d c fun k => { k with memErr := true }).plant us

/-! ### Error handling of a read (R256, R257, R294, R295, R302) -/

/-- Who reads or writes: MID, site and job, for the error registers and the events. -/
structure Who where
  mid : Nat
  site : Nat := 0
  job : Nat := 0
  deriving DecidableEq, Repr

/-- The bank or channel of a place. -/
def Place.col (p : Place) : Nat := if p.spad then p.unit / 65536 else p.unit / 2 ^ 26

/-- SPAD_LAST_ERR or MEM_LAST_ERR written for an error at a place. -/
def State.lastErr (s : State) (p : Place) (ue : Bool) (mid : Nat) : State :=
  let d := p.die
  if p.spad then
    ((((s.wr (R.SPAD_LAST_ERR_BANK d) p.col).wr (R.SPAD_LAST_ERR_CLASS d)
      (b2n (bitOf (s.rd (R.SPAD_CLASS_DURABLE d)) p.col))).wr (R.SPAD_LAST_ERR_UE d) (b2n ue)).wr
      (R.SPAD_LAST_ERR_ROW d) (p.unit % 65536)).wr (R.SPAD_LAST_ERR_MID d) mid
  else
    ((((s.wr (R.MEM_LAST_ERR_CHANNEL d) (p.col % 16)).wr (R.MEM_LAST_ERR_STACK d) (p.col / 16)).wr
      (R.MEM_LAST_ERR_UE d) (b2n ue)).wr (R.MEM_LAST_ERR_SLOT d) (p.unit / 4 % 2 ^ 24)).wr (R.MEM_LAST_ERR_MID d) mid

/-- R450: the LAST_ERR register of the raising block, as DETAIL holds it. -/
def State.lastErrWord (s : State) (p : Place) : Nat :=
  let d := p.die
  if p.spad then
    s.rd (R.SPAD_LAST_ERR_BANK d) + s.rd (R.SPAD_LAST_ERR_CLASS d) * 2 ^ 6 + s.rd (R.SPAD_LAST_ERR_UE d) * 2 ^ 7 +
      s.rd (R.SPAD_LAST_ERR_ROW d) * 2 ^ 8 + s.rd (R.SPAD_LAST_ERR_MID d) * 2 ^ 32
  else
    s.rd (R.MEM_LAST_ERR_CHANNEL d) + s.rd (R.MEM_LAST_ERR_STACK d) * 2 ^ 5 + s.rd (R.MEM_LAST_ERR_UE d) * 2 ^ 6 +
      s.rd (R.MEM_LAST_ERR_SLOT d) * 2 ^ 8 + s.rd (R.MEM_LAST_ERR_MID d) * 2 ^ 32

/-- The event of an error at a place. -/
def State.eccEvent (s : State) (p : Place) (code : Nat) (w : Who) : State :=
  let s' := s.raise { code := code, src := p.die, unit := if p.spad then Unit.SPAD else Unit.MEMORY, site := w.site,
                      job := w.job, detail := s.lastErrWord p }
  if p.spad then s'.wr (R.SPAD_STATUS_LAST_CODE p.die) code else s'

/-- R256, R294: a corrected read: counted, recorded, written back, and ECC_CE raised for the first correction in a bank
or channel and then at most once per 1,000 µs. -/
def State.eccCe (s : State) (p : Place) (w : Who) : State :=
  let fixed : State := match p.spad, mapFind (s.die p.die).spadChk p.unit with
    | true, some chk =>
      let durable := bitOf (s.rd (R.SPAD_CLASS_DURABLE p.die)) (p.unit / 65536)
      let row := (rowDecode durable (mapBytes (s.die p.die).spad (p.unit * 128) 128) chk).2
      s.updDie p.die fun x => { x with spad := mapPutBytes x.spad (p.unit * 128) (fit 128 row) }
    | _, _ => s
  let s1 := (fixed.setErr p 0).lastErr p false w.mid
  let s2 := if p.spad then s1.inc (R.SPAD_CE_COUNT_COUNT p.die) 1 else s1.inc (R.MEM_CE_COUNT_COUNT p.die) 1
  let key := if p.spad then p.col else 64 + p.col
  let now := (s2.die p.die).time
  let due := match mapFind (s2.die p.die).ceTimes key with
    | some t => decide (t + 1000000 ≤ now)
    | none => true
  if due then
    (s2.updDie p.die fun x => { x with ceTimes := mapPut x.ceTimes key now }).eccEvent p Ev.ECC_CE w
  else s2

/-- R302: the sectors with uncorrectable errors of a channel; at the third distinct one the channel is recorded for
map-out and CHANNEL_MAPOUT is raised. -/
def State.noteSector (s : State) (p : Place) : State :=
  let seen := (s.die p.die).ueSectors
  if p.spad || seen.contains p.unit then s
  else
    let s1 := s.updDie p.die fun x => { x with ueSectors := p.unit :: x.ueSectors }
    let n := ((p.unit :: seen).filter fun u => u / 2 ^ 26 = p.col).length
    if n = 3 then
      { s1 with mapOut := (p.die, p.col) :: s1.mapOut }.raise
        { code := Ev.CHANNEL_MAPOUT, src := p.die, unit := Unit.MEMORY, detail := p.col * 256 }
    else s1

/-- R257, R295: an uncorrectable read: counted, recorded, raised; nothing is written back. -/
def State.eccUe (s : State) (p : Place) (w : Who) : State :=
  let s1 := s.lastErr p true w.mid
  let s2 := if p.spad then s1.inc (R.SPAD_UE_COUNT_COUNT p.die) 1 else s1.inc (R.MEM_UE_COUNT_COUNT p.die) 1
  (s2.eccEvent p Ev.ECC_UE w).noteSector p

/-- What a read gives: the state after its error handling, the bytes, and whether an uncorrectable error was met. -/
structure Got where
  st : State
  bytes : List Byte
  ue : Bool

/-- One row or sector read through its code: the n bytes from offset o, zero where the word is uncorrectable. -/
def State.readUnit (s : State) (h o n : Nat) (w : Who) : Got :=
  let p := s.place h o
  match s.errAt p with
  | 0 => ⟨s, (List.range n).map fun i => s.byteAt (s.place h (o + i)), false⟩
  | 1 =>
    let s' := s.eccCe p w
    ⟨s', (List.range n).map fun i => s'.byteAt (s'.place h (o + i)), false⟩
  | _ => ⟨s.eccUe p w, zeros n, true⟩

/-- A read of n bytes at offset o of a handle's range, unit by unit (fuel: the units). -/
def State.readF (w : Who) (h : Nat) : Nat → State → Nat → Nat → Got
  | 0, s, _, _ => ⟨s, [], false⟩
  | f + 1, s, o, n =>
    if n = 0 then ⟨s, [], false⟩
    else
      let width := s.hWidth h
      let k := min n (width - o % width)
      let g := s.readUnit h o k w
      let r := State.readF w h f g.st (o + k) (n - k)
      ⟨r.st, g.bytes ++ r.bytes, g.ue || r.ue⟩

/-- A read of n bytes at offset o of a handle's range by an initiator. -/
def State.read (s : State) (h o n : Nat) (w : Who) : Got := s.readF w h (n / 64 + 2) o n

/-- The stored bytes of a range, without error handling: what storage holds. -/
def State.peek (s : State) (h o n : Nat) : List Byte := (List.range n).map fun i => s.byteAt (s.place h (o + i))

/-- Bytes stored one by one from offset o of a handle's range. -/
def State.poke (s : State) (h : Nat) : Nat → List Byte → State
  | _, [] => s
  | o, b :: bs => (s.setByteAt (s.place h o) b).poke h (o + 1) bs

/-- The error marks of the units that a write of n bytes at o touches cleared: whole units get fresh check bits, and a
narrower write corrects its unit first (R255, R293). Fuel: the units. -/
def State.clearErrs (h : Nat) : Nat → State → Nat → Nat → State
  | 0, s, _, _ => s
  | f + 1, s, o, n =>
    if n = 0 then s
    else
      let width := s.hWidth h
      let k := min n (width - o % width)
      State.clearErrs h f (s.setErr (s.place h o) 0) (o + k) (n - k)

/-- A write of bytes at offset o of a handle's range. -/
def State.write (s : State) (h o : Nat) (bs : List Byte) : State :=
  (s.clearErrs h (bs.length / 64 + 2) o bs.length).poke h o bs

/-- Offsets in the units that a write of n bytes at o covers only in part: it reads, corrects and rewrites them (R255,
R293). -/
def State.edges (s : State) (h o n : Nat) : List Nat :=
  let width := s.hWidth h
  (if o % width != 0 then [o] else []) ++ (if (o + n) % width != 0 then [o + n - 1] else [])

/-- A narrow write meets an uncorrectable unit that it covers only in part (R255, R293). -/
def State.narrowUe (s : State) (h o n : Nat) : Bool := (s.edges h o n).any fun a => 2 ≤ s.errAt (s.place h a)

/-- R256, R294: the reads of a narrow write correct its units, and each correction counts. -/
def State.mend (s : State) (h o n : Nat) (w : Who) : State :=
  (s.edges h o n).foldl (fun t a => if t.errAt (t.place h a) = 1 then t.eccCe (t.place h a) w else t) s

/-- The error handling of a narrow write that is refused (R255, R257, R293, R295). -/
def State.narrowError (s : State) (h o n : Nat) (w : Who) : State :=
  match (s.edges h o n).find? fun a => 2 ≤ s.errAt (s.place h a) with
  | some a => s.eccUe (s.place h a) w
  | none => s

/-- A write by an initiator (R255, R256, R293, R294): a narrow one reads and corrects its units first, and where that read
is uncorrectable it is refused with a bus error and changes nothing. The state, and whether it was stored. -/
def State.writeBy (s : State) (h o : Nat) (bs : List Byte) (w : Who) : State × Bool :=
  if s.narrowUe h o bs.length then (s.narrowError h o bs.length w, false)
  else ((s.mend h o bs.length w).write h o bs, true)

/-- R245: a read of a handle's bytes that its attributes forbid to an ordinary initiator. -/
def State.readForbidden (s : State) (h : Nat) : Bool := s.hAttr h Attr.KEY || s.hAttr h Attr.PROBE

/-- R245: a write of a handle's bytes that its attributes forbid to a copy, a window or the host. -/
def State.writeForbidden (s : State) (h : Nat) : Bool :=
  s.hAttr h Attr.CT || s.hAttr h Attr.KEY || s.hAttr h Attr.PROBE || s.hAttr h Attr.CONST

/-- R264: the event code of the last scratchpad fault of a die. -/
def State.spadCode (s : State) (d code : Nat) : State := s.wr (R.SPAD_STATUS_LAST_CODE d) code

/-- R262: TORN raised for a read of a TORN handle, once per handle per job. -/
def State.noteTorn (s : State) (h : Nat) (w : Who) : State :=
  if s.hTorn h then
    match s.job? w.job with
    | some j =>
      if j.tornSeen.contains h then s
      else
        let s1 := (s.updJob w.job fun j => { j with tornSeen := h :: j.tornSeen }).raise
          { code := Ev.TORN, src := hDie h, unit := if s.hSpad h then Unit.SPAD else Unit.MEMORY, site := w.site,
            job := w.job, detail := h }
        if s.hSpad h then s1.spadCode (hDie h) Ev.TORN else s1
    | none => s
  else s

/-- R257: a handle with CONST in which an uncorrectable error was met becomes STALE at the end of the job that read it; at
once where no job did (DEDUCED, log 148). -/
def State.noteUe (s : State) (h : Nat) (ue : Bool) (job : Nat) : State :=
  if !(ue && s.hAttr h Attr.CONST) then s
  else if job = 0 then s.setStale h 1
  else { s with staleDue := (job, h) :: s.staleDue }

/-- A read by an engine or stream unit (R257, R262): zeros for failed units; the flag tells of a UE or a TORN source. -/
def State.engineRead (s : State) (h o n : Nat) (w : Who) : Got :=
  let g := (s.noteTorn h w).read h o n w
  ⟨g.st.noteUe h g.ue w.job, g.bytes, g.ue || s.hTorn h⟩

/-! ### Whole ranges cleared -/

/-- The offset within a handle's range of a scratchpad row, if the range covers the row (the inverse of R241). -/
def State.rowOffset (s : State) (h d unit : Nat) : Option Nat :=
  let i := hIdx h
  let lo := s.rd (R.SPAD_HTAB0_BANK_LO d i)
  let cnt := s.rd (R.SPAD_HTAB0_BANK_CNT d i)
  let base := s.rd (R.SPAD_HTAB0_ROW_BASE d i)
  let bank := unit / 65536
  let row := unit % 65536
  if d = hDie h && s.hSpad h && decide (lo ≤ bank) && decide (bank < lo + cnt) && decide (base ≤ row) then
    let k := row - base
    let o := (k * cnt + (bank - lo + cnt - k % cnt) % cnt) * 128
    if o < s.hLen h then some o else none
  else none

/-- The offset within a handle's range of a sector of stacked memory, if the range covers it (the inverse of R291). -/
def State.sectorOffset (s : State) (h d unit : Nat) : Option Nat :=
  let i := hIdx h
  let loc := s.hLoc h
  let chs := if loc = 2 then s.dieChans (hDie h) else s.partChans
  let first := if loc = 2 then 0 else slotsPerChannel - s.partSlots
  let slot := unit / 4 % 2 ^ 24
  match firstIdx (fun p => p == (d, unit / 2 ^ 26)) chs with
  | some lc =>
    let C := chs.length
    let sl := slot - first
    let A := (sl * C + (lc + C - rotOf sl % C) % C) * 256 + unit % 4 * 64
    let b := s.rd (R.SPAD_HTAB2_SBASE (hDie h) i)
    if decide (2 ≤ loc) && decide (first ≤ slot) && decide (b ≤ A) && decide (A < b + s.hLen h) then some (A - b) else none
  | none => none

/-- Whether a handle's range covers a row (spad) or sector of a die. -/
def State.covers (s : State) (h d : Nat) (spad : Bool) (unit : Nat) : Bool :=
  (if spad then s.rowOffset h d unit else s.sectorOffset h d unit).isSome

/-- A handle's range written with zeros and fresh check bits. -/
def State.zeroRange (s : State) (h : Nat) : State :=
  (List.range 8).foldl (fun t d => t.updDie d fun x =>
    if s.hSpad h then
      { x with
        spad := x.spad.filter fun p => !s.covers h d true (p.1 / 128)
        spadErr := x.spadErr.filter fun p => !s.covers h d true p.1
        spadChk := x.spadChk.filter fun p => !s.covers h d true p.1 }
    else
      { x with
        stack := x.stack.filter fun p => !s.covers h d false (p.1 / 64)
        stackErr := x.stackErr.filter fun p => !s.covers h d false p.1 }) s

/-! ### Control cores -/

/-- CHIVE_STATUS.HALTED as the cores of a die stand: a core is held while its bit of CHIVE_RUN is 0, or debug-halted
(R208, R211). -/
def State.showHalted (s : State) (d : Nat) : State :=
  s.wr (R.CHIVE_STATUS_HALTED d) (sumN ((List.range 8).map fun c =>
    if (decide (c < 7) && !bitOf (s.rd (R.CHIVE_RUN_RUN d)) c) || ((s.die d).core c).debugHalt then 2 ^ c else 0))

end Sys2Proof.Machine
end

