-- ==== Sys2Proof/Machine/Ring.lean ====
section
/-! DEFINITION. Rings, prime chains and limbs (R23–R32), and the exact modular products that Basil computes on limbs:
the transforms (R85, R86), base conversion (R91) and the key-switch inner product (R93), as functions of residues. -/

namespace Sys2Proof.Machine

/-- A prime-chain entry (R27). -/
structure Chain where
  id : Nat
  logn : Nat
  L : Nat
  K : Nat
  dnum : Nat
  ptmod : Nat
  digest : List Byte
  primes : List Nat
  roots : List Nat
  deriving DecidableEq, Repr

/-- R27: the bytes of an entry with L + K primes. -/
def chainBytes (LK : Nat) : Nat := 64 + 8 * LK

/-- A prime-chain entry read from its bytes. -/
def parseChain (bs : List Byte) : Chain :=
  let w0 := leAt bs 0 8
  let L := bits w0 16 7
  let K := bits w0 24 5
  { id := bits w0 0 8, logn := bits w0 8 5, L := L, K := K, dnum := bits w0 32 4, ptmod := leAt bs 8 4,
    digest := slice bs 0x10 32,
    primes := (List.range (L + K)).map fun i => leAt bs (0x40 + 8 * i) 4,
    roots := (List.range (L + K)).map fun i => leAt bs (0x44 + 8 * i) 4 }

def Chain.N (c : Chain) : Nat := 2 ^ c.logn
def Chain.prime (c : Chain) (i : Nat) : Nat := c.primes.getD i 1
def Chain.root (c : Chain) (i : Nat) : Nat := c.roots.getD i 1

/-- R29: the digit width. -/
def Chain.A (c : Chain) : Nat := ceilDiv c.L c.dnum

/-- R29: the digits at a level. -/
def Chain.digits (c : Chain) (lvl : Nat) : Nat := ceilDiv lvl c.A

/-- R93: extended limb i at a level: the index of its prime in the chain. -/
def Chain.ext (c : Chain) (lvl i : Nat) : Nat := if i < lvl then i else c.L + (i - lvl)

/-- R32: N1 = 2^⌊LOGN/2⌋. -/
def n1Of (logn : Nat) : Nat := 2 ^ (logn / 2)

/-- R32: N2 = N / N1. -/
def n2Of (logn : Nat) : Nat := 2 ^ (logn - logn / 2)

/-- No number from d to d + n − 1 whose square is at most q divides q. -/
def noDivisor (q : Nat) : Nat → Nat → Bool
  | _, 0 => true
  | d, n + 1 => decide (q < d * d) || (q % d != 0 && noDivisor q (d + 1) n)

/-- Whether a number below 2^32 is prime, by trial of 2 to 65,535. -/
def isPrime32 (q : Nat) : Bool := decide (2 ≤ q) && noDivisor q 2 65534

/-- All values of a list differ. -/
def allDistinct : List Nat → Bool
  | [] => true
  | x :: xs => !xs.contains x && allDistinct xs

/-- R28: the conditions under which an entry may be installed. -/
def chainOk (bs : List Byte) : Bool :=
  let c := parseChain bs
  let w0 := leAt bs 0 8
  let okField := c.id ≤ 63 && 12 ≤ c.logn && c.logn ≤ 18 && 1 ≤ c.L && c.L ≤ 96 && c.K ≤ 16 && 1 ≤ c.dnum && c.dnum ≤ 8 &&
    bits w0 13 3 = 0 && bits w0 23 1 = 0 && bits w0 29 3 = 0 && bits w0 36 28 = 0 && leAt bs 12 4 = 0 &&
    leAt bs 0x30 16 = 0 && bs.length = chainBytes (c.L + c.K)
  let okPrime := c.primes.all fun q => isPrime32 q && q % (2 * c.N) = 1
  let okRoot := (c.primes.zip c.roots).all fun p => powMod p.1 p.2 c.N = p.1 - 1
  let okDigits := if c.K = 0 then c.dnum = 1 else c.A ≤ c.K
  let okPt := c.ptmod = 0 || (c.ptmod != 1 && c.primes.all fun q => Nat.gcd c.ptmod q = 1)
  okField && okPrime && allDistinct c.primes && okRoot && okDigits && okPt && c.digest = sha256 (bs.drop 0x40)

/-- The sum of f over 0, …, n − 1. -/
def sumTo (n : Nat) (f : Nat → Nat) : Nat := sumN ((List.range n).map f)

/-- R32: the evaluation value with index k of a coefficient vector of length n. -/
def evalAt (q ψ n : Nat) (a : Nat → Nat) (k : Nat) : Nat := sumTo n (fun i => a i * ψ ^ ((2 * k + 1) * i)) % q

/-- R32: the index of the evaluation value that position p holds. -/
def evalIndex (N1 N2 p : Nat) : Nat := p / N2 + N1 * (p % N2)

/-- R85: element (k1, n2) after pass 1 of the forward transform: F1 × X. -/
def nttPass1 (q ψ N1 N2 : Nat) (x : Nat → Nat) (k1 n2 : Nat) : Nat :=
  sumTo N1 (fun n1 => powMod q ψ ((2 * k1 + 1) * N2 * n1) * x (N2 * n1 + n2)) % q

/-- R85: the forward transform's value at position N2 × k1 + k2: the twiddle and pass 2. -/
def nttAt (q ψ N1 N2 : Nat) (x : Nat → Nat) (k1 k2 : Nat) : Nat :=
  sumTo N2 (fun n2 =>
    nttPass1 q ψ N1 N2 x k1 n2 * powMod q ψ ((2 * k1 + 1) * n2) % q * powMod q ψ (2 * N1 * k2 * n2)) % q

/-- R85: the forward transform of one limb, positions ascending. -/
def nttLimb (q ψ N1 N2 : Nat) (x : List Nat) : List Nat :=
  (List.range (N1 * N2)).map fun p => nttAt q ψ N1 N2 (fun i => x.getD i 0 % q) (p / N2) (p % N2)

/-- R86: element (k1, n2) after pass 1 of the inverse transform: Z × G2, ω the inverse of ψ. -/
def inttPass1 (q ω N1 N2 : Nat) (z : Nat → Nat) (k1 n2 : Nat) : Nat :=
  sumTo N2 (fun k2 => z (N2 * k1 + k2) * powMod q ω (2 * N1 * k2 * n2)) % q

/-- R86: the coefficient at position N2 × n1 + n2: the twiddle with N^−1 and pass 2. -/
def inttAt (q ω N1 N2 : Nat) (z : Nat → Nat) (n1 n2 : Nat) : Nat :=
  sumTo N1 (fun k1 =>
    inttPass1 q ω N1 N2 z k1 n2 * (invMod q (N1 * N2) * powMod q ω ((2 * k1 + 1) * n2) % q) % q *
      powMod q ω ((2 * k1 + 1) * N2 * n1)) % q

/-- R86: the inverse transform of one limb. -/
def inttLimb (q ψ N1 N2 : Nat) (z : List Nat) : List Nat :=
  let ω := invMod q ψ
  (List.range (N1 * N2)).map fun n => inttAt q ω N1 N2 (fun i => z.getD i 0 % q) (n / N2) (n % N2)

/-- R91: one output residue of a base conversion: source residues x_j with their primes and ŝ_j^−1, and the row of
ŝ_j mod t for the target prime t. -/
def bconvAt (t : Nat) (xs primes invs row : List Nat) : Nat :=
  sumN ((List.range xs.length).map fun j =>
    (xs.getD j 0 % primes.getD j 1 * invs.getD j 0 % primes.getD j 1) * row.getD j 0) % t

/-- R93: one output residue of the key-switch inner product. -/
def ksipAt (r : Nat) (ds ks : List Nat) : Nat := sumN ((ds.zip ks).map fun p => p.1 * p.2) % r

/-- R90: the steps of a transform of n limb tasks. -/
def transformSteps (logn n : Nat) (inverse : Bool) : Nat :=
  let N1 := n1Of logn
  let N2 := n2Of logn
  if logn ≤ 16 then N2 * ceilDiv n 2 + (if inverse then 2 * N1 else N1) + 2 * 144
  else (if inverse then N2 else N1) + n * (N1 + N2) + 272

/-- R92: the steps of a base conversion. -/
def bconvSteps (A U B : Nat) : Nat := A + ceilDiv B 4 * max A U + 144

/-- R94: the steps of a key-switch inner product. -/
def ksipSteps (limbs N M D : Nat) : Nat := limbs * (N / 512) * (M * (D + 2) + 8)

/-- R96: the steps of a matrix product, with the pass lengthened where block sums are rounded stochastically. -/
def gemmSteps (open' : Bool) (M N K TK TN P : Nat) : Nat :=
  let J := TK * P / 512
  let pass := if open' && decide (65536 < K) then max (max M TK) (ceilDiv (M * TN * J) 64) else max M TK
  TK + ceilDiv N TN * ceilDiv K (TK * P) * pass + (if open' then 288 else 272)

/-- 32-bit little-endian words of bytes (R30). -/
def wordsOf (bs : List Byte) : List Nat := (chunks 4 bs).map leNat

/-- The bytes of 32-bit words. -/
def bytesOf (ws : List Nat) : List Byte := ws.flatMap (leBytes 4)

end Sys2Proof.Machine
end

