-- ==== Sys2Proof/Machine/Desc.lean ====
section
/-! DEFINITION. Descriptors of ciphertexts, plaintexts, carries and LWE batches (R33–R36, R157, R158), descriptor
references and slots (R191), and the noise ledger (R43). -/

namespace Sys2Proof.Machine

/-- A descriptor's fields (R33, R34). A batch (TYPE 0x04) uses `dim`, `keyid` and `count` (R157). -/
structure Desc where
  type : Nat := 0
  scheme : Nat := 0
  ver : Nat := 1
  logn : Nat := 0
  form : Nat := 0
  chain : Nat := 0
  level : Nat := 0
  special : Nat := 0
  polys : Nat := 0
  gm1 : Nat := 0
  scale : Nat := 0
  keyset : Nat := 0
  noise : Nat := 0
  nlimit : Nat := 0
  poison : Nat := 0
  lineage : Nat := 0
  h0 : Nat := 0xFFFF
  h1 : Nat := 0xFFFF
  h2 : Nat := 0xFFFF
  logslots : Nat := 0
  dim : Nat := 0
  keyid : Nat := 0
  count : Nat := 0
  deriving DecidableEq, Repr

/-- R33: a descriptor read from its 64 bytes. -/
def parseDesc (b : List Byte) : Desc :=
  let w0 := leAt b 0 8
  let w3 := leAt b 0x18 8
  let w5 := leAt b 0x28 8
  let w6 := leAt b 0x30 8
  let batch := bits w0 0 8 = 4
  { type := bits w0 0 8, scheme := bits w0 8 4, ver := bits w0 12 4, logn := bits w0 16 5, form := bits w0 21 2,
    chain := bits w0 24 8, level := bits w0 32 7, special := bits w0 40 5, polys := bits w0 48 4, gm1 := bits w0 52 5,
    scale := leAt b 8 8, keyset := leAt b 0x10 8, noise := bits w3 0 16, nlimit := bits w3 16 16,
    poison := bits w3 32 8, lineage := bits (leAt b 0x20 8) 0 24, h0 := bits w5 0 16, h1 := bits w5 16 16,
    h2 := bits w5 32 16, logslots := if batch then 0 else bits w6 0 5, dim := if batch then bits w6 0 19 else 0,
    keyid := if batch then bits w6 19 2 else 0, count := if batch then bits (leAt b 0x38 8) 0 19 else 0 }

/-- R33: the 64 bytes of a descriptor. -/
def Desc.toBytes (x : Desc) : List Byte :=
  leBytes 8 (x.type % 2 ^ 8 + x.scheme % 2 ^ 4 * 2 ^ 8 + x.ver % 2 ^ 4 * 2 ^ 12 + x.logn % 2 ^ 5 * 2 ^ 16 +
    x.form % 4 * 2 ^ 21 + x.chain % 2 ^ 8 * 2 ^ 24 + x.level % 2 ^ 7 * 2 ^ 32 + x.special % 2 ^ 5 * 2 ^ 40 +
    x.polys % 2 ^ 4 * 2 ^ 48 + x.gm1 % 2 ^ 5 * 2 ^ 52) ++
  leBytes 8 x.scale ++ leBytes 8 x.keyset ++
  leBytes 8 (x.noise % 2 ^ 16 + x.nlimit % 2 ^ 16 * 2 ^ 16 + x.poison % 2 ^ 8 * 2 ^ 32) ++
  leBytes 8 (x.lineage % 2 ^ 24) ++
  leBytes 8 (x.h0 % 2 ^ 16 + x.h1 % 2 ^ 16 * 2 ^ 16 + x.h2 % 2 ^ 16 * 2 ^ 32) ++
  (if x.type = 4 then leBytes 8 (x.dim % 2 ^ 19 + x.keyid % 4 * 2 ^ 19) ++ leBytes 8 (x.count % 2 ^ 19)
   else leBytes 8 (x.logslots % 2 ^ 5) ++ zeros 8)

/-- R5, R33: every reserved bit of the 64 bytes is zero. -/
def descReservedOk (b : List Byte) : Bool :=
  let w0 := leAt b 0 8
  let batch := bits w0 0 8 = 4
  bits w0 23 1 = 0 && bits w0 39 1 = 0 && bits w0 45 3 = 0 && bits w0 57 7 = 0 && bits (leAt b 0x18 8) 40 24 = 0 &&
    bits (leAt b 0x18 8) 38 2 = 0 && bits (leAt b 0x20 8) 24 40 = 0 && bits (leAt b 0x28 8) 48 16 = 0 &&
    (if batch then bits (leAt b 0x30 8) 21 43 = 0 && bits (leAt b 0x38 8) 19 45 = 0
     else bits (leAt b 0x30 8) 5 59 = 0 && leAt b 0x38 8 = 0)

/-- The members of a group. -/
def Desc.M (x : Desc) : Nat := x.gm1 + 1

/-- The residues of one limb. -/
def Desc.N (x : Desc) : Nat := 2 ^ x.logn

/-- R158: the bytes of a sample of dimension n. -/
def lweStride (n : Nat) : Nat := ceilDiv (4 * (n + 1)) 128 * 128

/-- The bytes that each data handle holds (R35, R49, R158). -/
def Desc.handleBytes (x : Desc) : Nat :=
  if x.type = 4 then x.M * x.count * lweStride x.dim else (x.level + x.special) * x.M * x.N * 4

/-- The data handles in use. -/
def Desc.handles (x : Desc) : List Nat := [x.h0, x.h1, x.h2].take (if x.type = 4 then 1 else x.polys)

/-- The entries of 2,048 bytes that carry the operand's data (R180). -/
def Desc.entries (x : Desc) : Nat :=
  ceilDiv (if x.type = 4 then x.M * x.count * lweStride x.dim else x.polys * ((x.level + x.special) * x.M * x.N * 4)) 2048

/-- A ciphertext-like descriptor: CIPHERTEXT, CARRY or LWE batch. -/
def Desc.isCt (x : Desc) : Bool := x.type = 1 || x.type = 3 || x.type = 4

/-- The prime-chain entry that is installed under an ID (R26). -/
def State.chain? (s : State) (id : Nat) : Option Chain := (mapFind s.chains id).map parseChain

/-- The chain of a descriptor; an empty one where none is installed. -/
def State.chainOf (s : State) (id : Nat) : Chain := (s.chain? id).getD ⟨0, 0, 0, 0, 1, 0, [], [], []⟩

/-- R34: SCALE as its scheme allows it: CKKS finite and above zero; BGV an integer from 1 to t − 1. -/
def scaleFieldOk (scheme t x : Nat) : Bool :=
  if scheme = 1 then scaleOk x
  else match nat64? x with
    | some c => 1 ≤ c && c < t
    | none => false

/-- R34, R35: the values of a ciphertext, plaintext or carry descriptor against its chain. -/
def Desc.ringOk (x : Desc) (c : Chain) : Bool :=
  (x.type = 1 || x.type = 2 || x.type = 3) && (x.scheme = 1 || x.scheme = 2) && x.ver = 1 && x.chain ≤ 63 &&
    x.logn = c.logn && x.form ≤ 1 && 1 ≤ x.level && x.level ≤ c.L && (x.special = 0 || x.special = c.K) &&
    (if x.type = 2 then x.polys = 1 && x.keyset = 0 && x.noise = 0 && x.lineage = 0
     else x.polys = 2 || x.polys = 3) &&
    (x.scheme = 2) == (c.ptmod != 0) && scaleFieldOk x.scheme c.ptmod x.scale &&
    (if x.scheme = 1 then x.logslots < x.logn else x.logslots = 0)

/-- R157: the values of an LWE-batch descriptor against its chain; the dimension must be the one its secret has. -/
def Desc.batchOk (x : Desc) (c : Chain) : Bool :=
  x.type = 4 && (x.scheme = 1 || x.scheme = 2) && x.ver = 1 && x.chain ≤ 63 && x.logn = c.logn && x.form = 0 &&
    x.level = 1 && x.special = 0 && x.polys = 1 && (x.scheme = 2) == (c.ptmod != 0) &&
    scaleFieldOk x.scheme c.ptmod x.scale && 1 ≤ x.count && x.count ≤ 2 ^ 18 &&
    (match x.keyid with
     | 0 => x.dim = c.N
     | 1 => 256 ≤ x.dim && x.dim ≤ 2048 && x.dim % 64 = 0
     | 2 => x.dim = 1024 || x.dim = 2048 || x.dim = 4096
     | _ => false)

/-- R35: unused handle fields are null. -/
def Desc.unusedNull (x : Desc) : Bool :=
  (x.h1 = nullHandle || (2 ≤ x.polys && x.type != 4)) && (x.h2 = nullHandle || (3 ≤ x.polys && x.type != 4))

/-- R35: each data handle is valid, long enough and, for a CIPHERTEXT or CARRY, carries CT. -/
def State.handlesFit (s : State) (x : Desc) : Bool :=
  x.handles.all fun h => s.handleOk h && decide (x.handleBytes ≤ s.hLen h) && (!(x.type = 1 || x.type = 3) || s.hAttr h Attr.CT)

/-- R35 without the handles: what a descriptor read from a token must satisfy. -/
def State.descValuesOk (s : State) (x : Desc) : Bool :=
  match s.chain? x.chain with
  | some c => x.ringOk c || x.batchOk c
  | none => false

/-- R35: a descriptor read from 64 bytes in a slot is accepted. -/
def State.descOk (s : State) (b : List Byte) : Bool :=
  let x := parseDesc b
  descReservedOk b && s.descValuesOk x && x.unusedNull && s.handlesFit x

/-- R353: a ciphertext, CARRY or LWE-batch descriptor's LINEAGE and GROUPM1 equal the binding of every data handle. -/
def State.boundAs (s : State) (x : Desc) : Bool :=
  x.handles.all fun h =>
    s.on (R.SAGE_BIND_V (hDie h) (hIdx h)) && s.rd (R.SAGE_BIND_LINEAGE (hDie h) (hIdx h)) = x.lineage &&
      s.rd (R.SAGE_BIND_GROUPM1 (hDie h) (hIdx h)) = x.gm1

/-! ### Descriptor references (R191) -/

abbrev noRef : Nat := 0xFFFF_FFFF
/-- R191: the operand is present. -/
def refPresent (r : Nat) : Bool := !bitOf r 31
def refTok (r : Nat) : Bool := refPresent r && bitOf r 30
def refHandle (r : Nat) : Nat := bits r 0 16
def refSlot (r : Nat) : Nat := bits r 16 14

/-- R191: a present reference names a slot: it is not a token alone. -/
def refNamesSlot (r : Nat) : Bool := refPresent r && refHandle r != nullHandle

/-- The slot of a reference without its token flag, as a key. -/
def refKey (r : Nat) : Nat := refHandle r + refSlot r * 2 ^ 16

/-- R33, R245: a slot that may be read: its region is valid, holds descriptors and covers the slot. -/
def State.slotOk (s : State) (r : Nat) : Bool :=
  s.handleOk (refHandle r) && s.hAttr (refHandle r) Attr.DESC && decide (64 * refSlot r + 64 ≤ s.hLen (refHandle r))

/-- R33, R478: the 64 bytes of a slot read as one unit. -/
def State.readSlot (s : State) (r : Nat) (w : Who) : Got := s.read (refHandle r) (64 * refSlot r) 64 w

/-- R33: 64 bytes committed to a slot as one unit. The slot holds no error afterwards. -/
def State.writeSlot (s : State) (r : Nat) (b : List Byte) : State :=
  { s.write (refHandle r) (64 * refSlot r) (fit 64 b) with badSlots := s.badSlots.filter (· != refKey r) }

/-! ### The noise ledger (R43) -/

/-- R43: the sum of λ over the top n limbs at a level. -/
def lambdaTop (c : Chain) (lvl n : Nat) : Nat := sumN ((List.range n).map fun i => lambdaOf (c.prime (lvl - 1 - i)))

/-- R43: saturation of a ledger value. -/
def noiseSat (x : Nat) : Nat := min x 0xFFFF

/-- R43: the ledger primitives by their LEDG code (R189): a, b the inputs' NOISE, C the constant, Λ the sum of λ. -/
def ledger (ledg a b C Λ : Nat) : Nat :=
  noiseSat (match ledg with
    | 1 => a
    | 2 => max a b + 0x100
    | 3 => a + C
    | 4 => a + b + C
    | 5 => max a C + 0x100
    | 6 => max (a - Λ) C
    | 7 => C
    | _ => a)

/-- POISON flags (R45). -/
abbrev Poison.LEVEL : Nat := 0
abbrev Poison.NOISE : Nat := 1
abbrev Poison.KEY : Nat := 2
abbrev Poison.DATA : Nat := 3
abbrev Poison.INPUT : Nat := 4
abbrev Poison.ABORT : Nat := 5

end Sys2Proof.Machine
end

