-- ==== Sys2Proof/Machine/Image.lean ====
section
/-! DEFINITION. The layout of a schedule image (R213–R221, R226, R227, R481) as functions of its bytes: sections,
the operation graph with its entry profiles, issue lists, start lists and configuration. -/

namespace Sys2Proof.Machine

/-- R213: a section-table entry. -/
structure Sect where
  type : Nat
  die : Nat
  sub : Nat
  rsv : Nat
  len : Nat
  off : Nat
  deriving DecidableEq, Repr

/-- The section types of R214. -/
abbrev Sec.CHAINS : Nat := 1
abbrev Sec.INPUTS : Nat := 2
abbrev Sec.BUFFERS : Nat := 3
abbrev Sec.RELOC : Nat := 4
abbrev Sec.CODE : Nat := 5
abbrev Sec.DATA : Nat := 6
abbrev Sec.ISSUE : Nat := 7
abbrev Sec.STREAMS : Nat := 8
abbrev Sec.KEYORDER : Nat := 9
abbrev Sec.QUEUES : Nat := 10
abbrev Sec.CONST : Nat := 11
abbrev Sec.GRAPH : Nat := 12
abbrev Sec.MANIFEST : Nat := 13
abbrev Sec.WATCH : Nat := 14
abbrev Sec.CONFIG : Nat := 15
abbrev Sec.STARTS : Nat := 16

/-- Section i of the table. -/
def imgEntry (img : List Byte) (i : Nat) : Sect :=
  let a := leAt img (0x80 + 16 * i) 8
  { type := bits a 0 8, die := bits a 8 4, sub := bits a 12 4, rsv := bits a 16 16, len := bits a 32 32,
    off := leAt img (0x88 + 16 * i) 8 }

/-- R213: the section table. -/
def imgSects (img : List Byte) : List Sect := (List.range (leAt img 6 2)).map (imgEntry img)

/-- The bytes of a section. -/
def Sect.bytes (t : Sect) (img : List Byte) : List Byte := slice img t.off t.len

/-- The sections of a type, logical die and sub-number, in table order. -/
def imgAll (img : List Byte) (type die sub : Nat) : List (List Byte) :=
  ((imgSects img).filter fun t => t.type = type && t.die = die && t.sub = sub).map (·.bytes img)

/-- The first section of a type, logical die and sub-number; empty where there is none. -/
def imgOne (img : List Byte) (type die sub : Nat) : List Byte := ((imgAll img type die sub).head?).getD []

/-- The section's presence. -/
def imgHas (img : List Byte) (type die sub : Nat) : Bool := !(imgAll img type die sub).isEmpty

/-- R214: the DIE field of a section of the whole part. -/
abbrev wholePart : Nat := 0xF

def imgDies (img : List Byte) : Nat := bits (leAt img 0x38 8) 0 4
def imgDigest (img : List Byte) : List Byte := slice img 0x10 32
def imgCpSteps (img : List Byte) : Nat := leAt img 0x30 8

/-- R27: the chain entries of a CHAINS section (fuel: the bytes). -/
def chainEntriesF : Nat → List Byte → List (List Byte)
  | 0, _ => []
  | f + 1, bs =>
    if bs.length < 64 then []
    else
      let w0 := leAt bs 0 8
      let n := 64 + 8 * (bits w0 16 7 + bits w0 24 5)
      bs.take n :: chainEntriesF f (bs.drop n)

def imgChains (img : List Byte) : List (List Byte) :=
  let bs := imgOne img Sec.CHAINS wholePart 0
  chainEntriesF (bs.length / 64) bs

/-- R217: the number of input declarations, and of key requirements. -/
def imgNin (img : List Byte) : Nat := leAt (imgOne img Sec.INPUTS wholePart 0) 0 2
def imgNkreq (img : List Byte) : Nat := leAt (imgOne img Sec.INPUTS wholePart 0) 2 2
def imgInput (img : List Byte) (i : Nat) : List Byte := slice (imgOne img Sec.INPUTS wholePart 0) (16 + 64 * i) 64
def imgKreq (img : List Byte) (i : Nat) : List Byte :=
  slice (imgOne img Sec.INPUTS wholePart 0) (16 + 64 * imgNin img + 32 * i) 32

/-- R215: the buffer records of a die. -/
def imgBuffers (img : List Byte) (die : Nat) : List (List Byte) := chunks 16 (imgOne img Sec.BUFFERS die 0)

/-- R218: a record of the graph. -/
structure GRec where
  site : Nat
  kind : Nat
  opc : Nat
  die : Nat
  group : Nat
  opnds : List Nat
  prof : List Nat
  deriving DecidableEq, Repr

/-- R218: the records of a GRAPH section (fuel: the bytes). -/
def graphF : Nat → List Byte → List GRec
  | 0, _ => []
  | f + 1, bs =>
    if bs.length < 16 then []
    else
      let w := leAt bs 4 4
      let no := leAt bs 8 2
      let np := leAt bs 10 2
      let items := (chunks 8 (slice bs 16 (8 * (no + np)))).map leNat
      { site := leAt bs 0 4, kind := bits w 0 8, opc := bits w 8 8, die := bits w 16 4, group := bits w 20 2,
        opnds := items.take no, prof := items.drop no } :: graphF f (bs.drop (16 + 8 * (no + np)))

def imgGraph (img : List Byte) : List GRec :=
  let bs := imgOne img Sec.GRAPH wholePart 0
  graphF (bs.length / 16) bs

/-- The operation record of a site. -/
def graphOp (img : List Byte) (site : Nat) : Option GRec :=
  (imgGraph img).find? fun g => g.kind = 1 && g.site = site

/-- R218: the entries that a profile pops from (0) or pushes to (1) a queue: the items in order, with the product of
the repetitions of the open loops on a stack. -/
def profTally (q dir : Nat) : List Nat → List Nat → Nat → Nat
  | [], _, acc => acc
  | it :: its, st, acc =>
    let n := bits it 32 32
    match bits it 9 3 with
    | 0 => profTally q dir its st (if bits it 0 7 = q && bits it 7 1 = dir then acc + n * st.headD 1 else acc)
    | 1 => profTally q dir its (n * st.headD 1 :: st) acc
    | 2 => profTally q dir its (st.drop 1) acc
    | _ => profTally q dir its st acc

/-- R226: record k of the issue list of a logical die's group; empty past its end. -/
def issueRecord (img : List Byte) (die g k : Nat) : List Byte := slice (imgOne img Sec.ISSUE die g) (48 * k) 48

/-- R226: the records of the issue list. -/
def issueCount (img : List Byte) (die g : Nat) : Nat := (imgOne img Sec.ISSUE die g).length / 48

/-- R481: the entries of a stream unit's start list, its barrier marks (0xFFFF_FFFF) among them. -/
def startMarks (img : List Byte) (die u : Nat) : List Nat :=
  let bs := imgOne img Sec.STARTS die 0
  let off := leAt bs (8 * u) 4
  (List.range (min (leAt bs (8 * u + 4) 4) bs.length)).map fun i => leAt bs (off + 4 * i) 4

/-- R481: the entries of a stream unit's start list that are starts: the barrier marks left out. -/
def startList (img : List Byte) (die u : Nat) : List Nat := (startMarks img die u).filter (· != 0xFFFF_FFFF)

/-- The starts of a list with the number of barrier marks that stand before each. -/
def countMarks : Nat → List Nat → List (Nat × Nat)
  | _, [] => []
  | m, x :: xs => if x = 0xFFFF_FFFF then countMarks (m + 1) xs else (x, m) :: countMarks m xs

/-- R481: a unit's starts, each with the layer barriers that its list has before it. -/
def startEntries (img : List Byte) (die u : Nat) : List (Nat × Nat) := countMarks 0 (startMarks img die u)

/-- R220: the CONFIG section of a logical die. -/
def imgConfig (img : List Byte) (die : Nat) : List Byte := imgOne img Sec.CONFIG die 0

/-- R200: the level of a group as CONFIG gives it: 0 macro, 1 fine; Tarragon is always macro. -/
def cfgLevel (cfg : List Byte) (g : Nat) : Nat := if g < 3 then bits (leAt cfg 0 2) g 1 else 0

/-- R177, R220: the owner of a group as CONFIG gives it. -/
def cfgOwner (cfg : List Byte) : Nat → Nat
  | 0 => bits (leAt cfg 0 2) 4 3
  | 1 => bits (leAt cfg 0 2) 7 3
  | 2 => bits (leAt cfg 0 2) 13 3
  | _ => bits (leAt cfg 0 2) 10 3

/-- R219: the watch limit record of a site. -/
def watchRec (img : List Byte) (site : Nat) : Option (List Byte) :=
  (chunks 32 (imgOne img Sec.WATCH wholePart 0)).find? fun r => leAt r 0 4 = site

/-- A manifest record (R356). -/
structure MRec where
  mno : Nat
  gm1 : Nat
  nleaf : Nat
  close : Nat
  sums : List Nat
  deriving DecidableEq, Repr

/-- R356: the records of one MANIFEST section (fuel: the bytes). -/
def manifestF : Nat → List Byte → List MRec
  | 0, _ => []
  | f + 1, bs =>
    if bs.length < 16 then []
    else
      let n := leAt bs 0xC 4
      let sz := ceilDiv (16 + 4 * n) 16 * 16
      { mno := leAt bs 0 2, gm1 := bits (leAt bs 2 2) 0 5, nleaf := leAt bs 4 4, close := leAt bs 8 4,
        sums := (List.range n).map fun i => leAt bs (16 + 4 * i) 4 } :: manifestF f (bs.drop sz)

/-- R356: every manifest of an image. -/
def imgManifests (img : List Byte) : List MRec :=
  (imgAll img Sec.MANIFEST wholePart 0).flatMap fun bs => manifestF (bs.length / 16) bs

/-- The image of a slot. -/
def State.image (s : State) (k : Nat) : List Byte := mapGet [] s.images k

/-- The image of the job that runs on a die, and the die's logical number in it. -/
def State.imageOn (s : State) (d : Nat) : List Byte × Nat :=
  match s.jobOn d with
  | some j => (s.image j.slot, (firstIdx (· == d) j.dieMap).getD 0)
  | none => ([], 0)

/-- R218: the entries that the graph gives an operation of a die on a queue. -/
def State.graphCount (s : State) (d site q dir : Nat) : Nat :=
  match graphOp (s.imageOn d).1 site with
  | some g => profTally q dir g.prof [] 0
  | none => 0

end Sys2Proof.Machine
end

