-- ==== Sys2Proof/Machine/Sage.lean ====
section
/-! DEFINITION. Lineage (R348–R357): allocation and freeing of records, bindings, merge rules, and manifests. -/

namespace Sys2Proof.Machine

/-- R349: the record classes. -/
abbrev Cls.FREE : Nat := 0
abbrev Cls.RECORD : Nat := 1
abbrev Cls.DERIVED : Nat := 2
abbrev Cls.AGGREGATE : Nat := 3
abbrev Cls.MASKED : Nat := 4

/-- What a merge takes for a record it cannot read (R350): DERIVED, FLOOR 1, CHAIN zero. -/
def LinRec.unreadable : LinRec := { cls := Cls.DERIVED, floor := 1 }

/-- R348: the place of a record in the table, which opens the part-wide space. -/
def State.recPlace (s : State) (i : Nat) : Place := stackPlace s.partChans (slotsPerChannel - s.partSlots) (32 * i)

/-- A record's read meets an uncorrectable error. -/
def State.recUe (s : State) (i : Nat) : Bool := s.errAt (s.recPlace i) ≥ 2

/-- The record at an index: FREE where the table lists none. -/
def State.recAt (s : State) (i : Nat) : LinRec := mapGet {} s.sage.records i

/-- The record that a merge reads (R350). -/
def State.recRead (s : State) (i : Nat) : LinRec := if s.recUe i then LinRec.unreadable else s.recAt i

/-- The state with Sage's own state changed. -/
def State.updSage (s : State) (f : Sage → Sage) : State := { s with sage := f s.sage }

/-- SAGE_RECORDS after a change of the table. -/
def State.countRecs (s : State) : State :=
  let n := s.sage.records.length
  (s.wr R.SAGE_RECORDS_INUSE n).wr R.SAGE_RECORDS_PEAK (max n (s.rd R.SAGE_RECORDS_PEAK))

/-- The lowest index from c on at which n consecutive keys of a rising list are free. -/
def freeRun (n : Nat) : NMap LinRec → Nat → Nat
  | [], c => c
  | (k, _) :: m, c => if c + n ≤ k then c else freeRun n m (max c (k + 1))

/-- R350: records placed in the lowest run of free indices that is long enough (DESIGN CHOICE, log 26); `none` where
there is no such run. -/
def State.assign (s : State) (rs : List LinRec) : Option (Nat × State) :=
  let base := freeRun rs.length s.sage.records 1
  if base + rs.length ≤ 2 ^ 24 then
    some (base, (s.updSage fun g => { g with
      records := (List.range rs.length).foldl (fun m i => mapSet {} m (base + i) (rs.getD i {})) g.records }).countRecs)
  else none

/-! ### Bindings (R352, R354) -/

/-- A valid binding of some handle holds a record. -/
def State.recBound (s : State) (i : Nat) : Bool :=
  (List.range 2048).any fun h =>
    let b := s.rd (R.SAGE_BIND_LINEAGE (hDie h) (hIdx h))
    s.on (R.SAGE_BIND_V (hDie h) (hIdx h)) && decide (b ≤ i) && decide (i ≤ b + s.rd (R.SAGE_BIND_GROUPM1 (hDie h) (hIdx h)))

/-- R354: the records of a run freed, unless another handle's binding still holds them (DEDUCED, log 25). -/
def State.freeRecs (s : State) (base n : Nat) : State :=
  (s.updSage fun g => { g with
    records := (List.range n).foldl (fun m i => if s.recBound (base + i) then m else mapDel m (base + i)) g.records }).countRecs

/-- R352: a binding set; what the old one alone held is freed (R354). -/
def State.setBind (s : State) (h lineage gm1 poison : Nat) : State :=
  let d := hDie h
  let i := hIdx h
  let old := s.rd (R.SAGE_BIND_LINEAGE d i)
  let oldN := s.rd (R.SAGE_BIND_GROUPM1 d i) + 1
  let had := s.on (R.SAGE_BIND_V d i)
  let s1 := (((s.wr (R.SAGE_BIND_LINEAGE d i) lineage).wr (R.SAGE_BIND_GROUPM1 d i) gm1).wr (R.SAGE_BIND_V d i) 1).wr
    (R.SAGE_BIND_POISON d i) poison
  if had then s1.freeRecs old oldN else s1

/-- R352: a binding cleared when its handle is scrubbed, freed, set STALE or rewritten by a host command. -/
def State.clearBind (s : State) (h : Nat) : State :=
  let d := hDie h
  let i := hIdx h
  if s.on (R.SAGE_BIND_V d i) then
    let old := s.rd (R.SAGE_BIND_LINEAGE d i)
    let oldN := s.rd (R.SAGE_BIND_GROUPM1 d i) + 1
    ((((s.wr (R.SAGE_BIND_LINEAGE d i) 0).wr (R.SAGE_BIND_GROUPM1 d i) 0).wr (R.SAGE_BIND_V d i) 0).wr
      (R.SAGE_BIND_POISON d i) 0).freeRecs old oldN
  else s

/-- R352: the bindings of a committed descriptor's data handles. -/
def State.bindDesc (s : State) (x : Desc) : State :=
  x.handles.foldl (fun t h => if h < 2048 then t.setBind h x.lineage x.gm1 x.poison else t) s

/-- R354: at a job's end the records it created and that no binding holds are freed. -/
def State.freeJobRecs (s : State) (job : Nat) : State :=
  (s.updSage fun g => { g with
    records := g.records.filter fun p => !(p.2.job = job % 2 ^ 32 && p.2.job != 0 && !s.recBound p.1) }).countRecs

/-! ### Merging (R351, R355) -/

/-- R351: the chain of an ordinary operation. -/
def chainOp (D : List Byte) (site : Nat) (ins : List LinRec) : List Byte :=
  (sha256 (D ++ leBytes 4 site ++ ins.flatMap (·.chain))).take 16

/-- R351: the chain of a manifest's close. -/
def chainClose (D : List Byte) (site mno nleaf : Nat) : List Byte :=
  (sha256 (D ++ leBytes 4 site ++ leBytes 2 mno ++ leBytes 4 nleaf)).take 16

/-- R355: rows 4, 5 and 7 for one output member: the records of its ciphertext inputs, and whether every other operand
is an image constant. -/
def mergeRec (D : List Byte) (site job : Nat) (ins : List LinRec) (constOnly : Bool) : LinRec :=
  let base : LinRec := { job := job % 2 ^ 32, chain := chainOp D site ins }
  if !ins.isEmpty && ins.all (fun r => r.cls = Cls.AGGREGATE) then
    { base with cls := Cls.AGGREGATE, floor := (ins.map (·.floor)).foldl min ((ins.headD {}).floor) }
  else
    match ins, constOnly with
    | [r], true => { base with cls := r.cls, floor := r.floor, link := r.link }
    | _, _ => { base with cls := Cls.DERIVED, floor := 1 }

/-- The record of member m of a ciphertext input: DERIVED where its descriptor gives no record. -/
def State.memberRec (s : State) (x : Desc) (m : Nat) : LinRec :=
  if x.lineage = 0 then LinRec.unreadable else s.recRead (x.lineage + min m x.gm1)

/-- R355: the records of the n members of an output, member by member. -/
def State.mergeMembers (s : State) (D : List Byte) (site job n : Nat) (ins : List Desc) (constOnly : Bool) : List LinRec :=
  (List.range n).map fun m => mergeRec D site job (ins.map fun x => s.memberRec x m) constOnly

/-! ### Manifests (R356, R357) -/

/-- R350, R357: one member record examined at a summing site of a manifest, as the examination so far has left it;
`ue` tells which records cannot be read, and index 0 names none. -/
def sumStep (ue : Nat → Bool) (acc : Manifest × NMap LinRec) (p : Nat × Nat) : Manifest × NMap LinRec :=
  let (mf, recs) := acc
  let (lane, idx) := p
  let r := if idx = 0 || ue idx then LinRec.unreadable else mapGet {} recs idx
  if r.cls = Cls.RECORD && mf.last < r.link then
    ({ mf with last := r.link, counts := mapPut mf.counts lane (mapGet 0 mf.counts lane + 1) }, recs)
  else if r.mstate = 1 && r.mslot = mf.mslot then
    ({ mf with opens := mf.opens - 1 }, mapPut recs idx { r with mstate := 2 })
  else ({ mf with broken := true }, recs)

/-- The manifest of a running job whose summing sites include a site. -/
def State.manifestAt (s : State) (job site : Nat) : Option Manifest :=
  s.sage.manifests.find? fun m => m.job = job && m.sums.contains site

/-- The state with a manifest replaced. -/
def State.putManifest (s : State) (m : Manifest) : State :=
  s.updSage fun g => { g with manifests := g.manifests.map fun x => if x.job = m.job && x.mslot = m.mslot then m else x }

/-- R357: an addition at a summing site: the inputs examined in operand order and member order, and the records of the
output's members. A site reached after CLOSE gives DERIVED records of an ordinary operation (DEDUCED, log 27). -/
def State.sumSite (s : State) (D : List Byte) (site job n : Nat) (ins : List Desc) (mf : Manifest) : List LinRec × State :=
  let seen := ins.flatMap fun x => (List.range (x.gm1 + 1)).map fun m => (m, if x.lineage = 0 then 0 else x.lineage + m)
  let (m1, recs) := seen.foldl (sumStep s.recUe) (mf, s.sage.records)
  let s1 := s.updSage fun g => { g with records := recs }
  let derived : LinRec := { cls := Cls.DERIVED, floor := 1, job := job % 2 ^ 32 }
  if mf.closed then
    ((List.range n).map fun m => { derived with chain := chainOp D site (ins.map fun x => s.memberRec x m) },
     s1.putManifest { m1 with broken := true })
  else if site = mf.close then
    let ok := !m1.broken && m1.opens = 0 && (List.range (mf.gm1 + 1)).all fun l => mapGet 0 m1.counts l = mf.nleaf
    let ch := chainClose D site mf.mno mf.nleaf
    let out (m : Nat) : LinRec :=
      if ok then { cls := Cls.AGGREGATE, floor := mapGet 0 m1.counts m, job := job % 2 ^ 32, chain := ch }
      else { derived with chain := ch }
    let s2 := s1.putManifest { m1 with closed := true }
    ((List.range n).map out,
     if ok then s2 else s2.raise { code := Ev.LINEAGE_MANIFEST, unit := Unit.SAGE, site := site, job := job })
  else
    ((List.range n).map fun _ => { derived with mstate := 1, mslot := mf.mslot },
     s1.putManifest { m1 with opens := m1.opens + n })

/-- R350: records assigned to an output: the index of the first, or `none` when the table is full. -/
def State.assignRecs (s : State) (site job : Nat) (rs : List LinRec) : Option Nat × State :=
  match s.assign rs with
  | some (i, s1) => (some i, s1)
  | none => (none, s.raise { code := Ev.LINEAGE_FULL, unit := Unit.SAGE, site := site, job := job })

/-- R350, R355, R357: the records of an output formed and assigned: the index, or `none` when the table is full. -/
def State.lineage (s : State) (D : List Byte) (site job n : Nat) (ins : List Desc) (constOnly sums : Bool) :
    Option Nat × State :=
  let (rs, s1) := match sums, s.manifestAt job site with
    | true, some mf => s.sumSite D site job n ins mf
    | _, _ => (s.mergeMembers D site job n ins constOnly, s)
  s1.assignRecs site job rs

end Sys2Proof.Machine
end

