-- ==== Sys2Proof/Machine/Fabric.lean ====
section
/-! DEFINITION. Acxia frames and the sending side of the transport: headers (R332, R333), addresses (R330, R331),
connections, retransmission and acknowledgement (R335, R336), lineage on the wire (R339). -/

namespace Sys2Proof.Machine

/-! ### Headers (R332, R333) -/

/-- The fields of an Acxia header. -/
structure Hdr where
  ver : Nat := 1
  type : Nat
  isSealed : Nat := 0
  nent : Nat := 0
  sport : Nat := 0
  len : Nat := 0
  src : Nat := 0
  dst : Nat := 0
  psn : Nat := 0
  ach : Nat := 0
  rq : Nat := 0
  wseq : Nat := 0
  smid : Nat := 0
  aop : Nat := 0
  aw64 : Nat := 0
  handle : Nat := 0
  off : Nat := 0
  aux : Nat := 0
  deriving DecidableEq, Repr

/-- The frame types. -/
abbrev Ft.ENTRY : Nat := 1
abbrev Ft.WRITE : Nat := 2
abbrev Ft.ATOMIC : Nat := 3
abbrev Ft.ACK : Nat := 4
abbrev Ft.CREDIT : Nat := 5
abbrev Ft.CLOSE : Nat := 6
abbrev Ft.WACK : Nat := 7
abbrev Ft.AREPLY : Nat := 8
abbrev Ft.KEYX : Nat := 9

/-- R332: the 48 bytes of a header. -/
def Hdr.toBytes (h : Hdr) : List Byte :=
  leBytes 8 (h.ver % 16 + h.type % 16 * 2 ^ 4 + h.isSealed % 2 * 2 ^ 8 + h.nent % 8 * 2 ^ 9 + h.sport % 8 * 2 ^ 12 +
    h.len % 2 ^ 16 * 2 ^ 16 + h.src % 2 ^ 17 * 2 ^ 32) ++
  leBytes 8 (h.dst % 2 ^ 17 + h.psn % 2 ^ 24 * 2 ^ 32) ++
  leBytes 8 (h.ach % 2 ^ 16 + h.rq % 2 ^ 7 * 2 ^ 16 + h.wseq % 2 ^ 32 * 2 ^ 32) ++
  leBytes 8 (h.smid % 2 ^ 12 + h.aop % 8 * 2 ^ 12 + h.aw64 % 2 * 2 ^ 15 + h.handle % 2 ^ 16 * 2 ^ 16) ++
  leBytes 8 (h.off % 2 ^ 48) ++ leBytes 8 h.aux

/-- R332: a header read from its 48 bytes. -/
def parseAcxia (b : List Byte) : Hdr :=
  let w0 := leAt b 0 8
  let w1 := leAt b 8 8
  let w2 := leAt b 0x10 8
  let w3 := leAt b 0x18 8
  { ver := bits w0 0 4, type := bits w0 4 4, isSealed := bits w0 8 1, nent := bits w0 9 3, sport := bits w0 12 3,
    len := bits w0 16 16, src := bits w0 32 17, dst := bits w1 0 17, psn := bits w1 32 24, ach := bits w2 0 16,
    rq := bits w2 16 7, wseq := bits w2 32 32, smid := bits w3 0 12, aop := bits w3 12 3, aw64 := bits w3 15 1,
    handle := bits w3 16 16, off := bits (leAt b 0x20 8) 0 48, aux := leAt b 0x28 8 }

/-- The header with every field that its type does not use cleared (R332, R333). A WACK and an AREPLY name the request
by SMID, ACH and number; an AREPLY carries a refusing code in ACH (DESIGN CHOICE, log 42). -/
def Hdr.used (h : Hdr) : Hdr :=
  let k : Hdr := { type := h.type, sport := h.sport, len := h.len, src := h.src, dst := h.dst, psn := h.psn }
  if h.type = Ft.ENTRY then { k with nent := h.nent, ach := h.ach, rq := h.rq }
  else if h.type = Ft.WRITE then
    { k with isSealed := h.isSealed, ach := h.ach, wseq := h.wseq, smid := h.smid, handle := h.handle, off := h.off }
  else if h.type = Ft.ATOMIC then
    { k with wseq := h.wseq, smid := h.smid, aop := h.aop, aw64 := h.aw64, handle := h.handle, off := h.off, aux := h.aux }
  else if h.type = Ft.ACK then { k with psn := 0, aux := h.aux % 2 ^ 56 }
  else if h.type = Ft.CREDIT then { k with ach := h.ach, rq := h.rq, aux := h.aux }
  else if h.type = Ft.CLOSE then { k with ach := h.ach, aux := h.aux }
  else if h.type = Ft.WACK then
    { k with ach := h.ach, smid := h.smid, aux := h.aux % 2 ^ 16 + h.aux / 2 ^ 32 % 2 ^ 32 * 2 ^ 32 }
  else if h.type = Ft.AREPLY then { k with ach := h.ach, smid := h.smid, wseq := h.wseq, aux := h.aux }
  else { k with psn := 0 }

/-- R333: LEN as the frame type gives it. -/
def Hdr.lenOk (h : Hdr) : Bool :=
  if h.type = Ft.ENTRY then 1 ≤ h.nent && h.nent ≤ 4 && h.len = 2056 * h.nent
  else if h.type = Ft.WRITE then 64 ≤ h.len && h.len ≤ 8192 && h.len % 64 = 0
  else if h.type = Ft.ATOMIC then h.len = (if h.aop = 4 then 8 else 0)
  else if h.type = Ft.KEYX then 0 < h.len && h.len ≤ 8224
  else h.len = 0

/-- R332, R333: check 1 of R337 on a header's bytes: version, type, counts, and every field not used zero. -/
def acxiaOk (b : List Byte) : Bool :=
  let h := parseAcxia b
  h.ver = 1 && 1 ≤ h.type && h.type ≤ 9 && h.lenOk && b == (h.used).toBytes && (h.type != Ft.ATOMIC || h.aop ≤ 4)

/-! ### Lineage on the wire (R339, R349) -/

/-- R349: the 32 bytes of a lineage record. -/
def LinRec.toBytes (r : LinRec) : List Byte :=
  leBytes 1 (r.cls % 8 + r.mstate % 4 * 8 + b2n r.released * 32) ++ leBytes 1 r.relcount ++ leBytes 2 r.mslot ++
    leBytes 4 r.floor ++ leBytes 4 r.link ++ leBytes 4 r.job ++ fit 16 r.chain

/-- R349: a lineage record read from its 32 bytes. -/
def parseLin (b : List Byte) : LinRec :=
  { cls := bits (leAt b 0 1) 0 3, mstate := bits (leAt b 0 1) 3 2, released := bitOf (leAt b 0 1) 5, relcount := leAt b 1 1,
    mslot := leAt b 2 2, floor := leAt b 4 4, link := leAt b 8 4, job := leAt b 0xC 4, chain := slice b 0x10 16 }

/-- R339: a token as the wire carries it: its descriptor, then the records of its members. -/
def State.tokenOut (s : State) (e : QEntry) : List Byte :=
  let x := parseDesc (e.bytes.take 64)
  let rs := if x.isCt && x.lineage != 0 then
      (List.range x.M).flatMap fun m => LinRec.toBytes (s.recRead (x.lineage + m))
    else []
  fit 2048 (e.bytes.take 64 ++ rs)

/-- R333: the entry tag word. -/
def tagWord (e : QEntry) : Nat := b2n e.dataT + 2 * b2n e.ct + 4 * b2n e.token + 8 * b2n e.void

/-- R333: an entry of an ENTRY frame's payload. -/
def State.entryOut (s : State) (e : QEntry) : List Byte :=
  leBytes 8 (tagWord e) ++ (if e.token then s.tokenOut e else fit 2048 e.bytes)

/-! ### Ports and peers (R330, R334, R335) -/

/-- The ports that carry frames. -/
def State.portsUp (s : State) : List Nat :=
  if s.on R.FAB_CFG_ENABLE then (List.range 8).filter fun p => s.on (R.FAB_PORT_UP p) else []

/-- R334: the valid entry of the peer table for an endpoint. -/
def State.peerOf (s : State) (epid : Nat) : Option Nat :=
  (List.range 4096).find? fun i => s.on (R.FAB_PEERTAB_V i) && s.rd (R.FAB_PEERTAB_EPID i) = epid

/-- The session key of a peer. -/
def State.peerKey (s : State) (epid : Nat) : Option (List Byte) :=
  match s.peerOf epid with
  | some i => mapFind s.fab.keys (s.rd (R.FAB_PEERTAB_KEYSLOT i))
  | none => none

/-- The state with the fabric changed. -/
def State.updFab (s : State) (f : Fab → Fab) : State := { s with fab := f s.fab }

/-- The connection with a peer. -/
def State.conn (s : State) (epid : Nat) : Conn := (s.fab.conns.find? (·.epid = epid)).getD { epid := epid }

/-- The state with a connection put in place. -/
def State.putConn (s : State) (c : Conn) : State :=
  s.updFab fun f => { f with conns := if f.conns.any (·.epid = c.epid)
    then (f.conns.map fun x => if x.epid = c.epid then c else x) else f.conns ++ [c] }

/-- The first of a list of ports at or after a turn, in a circle. -/
def nextOf (ports : List Nat) (turn : Nat) : Option Nat :=
  match ports.find? fun p => turn % 8 ≤ p with
  | some p => some p
  | none => ports.head?

/-- R330: the source MAC address of a port of an endpoint. -/
def macOf (epid p : Nat) : List Byte := [0x02, 0xAC, 0xD0] ++ beBytes 3 (epid * 8 + p)

/-- One bit of the Ethernet frame check sequence (IEEE 802.3), reflected. -/
def crcStep (c : Nat) : Nat := if c % 2 = 1 then c / 2 ^^^ 0xEDB88320 else c / 2

/-- The check sequence's register after bytes, from a value. Each value is known before the next byte is taken. -/
def crcOf : List Byte → Nat → Nat
  | [], c => c
  | b :: bs, 0 => crcOf bs (crcStep (crcStep (crcStep (crcStep (crcStep (crcStep (crcStep (crcStep b.toNat))))))))
  | b :: bs, c + 1 => crcOf bs (crcStep (crcStep (crcStep (crcStep (crcStep (crcStep (crcStep (crcStep ((c + 1) ^^^ b.toNat)))))))))

/-- The Ethernet frame check sequence of a frame's bytes. -/
def fcs (bs : List Byte) : List Byte := leBytes 4 (crcOf bs 0xFFFF_FFFF ^^^ 0xFFFF_FFFF)

/-- R328, R332: the bytes before the Acxia header. -/
def State.ethHeader (s : State) (dst src : List Byte) : List Byte :=
  dst ++ src ++
    (if s.on R.FAB_CFG_VLAN_EN then [0x81, 0x00] ++ beBytes 2 (s.rd R.FAB_CFG_PCP * 2 ^ 13 + s.rd R.FAB_CFG_VID) else []) ++
    beBytes 2 (s.rd R.FAB_CFG_ETYPE)

/-- R332: the nonce of a frame. -/
def frameNonce (h : Hdr) : List Byte := leBytes 4 h.src ++ leBytes 4 h.sport ++ leBytes 4 h.psn

/-- R332: the authentication tag of a header and payload; zero for a KEYX frame. -/
def frameTag (key : List Byte) (h : Hdr) (body : List Byte) : List Byte :=
  if h.type = Ft.KEYX then zeros 16 else gcmTag key (frameNonce h) body []

/-- A header and payload sent on the next port in turn to the peer's next port: the state and the port, or none where
no port is up at one end or there is no session. A KEYX frame needs no session and goes to the peer's port of the same
number (DESIGN CHOICE, log 43). -/
def State.launch (s : State) (epid : Nat) (body : List Byte) : Option (Nat × State) :=
  let h := parseAcxia body
  let kx := h.type = Ft.KEYX
  let theirs := match s.peerOf epid with
    | some i => (List.range 8).filter (bitOf (s.rd (R.FAB_PEERTAB_PORTS i)))
    | none => []
  match nextOf s.portsUp s.fab.nextPort, (if kx then some [] else s.peerKey epid) with
  | some p, some key =>
    match (if kx then some p else nextOf theirs (s.conn epid).peerTurn) with
    | some q =>
      let b1 := Hdr.toBytes { h with sport := p } ++ body.drop 48
      let frame := s.ethHeader (macOf epid q) (macOf (s.rd R.FAB_EPID_EPID) p) ++ b1 ++ frameTag key { h with sport := p } b1
      let s1 := s.updFab fun f => { f with nextPort := (p + 1) % 8, wire := f.wire ++ [(p, frame ++ fcs frame)] }
      some (p, if kx then s1 else s1.putConn { s1.conn epid with peerTurn := (q + 1) % 8 })
    | none => none
  | _, _ => none

/-- R395: a connection that must be renewed before new frames go out. -/
def Conn.spent (c : Conn) : Bool := decide (2 ^ 24 - 2 ^ 20 ≤ c.txPsn)

/-- R335, R336: a frame that consumes a PSN sent on a connection and held until an ACK covers it. While the connection
is to be renewed it is held back (R395). -/
def State.sendFrame (s : State) (epid : Nat) (h : Hdr) (payload : List Byte) : State :=
  let c := s.conn epid
  let h1 := { h with src := s.rd R.FAB_EPID_EPID, dst := epid, len := payload.length, psn := c.txPsn }
  let body := h1.toBytes ++ payload
  if c.spent then s.putConn { c with heldTx := c.heldTx ++ [body] }
  else
    match s.launch epid body with
    | some (p, s1) =>
      let c1 := s1.conn epid
      s1.putConn { c1 with txPsn := c.txPsn + 1, unacked := c1.unacked ++ [(⟨c.txPsn, body, 1, s.time, p⟩ : TxFrame)] }
    | none => s.putConn { c with txPsn := c.txPsn + 1, unacked := c.unacked ++ [(⟨c.txPsn, body, 0, s.time, 0⟩ : TxFrame)] }

/-- R335: an ACK with the cumulative PSN, the last one up to which every frame has been received (DEDUCED, log 39), and
the bitmap of the 32 that follow. -/
def State.sendAck (s : State) (epid : Nat) : State :=
  let c := s.conn epid
  let cum := (c.rxCum + 2 ^ 24 - 1) % 2 ^ 24
  let map := sumN ((List.range 32).map fun i => b2n (c.rxSeen.contains (c.rxCum + i)) * 2 ^ i)
  let h : Hdr := { type := Ft.ACK, src := s.rd R.FAB_EPID_EPID, dst := epid, aux := cum + map * 2 ^ 24 }
  let s1 := s.putConn { c with ackCnt := 0 }
  match s1.launch epid h.toBytes with
  | some (_, s2) => s2
  | none => s1

/-- R336: one held frame sent again on the next port in turn; where no port is up it waits for the next time-out. -/
def State.resend (s : State) (epid psn : Nat) : State :=
  match (s.conn epid).unacked.find? (fun x => x.psn = psn) with
  | some f =>
    let (k, p, s1) : Nat × Nat × State := match s.launch epid f.body with
      | some (p, t) => (1, p, t.inc R.FAB_RETX_COUNT 1)
      | none => (0, f.port, s)
    let c := s1.conn epid
    s1.putConn { c with unacked := c.unacked.map fun x =>
      if x.psn = psn then { x with sends := x.sends + k, at_ := s.time, port := p } else x }
  | none => s

/-! ### Credit and closing (R340) -/

/-- The receive binding that delivers to a queue of a die. -/
def State.bindOf (s : State) (d q : Nat) : Option Nat :=
  (s.fab.binds.find? fun p => p.2.die = d && s.on (R.FAB_RXTAB_V p.1) && s.rd (R.FAB_RXTAB_RQ p.1) = q).map (·.1)

/-- The state with a receive binding changed. -/
def State.updBind (s : State) (i : Nat) (f : RxBind → RxBind) : State :=
  match mapFind s.fab.binds i with
  | some b => s.updFab fun x => { x with binds := mapPut x.binds i (f b) }
  | none => s

/-- R340: n entries of credit granted for a receive binding. -/
def State.grant (s : State) (i n : Nat) : State :=
  let s1 := s.updBind i fun b => { b with credit := b.credit + n }
  let h : Hdr := { type := Ft.CREDIT, ach := s.rd (R.FAB_RXTAB_ACH i), rq := s.rd (R.FAB_RXTAB_RQ i), aux := n }
  s1.sendFrame (s.rd (R.FAB_RXTAB_SRC i)) h []

/-- R340: a CLOSE with a count of entries discarded. -/
def State.sendClose (s : State) (i n : Nat) : State :=
  s.sendFrame (s.rd (R.FAB_RXTAB_SRC i)) { type := Ft.CLOSE, ach := s.rd (R.FAB_RXTAB_ACH i), aux := n } []

end Sys2Proof.Machine
end

