-- ==== Sys2Proof/Machine/Queues.lean ====
section
/-! DEFINITION. The queues of a die (R265–R270): pushes, pops, closing ends, and the credit that a pop gives back; stream
programs as records (R202). -/

namespace Sys2Proof.Machine

/-- The entries of a queue, oldest first. -/
def State.queue (s : State) (d q : Nat) : List QEntry := mapGet [] (s.die d).queues q

/-- The state with a queue's entries put in place, and COUNT with them. -/
def State.setQueue (s : State) (d q : Nat) (es : List QEntry) : State :=
  (s.updDie d fun x => { x with queues := mapSet [] x.queues q es }).wr (R.QCH_QSTAT_COUNT d q) es.length

/-- R277: another entry is at the head of a queue from now on. -/
def State.stampHead (s : State) (d q : Nat) : State := s.updDie d fun x => { x with headAt := mapPut x.headAt q x.time }

/-- R270: a push to queue q discarded, counted against the status word of queue `sq`; the first in a job raises
PEER_CLOSED. -/
def State.discard (s : State) (d sq n : Nat) : State :=
  let first := !s.on (R.QCH_QSTAT_PEER_CLOSED d sq)
  let s1 := (s.sat (R.QCH_QSTAT_DISCARDED d sq) n).wr (R.QCH_QSTAT_PEER_CLOSED d sq) 1
  if first then
    s1.raise { code := Ev.PEER_CLOSED, src := d, unit := 0x30, job := s1.jobIdOn d, detail := sq * 2 ^ 16 }
  else s1

/-- R179, R270: whether a push completes now: the reader end is closed, or there is room. -/
def State.canPush (s : State) (d q : Nat) : Bool :=
  s.on (R.QCH_CFG_ENABLE d) &&
    (s.on (R.QCH_QSTAT_RCLOSED d q) || decide ((s.queue d q).length < s.rd (R.QCH_QCFG_CAP d q)))

/-- R179, R270: a push that completes: the entry is accepted, or discarded where the reader end is closed. -/
def State.push (s : State) (d q : Nat) (e : QEntry) : State :=
  if s.on (R.QCH_QSTAT_RCLOSED d q) then s.discard d q 1
  else
    let s1 := if (s.queue d q).isEmpty then s.stampHead d q else s
    (s1.setQueue d q (s.queue d q ++ [e])).inc (R.QCH_QSTAT_PUSHED d q) 1

/-- R267, R340: the head entry of a queue removed; a pop from a fabric receiver's queue grants one more credit. -/
def State.pop (s : State) (d q : Nat) : State :=
  let s1 := (s.stampHead d q).setQueue d q ((s.queue d q).drop 1)
  match s1.bindOf d q with
  | some i => if s1.on (R.QCH_QSTAT_RCLOSED d q) then s1 else s1.grant i 1
  | none => s1

/-- R269, R340: a reader end closed: the sender of a fabric channel that feeds it hears of it. -/
def State.closeReader (s : State) (d q : Nat) : State :=
  if s.on (R.QCH_QSTAT_RCLOSED d q) then s
  else
    let s1 := s.wr (R.QCH_QSTAT_RCLOSED d q) 1
    match s1.bindOf d q with
    | some i => (s1.updBind i fun b => { b with closed := true }).sendClose i 0
    | none => s1

/-- R269: a writer end closed. -/
def State.closeWriter (s : State) (d q : Nat) : State := s.wr (R.QCH_QSTAT_WCLOSED d q) 1

/-- R269: both ends of every queue of a die closed, as a job's end does. -/
def State.closeQueues (s : State) (d : Nat) : State :=
  (List.range 128).foldl (fun t q =>
    if t.rd (R.QCH_QCFG_CAP d q) = 0 then t else (t.closeReader d q).closeWriter d q) s

/-- The state after n entries at a queue's head are popped one by one. -/
def State.popN (s : State) (d q : Nat) : Nat → State
  | 0 => s
  | n + 1 => (s.pop d q).popN d q n

/-! ### What groups and stream units wait from (R277) -/

/-- R277: a group's wait for what it needs next begins now. -/
def State.touchGroup (s : State) (d g : Nat) : State := s.updGroup d g fun x => { x with at_ := (s.die d).time }

/-- R277: a stream unit's wait for what it needs next begins now. -/
def State.touchUnit (s : State) (d u : Nat) : State := s.updSunit d u fun x => { x with at_ := (s.die d).time }

/-- The core that owns a group (R176, R177). -/
def State.ownerOf (s : State) (d g : Nat) : Nat :=
  match g with
  | 0 => s.rd (R.STRM_GROUP_OWN_B d)
  | 1 => s.rd (R.STRM_GROUP_OWN_M d)
  | 2 => s.rd (R.PARS_OWNER_CORE d)
  | _ => s.rd (R.STRM_GROUP_OWN_T d)

/-- R282: the writes of a stream unit that have been issued and have not landed, on its own channel under its owner's MID. -/
def State.unitFlights (s : State) (d u : Nat) : Nat :=
  (s.flights.filter fun f => f.mid = coreMid d (s.ownerOf d (u / 4)) && f.chan = 1 + u).length

/-! ### Stream programs as records (R202) -/

/-- The fields of a stream program record. -/
structure SProg where
  handle : Nat
  queue : Nat
  dir : Nat
  feed : Bool
  xsize : Nat
  base : Nat
  counts : List Nat
  strides : List Int
  deriving DecidableEq, Repr

/-- R202: a stream program read from its 64 bytes. -/
def parseProg (b : List Byte) : SProg :=
  let w := leAt b 0 8
  { handle := bits w 0 16, queue := bits w 16 7, dir := bits w 24 1, feed := bitOf w 25, xsize := bits w 32 11,
    base := leAt b 8 8, counts := (List.range 4).map fun d => leAt b (0x10 + 8 * d) 4,
    strides := (List.range 4).map fun d => toSigned 32 (leAt b (0x14 + 8 * d) 4) }

/-- The transfers that a program makes. -/
def SProg.total (p : SProg) : Nat :=
  if p.feed then p.counts.getD 0 0 else p.counts.foldl (· * ·) 1

/-- The bytes of one transfer. -/
def SProg.xbytes (p : SProg) : Nat := p.xsize * 64

/-- R202: the offset of transfer k of a loop program, loop 0 innermost. -/
def SProg.loopOff (p : SProg) (k : Nat) : Int :=
  let c (d : Nat) : Nat := p.counts.getD d 1
  let i : List Nat := [k % c 0, k / c 0 % c 1, k / (c 0 * c 1) % c 2, k / (c 0 * c 1 * c 2) % c 3]
  (p.base : Int) + ((List.range 4).map fun d => (i.getD d 0 : Int) * p.strides.getD d 0).foldl (· + ·) 0

/-- The stream unit's program at its head. -/
def SUnit.rec? (u : SUnit) : Option SProg := u.prog.map fun p => parseProg p.2

/-- R206, R281: a stream unit whose program has made every transfer, has nothing left to move and has every write landed is
done with it. -/
def State.endProgram (s : State) (d u : Nat) : State :=
  let x := (s.die d).sunit u
  match x.rec? with
  | some p =>
    if x.made = p.total && x.ents.isEmpty && x.rest.isEmpty && s.unitFlights d u = 0 then
      let s1 := s.updSunit d u fun y =>
        { y with prog := none, made := 0, landed := 0, used := 0, restData := false, restCt := false, fed := [],
                 at_ := (s.die d).time }
      if ((s1.die d).sunit u).waiting.isEmpty then s1.wr (R.SU_BUSY_BUSY d) (clearBit (s1.rd (R.SU_BUSY_BUSY d)) u) else s1
    else s
  | none => s

end Sys2Proof.Machine
end

