-- ==== Sys2Proof/Machine/Rings.lean ====
section
/-! DEFINITION. The host rings as shared operations: which entry the part reads next (R314), the shape checks of an
entry (R311, R313), posting a completion (R318), coalescing (R321), and doorbells and shadows (R315, R316). -/

namespace Sys2Proof.Machine

/-- A submission entry read from its ring: the ring, the 64 bytes, and the ring's head after the read. -/
structure Entry where
  ring : Nat
  bytes : List Byte
  sqHead : Nat
  deriving DecidableEq, Repr

def Entry.kind (e : Entry) : Nat := leAt e.bytes 0 1
def Entry.ver (e : Entry) : Nat := bits (leAt e.bytes 0 8) 8 4
def Entry.slot (e : Entry) : Nat := bits (leAt e.bytes 0 8) 16 4
def Entry.tag (e : Entry) : Nat := leAt e.bytes 4 4
def Entry.q (e : Entry) (o : Nat) : Nat := leAt e.bytes o 8

/-- R310: the entries of a submission ring. -/
def State.sqSize (s : State) (r : Nat) : Nat := 2 ^ s.rd (R.SQ_CFG_LOG2SZ r)

/-- R310: the entries of a completion ring. -/
def State.cqSize (s : State) (c : Nat) : Nat := 2 ^ s.rd (R.CQ_CFG_LOG2SZ c)

/-- Completions owed to a completion ring by entries already read: one for each admitted job and each image that
waits for the verifier. The room reserved when an entry was read stays on the ring that was bound then (R314). -/
def State.owed (s : State) (c : Nat) : Nat :=
  ((s.jobs.filter fun j => j.live && j.cq = c).length) + ((s.landings.filter fun l => l.cq = c).length)

/-- Room on a completion ring beyond what is owed. A ring of S entries holds S − 1 (DEDUCED, log 3). -/
def State.cqRoom (s : State) (c : Nat) : Nat :=
  let size := s.cqSize c
  let held := (s.rd (R.CQ_STATE_TAIL c) + size - s.rd (R.CQ_STATE_HEAD c)) % size
  size - 1 - held - s.owed c

/-- A ring has an entry to read and its completion ring has room for n completions. -/
def State.ringReady (s : State) (r n : Nat) : Bool :=
  s.on R.HIF_CFG_ENABLE && s.on (R.SQ_CFG_EN r) && s.on (R.CQ_CFG_EN (s.rd (R.SQ_CFG_CQ r))) &&
    s.rd (R.SQ_STATE_HEAD r) != s.rd (R.SQ_STATE_TAIL r) && n ≤ s.cqRoom (s.rd (R.SQ_CFG_CQ r))

/-- R314: the rings that come before r in this round and are ready. -/
def State.earlierReady (s : State) (r : Nat) : Bool :=
  (List.range ((r + 64 - s.nextRing) % 64)).any fun i => s.ringReady ((s.nextRing + i) % 64) 2

/-- R314: whether ring r's next entry is the one the part reads next, needing n completions. -/
def State.mayRead (s : State) (r n : Nat) : Bool := s.ringReady r n && !s.earlierReady r

/-- The doorbell time of the ring's next entry (R317). -/
def State.doorTime (s : State) (r : Nat) : Nat := ((mapGet [] s.sqTimes r).head?).getD s.time

/-- R314: the next entry of a ring read: the head moves past it and the turn passes on. -/
def State.readEntry (s : State) (r : Nat) (bytes : List Byte) : State × Entry :=
  let head := (s.rd (R.SQ_STATE_HEAD r) + 1) % s.sqSize r
  let s' := { s.wr (R.SQ_STATE_HEAD r) head with
    nextRing := (r + 1) % 64
    sqTimes := mapSet [] s.sqTimes r ((mapGet [] s.sqTimes r).drop 1) }
  (s', ⟨r, bytes, head⟩)

/-- R311, R313: what every kind of entry must satisfy: its kind in the ring's mask, the version, the reserved bits. -/
def State.entryOk (s : State) (e : Entry) : Bool :=
  1 ≤ e.kind && e.kind ≤ 6 && bitOf (s.rd (R.SQ_CFG_KINDS e.ring)) (e.kind - 1) && e.ver = 1 &&
    bits (e.q 0) 12 4 = 0 && bits (e.q 0) 20 12 = 0 && e.q 0x38 = 0 &&
    (e.kind = 1 || e.kind = 2 || e.slot = 0)

/-- R311: a host address is aligned on 64 bytes. -/
def aligned64 (a : Nat) : Bool := a % 64 = 0

/-- R321: the ring's message sent; nothing is left unsignalled. -/
def State.signalCq (s : State) (c : Nat) : State :=
  { s with coal := mapDel s.coal c }.sendMsix (s.rd (R.CQ_CFG_VEC c))

/-- The fields of a completion entry (R318). -/
structure Compl where
  stage : Nat := 1
  missed : Bool := false
  poisoned : Bool := false
  aborted : Bool := false
  code : Nat := 0
  result : Nat := 0
  jobId : Nat := 0
  deriving DecidableEq, Repr

/-- R318: the 32 bytes of a completion entry. -/
def complBytes (ring tag kind sqHead phase : Nat) (k : Compl) : List Byte :=
  leBytes 4 tag ++ leBytes 1 kind ++
    leBytes 1 (k.stage + 2 * b2n k.missed + 4 * b2n k.poisoned + 8 * b2n k.aborted) ++
    leBytes 2 (ring % 64 + phase * 2 ^ 15) ++
    leBytes 2 k.code ++ leBytes 2 sqHead ++ zeros 4 ++ leBytes 8 k.result ++ leBytes 8 k.jobId

/-- R318, R321: a completion posted on completion ring c, and signalled as coalescing gives. -/
def State.postTo (s : State) (c ring tag kind sqHead : Nat) (k : Compl) : State :=
  let tail := s.rd (R.CQ_STATE_TAIL c)
  let phase := s.rd (R.CQ_STATE_PHASE c)
  let s1 := s.toHost (s.rd (R.CQ_BASE_BASE c) + 32 * tail) (complBytes ring tag kind sqHead phase k)
  let next := (tail + 1) % s.cqSize c
  let s2 := (s1.wr (R.CQ_STATE_TAIL c) next).wr (R.CQ_STATE_PHASE c) (if next = 0 then 1 - phase else phase)
  let urgent := (kind = 1 && k.stage = 0 && k.code != 0) || (k.stage = 1 && (k.aborted || k.missed))
  let (n, t0) := mapGet (0, s.time) s2.coal c
  if urgent || s.rd (R.CQ_CFG_COAL_N c) ≤ n + 1 then s2.signalCq c
  else { s2 with coal := mapPut s2.coal c (n + 1, t0) }

/-- R318: a completion posted on the ring bound to a submission ring. -/
def State.post (s : State) (ring tag kind sqHead : Nat) (k : Compl) : State :=
  s.postTo (s.rd (R.SQ_CFG_CQ ring)) ring tag kind sqHead k

/-- R314, R318: the completion that an entry reserved room for when it was read, on the ring that it was reserved on; none
where a reset of the host interface has ended that ring (R309). -/
def State.postOwed (s : State) (c ring tag kind sqHead : Nat) (k : Compl) : State :=
  if c < 64 then s.postTo c ring tag kind sqHead k else s

/-- A completion for an entry just read. -/
def State.postFor (s : State) (e : Entry) (k : Compl) : State := s.post e.ring e.tag e.kind e.sqHead k

/-- R313, R450: an entry refused with a code that is an event: raised with TAG in bits 63:32 of DETAIL, and completed. -/
def State.refuseEntry (s : State) (e : Entry) (code unit : Nat) : State :=
  (s.raise { code := code, unit := unit, detail := e.tag * 2 ^ 32 }).postFor e { code := code, stage := if e.kind = 1 then 0 else 1 }

/-- R316: POLL written to a ring's shadow in host memory. -/
def State.setPoll (s : State) (r v : Nat) : State :=
  let a := s.rd (R.SQ_SHADOW_ADDR r)
  if a = 0 then s else { s.toHost (a + 8) (leBytes 8 v) with poll := setBits s.poll r 1 v }

/-- R315: a tail offered to a submission ring: accepted if it lies in the ring and takes nothing back, and the entries
it adds get the present time as their doorbell time (R317); else ignored with RANGE. -/
def State.offerTail (s : State) (r t : Nat) : State :=
  let size := s.sqSize r
  let head := s.rd (R.SQ_STATE_HEAD r)
  let old := s.rd (R.SQ_STATE_TAIL r)
  let newCnt := (t + size - head) % size
  let oldCnt := (old + size - head) % size
  if t < size && oldCnt ≤ newCnt then
    let s1 := s.wr (R.SQ_STATE_TAIL r) t
    { s1 with
      sqTimes := mapSet [] s1.sqTimes r (mapGet [] s1.sqTimes r ++ List.replicate (newCnt - oldCnt) s.time)
      shadowSeen := if oldCnt < newCnt then mapPut s1.shadowSeen r s.time else s1.shadowSeen }
  else s.raiseRange 8 Unit.HOST

/-- Whether R315 accepts a tail. -/
def State.tailOk (s : State) (r t : Nat) : Bool :=
  let size := s.sqSize r
  let head := s.rd (R.SQ_STATE_HEAD r)
  decide (t < size) && decide ((s.rd (R.SQ_STATE_TAIL r) + size - head) % size ≤ (t + size - head) % size)

/-- R315: a head offered to a ring whose part-side tail and size are given, as the distance from the old head. -/
def headOk (size old tail h : Nat) : Bool :=
  decide (h < size) && decide ((h + size - old) % size ≤ (tail + size - old) % size)

end Sys2Proof.Machine
end

