-- ==== Sys2Proof/Machine/Tensor.lean ====
section
/-! DEFINITION. Tensor descriptors (R248, R249): fields, element addresses, the checks of a creation (R250) and the
bytes of a tensor in ascending logical index. -/

namespace Sys2Proof.Machine

/-- A tensor descriptor's fields (R248); strides are signed. -/
structure TDesc where
  type : Nat
  ver : Nat
  fmt : Nat
  mod : Bool
  blk : Nat
  ndim : Nat
  handle : Nat
  off : Nat
  n0 : Nat
  n1 : Nat
  n2 : Nat
  n3 : Nat
  s0 : Int
  s1 : Int
  s2 : Int
  s3 : Int
  soff : Nat
  src : Nat
  cstat : Nat
  deriving DecidableEq, Repr

/-- R248: the fields of 64 bytes. -/
def parseT (b : List Byte) : TDesc :=
  let w := leAt b 0 8
  { type := bits w 0 8, ver := bits w 8 4, fmt := bits w 12 3, mod := bitOf w 15, blk := bits w 16 3,
    ndim := bits w 19 2 + 1, handle := bits w 32 16, off := leAt b 8 8, n0 := leAt b 0x10 4, n1 := leAt b 0x14 4,
    n2 := leAt b 0x18 4, n3 := leAt b 0x1C 4, s0 := toSigned 32 (leAt b 0x20 4), s1 := toSigned 32 (leAt b 0x24 4),
    s2 := toSigned 32 (leAt b 0x28 4), s3 := toSigned 32 (leAt b 0x2C 4), soff := leAt b 0x30 8, src := leAt b 0x38 4,
    cstat := leAt b 0x3C 4 }

/-- R248: the bits of an element. -/
def TDesc.bits (t : TDesc) : Nat := if t.mod then 32 else fmtBits t.fmt

/-- R248: S0 of a tensor whose innermost elements are adjacent. -/
def TDesc.unit (t : TDesc) : Int := (t.bits / 8 : Nat)

/-- The elements. -/
def TDesc.count (t : TDesc) : Nat := t.n0 * t.n1 * t.n2 * t.n3

/-- The rows along dimension 0. -/
def TDesc.rows (t : TDesc) : Nat := t.n1 * t.n2 * t.n3

/-- The entries of 2,048 bytes that carry the tensor's elements (R180). -/
def TDesc.entries (t : TDesc) : Nat := ceilDiv (ceilDiv (t.count * t.bits) 8) 2048

/-- The indices of an element by its logical index (R67). -/
def TDesc.index (t : TDesc) (i : Nat) : Nat × Nat × Nat × Nat :=
  (i % t.n0, i / t.n0 % t.n1, i / (t.n0 * t.n1) % t.n2, i / (t.n0 * t.n1 * t.n2))

/-- R248: the byte that holds element i; two E2M1 elements share a byte. -/
def TDesc.addr (t : TDesc) (i : Nat) : Int :=
  let (i0, i1, i2, i3) := t.index i
  (t.off : Int) + (if t.bits = 4 then ((i0 / 2 : Nat) : Int) else (i0 : Int) * t.s0) + i1 * t.s1 + i2 * t.s2 + i3 * t.s3

/-- R249: the bytes of a scale row. -/
def TDesc.srow (t : TDesc) : Nat := ceilDiv (ceilDiv t.n0 (blkSize t.blk)) 128 * 128

/-- R249: the scale byte of block k of row r. -/
def TDesc.scaleAddr (t : TDesc) (r k : Nat) : Nat := t.soff + k + t.srow * r

/-- R249: the scale blocks of a row. -/
def TDesc.blocks (t : TDesc) : Nat := if t.blk = 0 then 0 else ceilDiv t.n0 (blkSize t.blk)

/-- The lowest and the highest byte that any index addresses. -/
def TDesc.span (t : TDesc) : Int × Int :=
  let ext (n : Nat) (st : Int) : Int × Int := let e := ((n : Int) - 1) * st; (min 0 e, max 0 e)
  let e0 := if t.bits = 4 then (0, (((t.n0 - 1) / 2 : Nat) : Int)) else ext t.n0 t.s0
  let e1 := ext t.n1 t.s1
  let e2 := ext t.n2 t.s2
  let e3 := ext t.n3 t.s3
  ((t.off : Int) + e0.1 + e1.1 + e2.1 + e3.1,
   (t.off : Int) + e0.2 + e1.2 + e2.2 + e3.2 + (max 1 (t.bits / 8) : Nat) - 1)

/-- The byte interval of a tensor with its scale array up to its highest scale byte (R107, R250, R252). -/
def TDesc.interval (t : TDesc) : Int × Int :=
  let (lo, hi) := t.span
  if t.blk = 0 then (lo, hi)
  else (min lo t.soff, max hi (((t.soff + t.srow * (t.rows - 1) + t.blocks : Nat) : Int) - 1))

/-- R5, R248: reserved bits zero, fields in their table's ranges, extents at least 1. -/
def tFieldsOk (b : List Byte) : Bool :=
  let t := parseT b
  let w := leAt b 0 8
  t.ver = 1 && bits w 21 11 = 0 && bits w 48 16 = 0 && (if t.mod then t.fmt = 0 && t.blk = 0 else fmtOk t.fmt t.blk) &&
    (t.blk != 0 || t.soff = 0) && 1 ≤ t.n0 && 1 ≤ t.n1 && 1 ≤ t.n2 && 1 ≤ t.n3 &&
    (2 ≤ t.ndim || t.n1 = 1) && (3 ≤ t.ndim || t.n2 = 1) && (4 ≤ t.ndim || t.n3 = 1) &&
    (t.type = 0x11 || t.src = 0) && t.cstat = 0

/-- R250: check 1, against the access width of the handle; a copy's tensors need multiples of 4 only. -/
def State.tAligned (s : State) (t : TDesc) (copy : Bool) : Bool :=
  let w : Int := if copy then 4 else (s.hWidth t.handle : Nat)
  let al (x : Int) : Bool := x % w = 0
  al t.off && al t.soff && al t.s1 && al t.s2 && al t.s3 &&
    (if copy then (al t.s0 || t.s0 = t.unit) else t.s0 = t.unit)

/-- R250: check 2. -/
def State.tInRange (s : State) (b : List Byte) : Bool :=
  let t := parseT b
  let (lo, hi) := t.interval
  tFieldsOk b && s.handleOk t.handle && decide (0 ≤ lo) && decide (hi < (s.hLen t.handle : Int))

/-- A tensor descriptor read from a valid slot may be used: TYPE 0x10 and in range. -/
def State.tensorOk (s : State) (b : List Byte) : Bool := (parseT b).type = 0x10 && s.tInRange b

/-- The offset of the byte that holds element i. -/
def TDesc.at_ (t : TDesc) (i : Nat) : Nat := (t.addr i).toNat

/-- The rows or sectors in which elements i to i + n − 1 lie, each once, in the order in which they are first met. -/
def State.units (s : State) (t : TDesc) (i n : Nat) : List Nat :=
  ((List.range n).map fun k => t.at_ (i + k) / s.hWidth t.handle).eraseDups

/-- Rows or sectors of a handle read through their code, each once: the state, and those that cannot be corrected. -/
def State.readUnits (s : State) (h : Nat) (us : List Nat) (w : Who) : State × List Nat :=
  us.foldl (fun (acc : State × List Nat) u =>
    let g := acc.1.readUnit h (u * s.hWidth h) 1 w
    (g.st.noteUe h g.ue w.job, if g.ue then acc.2 ++ [u] else acc.2)) (s, [])

/-- The code that storage holds for element i. -/
def State.elemAt (s : State) (t : TDesc) (i : Nat) : Nat :=
  let x := leNat (s.peek t.handle (t.at_ i) (max 1 (t.bits / 8)))
  if t.bits = 4 then Machine.bits x (4 * ((t.index i).1 % 2)) 4 else x

/-- R253, R257: elements i to i + n − 1 of a tensor read in one access to each row that they lie in; an element of a row that
cannot be corrected is zero. -/
def State.readSpan (s : State) (t : TDesc) (i n : Nat) (w : Who) : State × List Nat × Bool :=
  let (s1, bad) := s.readUnits t.handle (s.units t i n) w
  (s1, (List.range n).map fun k => if bad.contains (t.at_ (i + k) / s.hWidth t.handle) then 0 else s1.elemAt t (i + k),
    !bad.isEmpty)

/-- The elements of a tensor in ascending logical index, read by an initiator line by line along dimension 0; the flag tells
of a row that cannot be corrected. -/
def State.readElems (s : State) (t : TDesc) (w : Who) : State × List Nat × Bool :=
  (List.range t.rows).foldl (fun (acc : State × List Nat × Bool) r =>
    let (s1, xs, u) := acc.1.readSpan t (r * t.n0) t.n0 w
    (s1, acc.2.1 ++ xs, acc.2.2 || u)) (s.noteTorn t.handle w, [], s.hTorn t.handle)

/-- Element i of a tensor written. -/
def State.writeElem (s : State) (t : TDesc) (i x : Nat) : State :=
  let a := (t.addr i).toNat
  if t.bits = 4 then
    let old := leNat (s.peek t.handle a 1)
    s.write t.handle a (leBytes 1 (setBits old (4 * ((t.index i).1 % 2)) 4 x))
  else s.write t.handle a (leBytes (t.bits / 8) x)

/-- Elements written from logical index i on. -/
def State.writeElems (s : State) (t : TDesc) : Nat → List Nat → State
  | _, [] => s
  | i, x :: xs => (s.writeElem t i x).writeElems t (i + 1) xs

/-- The scale bytes of a tensor, row by row in ascending block order. -/
def State.readScales (s : State) (t : TDesc) (w : Who) : Got :=
  (List.range t.rows).foldl (fun acc r =>
    let g := acc.st.engineRead t.handle (t.scaleAddr r 0) t.blocks w
    ⟨g.st, acc.bytes ++ g.bytes, acc.ue || g.ue⟩) ⟨s, [], false⟩

/-- Scale bytes written row by row. -/
def State.writeScales (s : State) (t : TDesc) (bs : List Byte) : State :=
  (List.range t.rows).foldl (fun st r => st.write t.handle (t.scaleAddr r 0) (slice bs (r * t.blocks) t.blocks)) s

/-- Element codes as the bytes of a sequence, narrower elements packed little-endian, two E2M1 elements to a byte with
the even one in bits 3:0. -/
def packElems (bits : Nat) (xs : List Nat) : List Byte :=
  if bits = 4 then (chunks 2 xs).map fun p => BitVec.ofNat 8 (p.headD 0 % 16 + p.getD 1 0 % 16 * 16)
  else xs.flatMap (leBytes (bits / 8))

/-- The first n element codes of a byte sequence. -/
def unpackElems (bits n : Nat) (bs : List Byte) : List Nat :=
  if bits = 4 then (bs.flatMap fun b => [b.toNat % 16, b.toNat / 16]).take n
  else ((chunks (bits / 8) bs).map leNat).take n

end Sys2Proof.Machine
end

