-- ==== Sys2Proof/Machine/JobEnd.lean ====
section
/-! DEFINITION. How a job ends: digests (R389, R459), watch records (R75), the job record (R458), the stop of engines,
units and keys (R109, R206, R151), the scrub of transient buffers (R259), horizons (R411), invariants (R236) and the
order of R237 and of step 6 of R235. -/

namespace Sys2Proof.Machine

/-! ### Digests -/

/-- R389: the chunk tree over bytes: leaves of 64 KiB. -/
def chunkTree (bs : List Byte) : List Byte :=
  sha256 (1 :: ((chunks 65536 bs).flatMap fun c => sha256 (0 :: c)))

/-- The hub reads n bytes of a handle, as the management cores do. -/
def State.hubRead (s : State) (h o n job : Nat) : Got :=
  if s.handleOk h then s.read h o n { mid := 2, job := job } else ⟨s, zeros n, false⟩

/-- The bytes of each data buffer that a descriptor covers, H0, H1, H2 in order. -/
def State.bufferBytes (s : State) (x : Desc) (job : Nat) : State × List (List Byte) :=
  x.handles.foldl (fun acc h =>
    let g := acc.1.hubRead h 0 x.handleBytes job
    (g.st, acc.2 ++ [g.bytes])) (s, [])

/-- R459: the data that a descriptor's digest covers, buffer by buffer: its buffers, or a tensor's elements packed and its
scale bytes. -/
def State.objData (s : State) (b : List Byte) (job : Nat) : State × List (List Byte) :=
  if leAt b 0 1 = 0x10 then
    let t := parseT b
    let (s1, xs, _) := s.readElems t { mid := 2, job := job }
    let g := s1.readScales t { mid := 2, job := job }
    (g.st, [packElems t.bits xs, g.bytes])
  else s.bufferBytes (parseDesc b) job

/-- R459: the descriptor's 64 bytes as the digest takes them. -/
def digestHead (b : List Byte) : List Byte :=
  if leAt b 0 1 = 0x10 then putAt (fit 64 b) 4 (zeros 2)
  else Desc.toBytes { parseDesc b with h0 := 0, h1 := 0, h2 := 0, lineage := 0 }

/-- R459: the object digest of a descriptor's 64 bytes with its data. -/
def State.objDigest (s : State) (b : List Byte) (job : Nat) : State × List Byte :=
  let (s1, data) := s.objData b job
  (s1, sha256 (digestHead b ++ chunkTree data.flatten))

/-- R459: the key under which a committed slot counts: buffer number, slot; of equal ones, the lower die first. -/
def State.outKey (s : State) (r : Nat) : Nat :=
  s.rd (R.SPAD_HTAB3_BUFNO (hDie (refHandle r)) (hIdx (refHandle r))) * 2 ^ 30 + refSlot r * 2 ^ 16 + refHandle r

/-- R459: ODIGEST over the object digests of the committed slots in ascending order. -/
def State.odigest (s : State) (j : Job) : State × List Byte :=
  let (s1, ds) := j.outs.foldl (fun acc p =>
    let (t, d) := acc.1.objDigest p.2 j.id
    (t, acc.2 ++ d)) (s, [])
  (s1, sha256 ds)

/-! ### Watches (R73–R76) -/

/-- The limit record's crossing test (R219) on a watch's fields. -/
def watchCrossed (lim : List Byte) (w : Watch) : Bool :=
  let f (i : Nat) : Int := w.fields.getD i 0
  let above (l v : Int) : Bool := l != 0 && decide (l < v)
  if w.kind = 1 then above (leAt lim 8 8) (f 1) || above (leAt lim 0x10 8) (f 2)
  else
    let l := leAt lim 8 8
    let ml : Int := bits l 0 7
    (ml != 0 && decide (f 0 < ml)) || above (bits l 16 16) (f 1) || above (bits l 32 16) (f 2) ||
      (bitOf (leAt lim 6 1) 0 && decide (f 3 < toSigned 16 (bits l 48 16)))

/-- A watched site's observation added by `upd`, with WATCH_LIMIT raised at its first crossing (R76). -/
def State.watch (s : State) (job site src unit : Nat) (upd : List Int → List Int) : State :=
  match s.job? job with
  | none => s
  | some j =>
    match j.watches.find? (·.site = site), watchRec (s.image j.slot) site with
    | some w, some lim =>
      let w1 := { w with fields := upd w.fields }
      let cross := !w.crossed && watchCrossed lim w1
      let w2 := { w1 with crossed := w1.crossed || cross }
      let s1 := s.updJob job fun j => { j with watches := j.watches.map fun x => if x.site = site then w2 else x }
      if cross then s1.raise { code := Ev.WATCH_LIMIT, src := src, unit := unit, site := site, job := job } else s1
    | _, _ => s

/-- A number held to a signed range of 16 bits. -/
def sat16 (x : Int) : Nat := ofSigned 16 (max (-0x8000) (min 0x7FFF x))

/-- R75: the 32 bytes of a watch record. -/
def Watch.record (w : Watch) (part : Bool) : List Byte :=
  let f (i : Nat) : Int := w.fields.getD i 0
  leBytes 4 w.site ++ leBytes 2 w.kind ++ leBytes 2 (b2n part + 2 * b2n w.crossed) ++
    (if w.kind = 1 then leBytes 8 (f 0).toNat ++ leBytes 8 (f 1).toNat ++ leBytes 8 (f 2).toNat
     else leBytes 2 (if f 4 = 0 then 0 else (f 0).toNat) ++ leBytes 2 (min (f 1).toNat 0xFFFF) ++
       leBytes 2 (min (f 2).toNat 0xFFFF) ++ leBytes 2 (if f 4 = 0 then 0x7FFF else sat16 (f 3)) ++
       leBytes 8 (f 4).toNat ++ zeros 8)

/-- R75: the watch records written to the job's watch area in ascending site order. -/
def State.writeWatches (s : State) (j : Job) (part : Bool) : State :=
  if j.watches.isEmpty then s else s.toHost j.watchAddr (j.watches.flatMap (·.record part))

/-! ### The job record (R458) -/

/-- R458: DIEMAP. -/
def dieMapWord (m : List Nat) : Nat := sumN ((List.range 8).map fun i => m.getD i 0xF * 16 ^ i)

/-- R458: CHAINDIG over the DIGEST fields of an image's chains in ascending ID. -/
def chainDig (img : List Byte) : List Byte :=
  let m := (imgChains img).foldl (fun m c => mapPut m (leAt c 0 1) (slice c 0x10 32)) ([] : NMap (List Byte))
  sha256 (m.flatMap (·.2))

/-- R458: the bytes of a job record. -/
def Job.record (j : Job) (img : List Byte) (outcome code tEnd : Nat) (odig : List Byte) : List Byte :=
  leBytes 4 0x3143524A ++ leBytes 2 1 ++ leBytes 2 j.inputs.length ++ leBytes 8 j.id ++
    leBytes 2 (outcome + 4 * b2n j.missed + 8 * b2n j.poisoned + 16 * b2n j.captured + 32 * b2n (j.replayOf != 0)) ++
    leBytes 2 code ++ leBytes 2 j.events.length ++ leBytes 2 j.evLost ++ leBytes 8 j.replayOf ++ fit 32 j.digest ++
    fit 32 j.seed ++ leBytes 8 j.tDoor ++ leBytes 8 tEnd ++ leBytes 4 (dieMapWord j.dieMap) ++ leBytes 4 j.slot ++ zeros 8 ++
    chainDig img ++ fit 32 j.keydig ++ odig ++ leBytes 4 j.outs.length ++ zeros 28 ++
    ((List.range j.inputs.length).flatMap fun i =>
      let p := j.inputs.getD i (0, 0, 0)
      leBytes 8 p.2.1 ++ leBytes 8 p.2.2 ++ fit 32 (j.idigs.getD i [])) ++ j.events.flatten

/-! ### Stopping a die (R109, R151, R206, R254) -/

/-- The fields of a captured operation that the stop needs: the parameter block's output references. -/
def Issued.dout (op : Issued) (i : Nat) : Nat := if op.fine then noRef else leAt op.pblock (8 + 4 * i) 4
def Issued.din (op : Issued) (i : Nat) : Nat := if op.fine then noRef else leAt op.pblock (4 * i) 4

/-- A handle marked TORN, if it is one that may be presented. -/
def State.tear (s : State) (h : Nat) : State := if s.handleOk h then s.setTorn h 1 else s

/-- What a slot's earlier bytes say of an output's handles: bytes of another TYPE than the four of R33 and R158 name none
(log 24). -/
def namesHandles (x : Desc) : Desc := if 1 ≤ x.type && x.type ≤ 4 then x else {}

/-- The 64 bytes that an output slot holds before a commit, as a descriptor: they give the handles (DEDUCED, log 24). -/
def State.slotDesc (s : State) (r : Nat) : Desc :=
  if refNamesSlot r && s.slotOk r then namesHandles (parseDesc (s.peek (refHandle r) (64 * refSlot r) 64)) else {}

/-- The tensor handles that an operation names as destinations. -/
def State.tensorDests (s : State) (op : Issued) : List Nat :=
  [0, 1].filterMap fun i =>
    let r := op.dout i
    if refNamesSlot r && s.slotOk r then
      let t := parseT (s.peek (refHandle r) (64 * refSlot r) 64)
      if t.type = 0x10 then some t.handle else none
    else none

/-- R189: the transaction field and the index of a captured macro operation's transaction. -/
def Issued.txn (op : Issued) : Nat := bits op.word 125 2
def Issued.txid (op : Issued) : Nat := bits (leAt op.pblock 0x10 4) 24 6

/-- The ciphertext descriptor that an operation in progress acts on: its DIN0's, from the slot or from the token that it has
popped; inside a transaction, the one that the transaction recorded. -/
def State.actsOn (s : State) (d g : Nat) (op : Issued) : Option Desc :=
  let r := op.din 0
  let tok : Option (List Byte) := match ((s.die d).group g).inb.getD 0 [] with
    | e :: _ => if e.token then some (e.bytes.take 64) else none
    | [] => none
  let own : Option (List Byte) :=
    if refTok r then tok
    else if refNamesSlot r && s.slotOk r then some (s.peek (refHandle r) (64 * refSlot r) 64) else none
  let b := if op.txn = 0 then own else (mapFind (s.die d).txns op.txid).map (·.desc0)
  match b with
  | some b => let x := parseDesc b; if 1 ≤ x.type && x.type ≤ 4 then some x else none
  | none => none

/-- A descriptor committed with the ABORT flag by an operation that is stopped before its first write (R109). -/
def State.commitAbort (s : State) (j : Job) (r : Nat) (x : Desc) : State :=
  let y := { x with poison := setBit x.poison Poison.ABORT }
  let s1 := (s.writeSlot r y.toBytes).updJob j.id fun k =>
    { k with poisoned := true, outs := mapPut k.outs (s.outKey r) y.toBytes }
  if y.isCt then s1.bindDesc y else s1

/-- R109: an operation stopped before its first write commits its output descriptor with the ABORT flag: the fields of the
ciphertext that it acts on, or where that cannot be read those of the slot's earlier bytes, and the handles that the slot
already names (DEDUCED, log 24). Its lineage is that of any other output. -/
def State.abortCommit (s : State) (j : Job) (d g : Nat) (op : Issued) (i : Nat) : State :=
  let r := op.dout i
  let old := s.slotDesc r
  let x := (s.actsOn d g op).getD old
  if refNamesSlot r && s.slotOk r && (op.txn = 0 || op.txn = 3) && 1 ≤ x.type && x.type ≤ 4 then
    let pois := if x.poison = 0 then 0 else setBit x.poison Poison.INPUT
    let y := { x with h0 := old.h0, h1 := old.h1, h2 := old.h2, lineage := 0, poison := pois }
    if x.type = 2 then s.commitAbort j r y
    else match s.lineage j.digest op.site j.id x.M [x] false false with
      | (some l, s1) => s1.commitAbort j r { y with lineage := l }
      | (none, s1) => s1
  else s

/-- R109: the descriptors that an operation still has to commit, committed with the ABORT flag. -/
def State.abortPending (s : State) (j : Job) (r : Running) : State :=
  r.commits.foldl (fun (t : State) c => if t.slotOk c.ref then t.commitAbort j c.ref (parseDesc c.desc) else t) s

/-- R109, R48: the operation that a group has in progress is stopped: before its first write its output carries ABORT,
after it every destination is TORN: the handles of the descriptors not yet committed, the staging, partial-sum and
statistics buffers it wrote, and its tensors. -/
def State.stopGroup (s : State) (j : Job) (d g : Nat) : State :=
  let gr := (s.die d).group g
  let s1 := match gr.cur with
    | some r =>
      if r.void || !r.wrote then s.abortPending j r
      else
        let hs : List Nat := r.commits.flatMap fun (c : Commit) => (parseDesc c.desc).handles
        (hs ++ r.aux ++ s.tensorDests r.op).foldl State.tear s
    | none =>
      match gr.fifo with
      | op :: _ => if gr.inb.any (fun l => !l.isEmpty) then (s.abortCommit j d g op 0).abortCommit j d g op 1 else s
      | [] => s
  s1.updGroup d g fun x =>
    { x with fifo := [], inb := [[], [], []], outb := [[], []], cur := none, retries := 0, redo := none }

/-- R206: a stream unit stopped: a write program under way leaves its handle TORN. -/
def State.stopUnit (s : State) (d u : Nat) : State :=
  let x := (s.die d).sunit u
  let s1 := match x.prog with
    | some (_, rec') => if bitOf (leAt rec' 0 8) 24 && 0 < x.made then s.tear (leAt rec' 0 2) else s
    | none => s
  (s1.updSunit d u fun _ => {}).wr (R.SU_BUSY_BUSY d) (clearBit (s1.rd (R.SU_BUSY_BUSY d)) u)

/-- R281: a write that has been issued comes to where it lands: the state, and whether it was stored. A narrow write over a
row or sector that cannot be corrected is refused (R255, R293). -/
def State.landing (s : State) (f : Flight) : State × Bool :=
  let s1 := { s with flights := s.flights.filter fun g => g.seq != f.seq }
  if s1.handleOk f.handle && decide (f.off + f.bytes.length ≤ s1.hLen f.handle) then
    s1.writeBy f.handle f.off f.bytes { mid := f.mid, job := s.jobIdOn ((f.mid - 0x010) / 8) }
  else (s1, true)

/-- R281: a write that has been issued lands. -/
def State.landFlight (s : State) (f : Flight) : State := (s.landing f).1

/-- R281: the outstanding writes of a die's cores land, oldest first. -/
def State.landAll (s : State) (d : Nat) : State :=
  (s.flights.filter fun f => 0x010 + 8 * d ≤ f.mid && f.mid < 0x018 + 8 * d).foldl State.landFlight s

/-- R254, R48: a die's copies stopped: one that has written leaves its destination TORN. -/
def State.stopCopies (s : State) (d : Nat) : State :=
  (((s.die d).copies.filter fun j => 0 < j.done).map fun j => (parseT j.dst).handle).foldl State.tear s

/-- The ends of a die's queues closed (R269), its transactions closed (R192), its keys' rows discarded (R151), its
copies stopped (R254), its in-use flags cleared (R99). -/
def State.clearDie (s : State) (d : Nat) : State :=
  let s0 := ((s.closeQueues d).stopCopies d).landAll d
  let s1 := s0.updFab fun f => { f with posts := f.posts.filter (·.die != d), mems := f.mems.filter (·.die != d) }
  (s1.updDie d fun x => { x with txns := [], dill := Vector.replicate 2 {}, copies := [], exchange := false, leftover := false }).wr
    (R.BASIL_INUSE_INUSE d) 0

/-- R259: the transient buffers of a job's image unbound and zeroed; TORN and their bindings go with them. -/
def State.scrubTransient (s : State) (j : Job) : State :=
  ((mapGet [] s.slotBufs j.slot).map (·.2)).foldl (fun t h =>
    if t.handleOk h && t.hLoc h = 0 && t.hBound h then
      (((t.zeroRange h).wr (R.SPAD_HTAB0_BOUND (hDie h) (hIdx h)) 0).setTorn h 0).clearBind h
    else t) s

/-- R411: the horizons of a job's dies after it has ended. T_SCRUB is 54,614 ns. -/
def State.endHorizons (s : State) (dies : List Nat) : State :=
  dies.foldl (fun t d =>
    let left := (t.jobs.filter fun k => k.live && k.dieMap.contains d).map (·.finish)
    let none' := left.isEmpty
    t.wr (R.ADM_HORIZON_TIME d) (max (maxN left) (if none' then t.time + 54614 else 0))) s

/-- R257: the CONST handles in which a job met an uncorrectable error become STALE at its end. -/
def State.applyStale (s : State) (job : Nat) : State :=
  { (s.staleDue.filter fun p => p.1 = job).foldl (fun t p => (t.setStale p.2 1).clearBind p.2) s with
    staleDue := s.staleDue.filter fun p => p.1 != job }

/-- R365: a failed job entered in Sage's table, or Sage frozen when it is full. -/
def State.noteFailed (s : State) (job : Nat) : State :=
  if s.sage.failed.length < 256 then s.updSage fun g => { g with failed := g.failed ++ [job % 2 ^ 32] }
  else s.wr R.SAGE_STATE_FROZEN 1

/-- R463: the end of a replay: its outputs compared with the armed capture's. A replay that was ended early is not compared
(DEDUCED, log 71). -/
def State.endReplay (s : State) (j : Job) (outcome : Nat) (odig : List Byte) : State :=
  if j.replayOf = 0 then s
  else
    let same := s.captures.any fun c => c.job = j.replayOf && c.odigest = odig
    let s1 := s.wr R.RPL_STATUS_RUNNING 0
    if outcome = 1 then s1
    else if same then s1.wr R.RPL_STATUS_MATCH 1
    else (s1.wr R.RPL_STATUS_DIVERGED 1).raise
      { code := Ev.REPLAY_DIVERGED, job := j.id, detail := leAt odig 0 8 }

/-- R235 step 6, R237, R319: a job ends with an outcome (0 completed, 1 aborted, 2 failed) and a code: engines, units
and keys stop, transactions and queue ends close, then the watch records, the job record and the completion, in that
order. -/
def State.endJob (s : State) (id outcome code : Nat) : State :=
  match s.job? id with
  | none => s
  | some j0 =>
    if !j0.live then s
    else
      let running := j0.phase == .running
      let s1 : State := if running then
          j0.dieMap.foldl (fun (t : State) d =>
            let t1 := (List.range 4).foldl (fun t g => t.stopGroup j0 d g) t
            ((List.range 16).foldl (fun t u => t.stopUnit d u) t1).clearDie d) s
        else s
      let s2 : State := if j0.deadline != 0 && decide (j0.deadline < s1.time) then
          (if j0.missed then s1 else s1.raise { code := Ev.DEADLINE_MISSED, unit := Unit.POWER, job := id }).updJob id fun j => { j with missed := true }
        else s1
      let j2 := (s2.job? id).getD j0
      let (s3, odig) := s2.odigest j2
      let s4 : State := s3.endReplay j2 outcome odig
      let j4 := (s4.job? id).getD j2
      let s5 : State := s4.writeWatches j4 (outcome = 1)
      let s6 : State := (s5.toHost j4.recAddr (j4.record (s5.image j4.slot) outcome code s5.time odig))
      let s7 : State := if running then s6.scrubTransient j4 else s6
      let s8 : State := (s7.updJob id fun j => { j with phase := .ended })
      let s9 : State := { s8 with
        pendSlots := s8.pendSlots.filter fun p => !(running && j4.dieMap.contains p.2.1)
        captures := s8.captures.map fun c => if c.job = id then { c with odigest := odig } else c }
      let s10 : State := (s9.updSage fun g => { g with manifests := g.manifests.filter fun m => m.job != id }).freeJobRecs id
      let s11 : State := ((if outcome = 2 then s10.noteFailed id else s10).applyStale id).endHorizons j4.dieMap
      let s12 : State := s11.wr R.ADM_STATE_ADMITTED ((s11.jobs.filter (·.live)).length)
      s12.postOwed j4.cq j4.ring j4.tag 1 j4.sqHead
        { stage := 1, missed := j4.missed, poisoned := j4.poisoned, aborted := outcome = 1, code := code,
          result := s12.time - j4.tDoor, jobId := id }

/-- R199, R203, R237: a fault that is fatal to the job on a die: its event raised, the job ended with its code. -/
def State.fatal (s : State) (d unit site code detail : Nat) : State :=
  let id := s.jobIdOn d
  (s.raise { code := code, src := d, unit := unit, site := site, job := id, detail := detail }).endJob id 1 code

/-- R237: the job on a die ended with a code whose event has been raised. -/
def State.endJobOn (s : State) (d code : Nat) : State := s.endJob (s.jobIdOn d) 1 code

/-! ### The invariants of a natural end (R236) -/

/-- R236 on one die of a job, with the barrier checks of R229. -/
def State.dieDone (s : State) (j : Job) (logical d : Nat) : Bool :=
  let img := s.image j.slot
  let cfg := imgConfig img logical
  let x := s.die d
  !x.leftover && (List.range 128).all (fun q => (mapGet [] x.queues q).isEmpty) && x.txns.isEmpty &&
    (List.range 4).all (fun g => cfgLevel cfg g = 1 || (x.group g).issued = issueCount img logical g) &&
    (List.range 16).all (fun u => cfgLevel cfg (u / 4) = 1 || (x.sunit u).starts = (startList img logical u).length) &&
    s.rd (R.DILL_ORDER_NEXT0 d) = (imgOne img Sec.KEYORDER logical 0).length / 16 &&
    s.rd (R.DILL_ORDER_NEXT1 d) = (imgOne img Sec.KEYORDER logical 1).length / 16 &&
    s.rd (R.STRM_LAYER_COUNT d) = leAt img 0x40 4

/-- R236: every invariant holds. -/
def State.jobDone (s : State) (j : Job) : Bool :=
  (List.range j.dieMap.length).all (fun i => s.dieDone j i (j.dieMap.getD i 0)) &&
    !(s.pendSlots.any fun p => j.dieMap.contains p.2.1)

end Sys2Proof.Machine
end

