-- ==== Sys2Proof/Machine/Engine.lean ====
section
/-! DEFINITION. What every macro operation shares: the fields of its word and parameter block (R189–R192), where its
descriptors come from (R181), the order of its checks (R46), void operations and transactions (R479, R480), output
descriptors (R39, R43, R44, R47) and completion (R182, R186). -/

namespace Sys2Proof.Machine

/-! ### The macro word and the parameter block -/

def Issued.opc (op : Issued) : Nat := bits op.word 0 8
def Issued.qf (op : Issued) (i : Nat) : Nat := bits op.word (8 + 7 * i) 7
def Issued.qv (op : Issued) (i : Nat) : Bool := !op.fine && bitOf op.word (43 + i)
def Issued.ledg (op : Issued) : Nat := bits op.word 48 3
def Issued.cst (op : Issued) : Nat := bits op.word 96 16
def Issued.tk (op : Issued) : Nat := bits op.word 112 3
def Issued.tn (op : Issued) : Nat := bits op.word 115 3
def Issued.quad (op : Issued) : Bool := bitOf op.word 118
def Issued.cfg (op : Issued) : Nat := bits op.word 119 2
def Issued.opn (op : Issued) : Bool := bitOf op.word 121
def Issued.wide (op : Issued) : Bool := bitOf op.word 122
def Issued.sr (op : Issued) : Bool := bitOf op.word 123
def Issued.watch (op : Issued) : Bool := bitOf op.word 124
def Issued.keyent (op : Issued) : Nat := leAt op.pblock 0x10 2
def Issued.minlevel (op : Issued) : Nat := bits (leAt op.pblock 0x10 4) 16 7
def Issued.xf (op : Issued) : Nat := bits (leAt op.pblock 0x10 4) 30 2
def Issued.arg (op : Issued) (i : Nat) : Nat := leAt op.pblock (0x14 + 4 * i) 4

/-! ### The fine word (R196, R197) -/

def Issued.fDst (op : Issued) : Nat := bits op.word 8 8
def Issued.fSrc (op : Issued) (i : Nat) : Nat := bits op.word (16 + 8 * i) 8
def Issued.fLimb (op : Issued) : Nat := bits op.word 32 7
def Issued.fChain (op : Issued) : Nat := bits op.word 39 6
def Issued.fOpen (op : Issued) : Bool := bitOf op.word 45
def Issued.fFormat (op : Issued) : Nat := bits op.word 46 3
def Issued.fImm (op : Issued) : Nat := bits op.word 49 9

/-- The window that a selector names, and the queue it is bound to: byte w of the window map, bit 7 its EN (R98). -/
def State.windowQueue (s : State) (d w : Nat) : Option Nat :=
  let m := if w < 8 then s.rd (R.BASIL_WINMAP0_MAP d) else s.rd (R.BASIL_WINMAP1_MAP d)
  let b := bits m (8 * (w % 8)) 8
  if bitOf b 7 then some (b % 128) else none

/-- What a selector names (R197). -/
inductive Sel where
  | queue (q : Nat)
  | tile (t : Nat)
  | scalar
  | none
  | bad
  deriving DecidableEq, Repr

/-- R197, R98: a selector resolved; a window is the queue it is bound to. -/
def State.sel (s : State) (d x : Nat) : Sel :=
  if x < 0x80 then .queue x
  else if x < 0xB0 then .tile (x - 0x80)
  else if x < 0xC0 then
    match s.windowQueue d (x - 0xB0) with
    | some q => .queue q
    | none => .bad
  else if x < 0xE0 then .scalar
  else if x = 0xFF then .none
  else .bad

/-! ### Where descriptors come from (R181) -/

/-- What an input reference gives: nothing, the 64 bytes of a slot, the 64 bytes of a token, or no descriptor (whether
for an uncorrectable error, R478). -/
inductive Src where
  | absent
  | slot (b : List Byte)
  | token (b : List Byte)
  | bad (ue : Bool)
  deriving DecidableEq, Repr

def Src.bytes : Src → Option (List Byte)
  | .slot b => some b
  | .token b => some b
  | _ => none

/-- R181: a slot is pending for an operation of a group: some operation of another group has it as an output. What the
own group's operations have set never holds it. -/
def State.slotWaits (s : State) (d g r : Nat) : Bool :=
  s.pendSlots.any fun p => p.1 = refKey r && !(p.2.1 = d && p.2.2.1 = g)

/-- R181: input i of the operation at the head of a group; `none` while it must wait for a token or a pending slot.
The slot's bytes are taken as storage holds them; `bad` tells of an uncorrectable error. -/
def State.srcOf (s : State) (d g : Nat) (op : Issued) (i : Nat) : Option Src :=
  let r := op.din i
  if !refPresent r then some .absent
  else if refTok r then
    match ((s.die d).group g).inb.getD i [] with
    | e :: _ => some (if e.token then .token (e.bytes.take 64) else .bad false)
    | [] => none
  else if s.slotWaits d g r then none
  else if !s.slotOk r || s.badSlots.contains (refKey r) then some (.bad false)
  else if s.errAt (s.place (refHandle r) (64 * refSlot r)) ≥ 2 then some (.bad true)
  else some (.slot (s.peek (refHandle r) (64 * refSlot r) 64))

/-- The read of an input's slot as the part makes it, with its error handling (R478). -/
def State.touchSlot (s : State) (r : Nat) (w : Who) : State :=
  if refPresent r && !refTok r && s.slotOk r then (s.readSlot r w).st else s

/-- What an operation's check and work go by: the state, its place, and its descriptors. `geo` is the descriptor that
fixes sizes: the first ciphertext input, or the transaction's. -/
structure Ctx where
  s : State
  d : Nat
  g : Nat
  op : Issued
  src0 : Src
  src1 : Src
  txn : Option Txn

def Ctx.b0 (c : Ctx) : Option (List Byte) := c.src0.bytes
def Ctx.b1 (c : Ctx) : Option (List Byte) := c.src1.bytes

/-- A descriptor of ciphertext kind (TYPE 0x01 to 0x04). -/
def asDesc (b : Option (List Byte)) : Option Desc :=
  match b with
  | some b => let x := parseDesc b; if 1 ≤ x.type && x.type ≤ 4 then some x else none
  | none => none

/-- A tensor descriptor (TYPE 0x10). -/
def asTensor (b : Option (List Byte)) : Option TDesc :=
  match b with
  | some b => let t := parseT b; if t.type = 0x10 then some t else none
  | none => none

def Ctx.x0 (c : Ctx) : Option Desc := asDesc c.b0
def Ctx.x1 (c : Ctx) : Option Desc := asDesc c.b1
def Ctx.t0 (c : Ctx) : Option TDesc := asTensor c.b0
def Ctx.t1 (c : Ctx) : Option TDesc := asTensor c.b1
def Ctx.job (c : Ctx) : Nat := c.s.jobIdOn c.d
def Ctx.who (c : Ctx) : Who := { mid := coreMid c.d c.op.core, site := c.op.site, job := c.job }

/-- The descriptor of the transaction (R192). -/
def Ctx.txnDesc (c : Ctx) : Option Desc := c.txn.map fun t => parseDesc t.desc0

/-- The descriptor that fixes an operation's sizes. -/
def Ctx.geo (c : Ctx) : Option Desc :=
  match c.x0 with
  | some x => some x
  | none => c.txnDesc

/-- The chain of that descriptor. -/
def Ctx.chain (c : Ctx) : Chain := c.s.chainOf ((c.geo.map (·.chain)).getD 64)

/-- The descriptor that the slot of output i holds before the commit. -/
def Ctx.template (c : Ctx) (i : Nat) : Desc := c.s.slotDesc (c.op.dout i)

/-- The reference of output i: DOUT i, or for several outputs the slots from DOUT0's on (DEDUCED, log 38). -/
def Issued.outRef (op : Issued) (many : Bool) (i : Nat) : Nat :=
  if many && refNamesSlot (op.dout 0) then op.dout 0 + i * 2 ^ 16 else if many then op.dout 0 else op.dout i

/-- The descriptor that the slot of output i of several holds. -/
def Ctx.templateOf (c : Ctx) (many : Bool) (i : Nat) : Desc := c.s.slotDesc (c.op.outRef many i)

/-- What a fault knows of an output whose first input gives no descriptor: what the output's slot holds (DESIGN CHOICE,
log 163: R46 and R478 name no other source of its fields). -/
def Ctx.fallback (c : Ctx) : Desc := c.template 0

/-- The operation names an output slot that holds a descriptor of ciphertext kind. -/
def Ctx.slotForms (c : Ctx) : Bool := 1 ≤ c.fallback.type && c.fallback.type ≤ 4

/-- The tensor descriptor that an output slot holds. -/
def Ctx.tOut (c : Ctx) (i : Nat) : Option TDesc :=
  let r := c.op.dout i
  if refNamesSlot r && c.s.slotOk r && !c.s.badSlots.contains (refKey r) then
    asTensor (some (c.s.peek (refHandle r) (64 * refSlot r) 64))
  else none

/-- What an operation reads and writes: data entries by input operand, output entries by output, and its steps. -/
structure Shape where
  need : List Nat
  out : List Nat
  steps : Nat
  deriving DecidableEq, Repr

/-- What the work of an operation gives: the state, the bytes of each output, flags for POISON, the handles of buffers it
wrote itself, what a watch observes, whether it stopped after its first write (R119, R48), whether it has written to a
tensor already (R109), the statistics buffer that its completion seals, with the site (R105), and the bytes of its partial
sums and statistics. -/
structure Work where
  st : State
  outs : List (List Byte)
  flags : Nat := 0
  aux : List Nat := []
  drift : Nat := 0
  skew : Nat := 0
  torn : Bool := false
  wrote : Bool := false
  sealing : Option (Nat × Nat) := none
  auxData : List (Nat × Nat × List Byte) := []

/-- The data of an operation's input operands. -/
structure Ins where
  a : List Byte
  b : List Byte
  c : List Byte

/-- A macro operation as its table row gives it: its code and group; whether it forms and commits ciphertext
descriptors outside a transaction; its ledger primitive; whether it sums at a manifest; the context of Dill it consumes
from; whether what it waits for outside its queues is there; its check at step 1; whether its level is exhausted at step 3; its check of the key at step 4; its shape; its
work; the descriptors of its outputs; whether they all leave by Q3 and lie in slots that follow DOUT0's (RINGIFY); a
handle of its own for H0, whose region's first 64 bytes take the descriptor (SPROBE, R367); lineage records of its own (R170,
R355 row 3); the SPECIAL of its transaction's rows after it, where it changes them (R39); and the samples and waves that
Tarragon counts (R175). -/
structure OpSpec where
  opc : Nat
  group : Nat
  forms : Ctx → Bool
  ledg : Ctx → Nat
  sums : Bool := false
  keyCtx : Option Nat := none
  check : Ctx → Bool
  shapeOk : Ctx → Bool := fun _ => true
  exhausted : Ctx → Bool := fun _ => false
  key : Ctx → Option Nat × State := fun c => (none, c.s)
  constOnly : Ctx → Bool := fun _ => true
  ready : Ctx → Bool := fun _ => true
  shape : Ctx → Option Shape
  work : Ctx → Ins → Work
  outs : Ctx → List Desc
  many : Bool := false
  handle0 : Ctx → Option Nat := fun _ => none
  records : Ctx → Nat → Option (List LinRec) := fun _ _ => none
  special : Ctx → Option Nat := fun _ => none
  samples : Ctx → Nat := fun _ => 0
  waves : Ctx → Nat := fun _ => 0

/-! ### Checks that operations share -/

/-- R35, R248, R353: a present input gives a descriptor that may be used. -/
def State.srcOk (s : State) : Src → Bool
  | .absent => true
  | .bad _ => false
  | .token b => if leAt b 0 1 = 0x10 then tFieldsOk b else s.descValuesOk (parseDesc b)
  | .slot b =>
    if leAt b 0 1 = 0x10 then s.tensorOk b
    else
      let x := parseDesc b
      s.descOk b && (!x.isCt || s.boundAs x)

/-- R190: LEDG as the rule gives it; the operation that closes a rescale is RSFIN (R128), any other closes a key switch. -/
def ledgOk (op : Issued) (own : Nat) : Bool :=
  match op.txn with
  | 0 => op.ledg = own
  | 3 => op.ledg = if op.opc = 0x31 then 6 else 5
  | _ => op.ledg = 0

/-- R190: reserved bits, unused queue fields, and Basil's own fields zero elsewhere. -/
def wordOk (op : Issued) : Bool :=
  !bitOf op.word 127 && (List.range 5).all (fun i => op.qv i || op.qf i = 0) && bits (leAt op.pblock 0x10 4) 23 1 = 0 &&
    (op.opc < 0x10 || (op.tk = 0 && op.tn = 0 && !op.quad && op.cfg = 0)) && op.cfg != 3 &&
    (op.opc / 16 = 1 || op.opc = 0x42 || op.xf = 0) &&
    (op.opc = 0x04 || op.opc = 0x41 || op.opc = 0x42 || op.keyent = 0xFFFF) && (!op.sr || op.opc = 0x30) && (!op.wide || op.opc = 0x30 || op.opc = 0x31) &&
    (op.ledg != 0 && op.ledg != 1 && op.ledg != 2 || op.cst = 0 || op.opc = 0x33)

/-- R178, R265: no queue at both ends, and every queue named has a capacity. -/
def State.queuesOk (s : State) (d : Nat) (op : Issued) : Bool :=
  (List.range 5).all (fun i => !op.qv i || s.rd (R.QCH_QCFG_CAP d (op.qf i)) != 0) &&
    (List.range 3).all (fun i => [3, 4].all fun o => !(op.qv i && op.qv o && op.qf i = op.qf o))

/-- R191: a reference is well-formed: a token input names no slot. -/
def refOk (r : Nat) (input : Bool) : Bool :=
  r = noRef || (!bitOf r 31 && (!(input && bitOf r 30) || r % 2 ^ 30 = 0x3FFF_FFFF))

/-- R192: the transaction named is in the state that TXN needs. -/
def State.txnOk (s : State) (d : Nat) (op : Issued) : Bool :=
  match op.txn with
  | 0 => true
  | 1 => (mapFind (s.die d).txns op.txid).isNone
  | _ => (mapFind (s.die d).txns op.txid).isSome

/-- A byte interval of a handle's range: its first and its last byte. -/
structure Span where
  handle : Nat
  lo : Int
  hi : Int
  deriving DecidableEq, Repr

/-- Two byte intervals share a byte. -/
def Span.meets (a b : Span) : Bool := a.handle = b.handle && decide (a.lo ≤ b.hi) && decide (b.lo ≤ a.hi)

/-- R107: the byte intervals of a ciphertext, CARRY or LWE-batch operand. -/
def Desc.spans (x : Desc) : List Span :=
  (x.handles.filter (· != nullHandle)).map fun h => ⟨h, 0, (x.handleBytes : Int) - 1⟩

/-- R107: the byte interval of a tensor operand. -/
def TDesc.spans (t : TDesc) : List Span := [⟨t.handle, t.interval.1, t.interval.2⟩]

/-- R107: no output range of an operation, whose output descriptors are given, meets a source range of it. -/
def Ctx.disjoint (c : Ctx) (ys : List Desc) : Bool :=
  let ins := ([c.x0, c.x1].filterMap id).flatMap (·.spans) ++ ([c.t0, c.t1].filterMap id).flatMap (·.spans)
  let outs := ((List.range ys.length).flatMap fun i =>
      let t := c.template i
      let y := ys.getD i {}
      { y with h0 := t.h0, h1 := t.h1, h2 := t.h2 : Desc }.spans) ++ ([c.tOut 0, c.tOut 1].filterMap id).flatMap (·.spans)
  ins.all fun a => outs.all fun b => !a.meets b

/-- R263, R245: the handles of an output template that a descriptor will use carry CT. -/
def Ctx.outHandlesOk (c : Ctx) (i polys : Nat) (probe : Bool) : Bool :=
  let r := c.op.dout i
  if refNamesSlot r then
    let t := c.template i
    c.s.slotOk r && ([t.h0, t.h1, t.h2].take polys).all fun h => c.s.handleOk h && (probe || c.s.hAttr h Attr.CT)
  else true

/-- The handles that an operation's arguments name and that it reads: conversion, permutation and lookup tables, and the
vectors of a prologue (R193, R195). -/
def Issued.argReads (op : Issued) : List Nat :=
  (match op.opc with
   | 0x03 | 0x11 | 0x42 => [bits (op.arg 0) 0 16]
   | 0x05 => [leAt op.gblock 0x18 2, leAt op.gblock 0x1A 2]
   | _ => []).filter (· != nullHandle)

/-- The handles that an operation's arguments name and that it writes: the staging buffer, the partial sums, the statistics
and the probe region (R193). -/
def Issued.argWrites (op : Issued) : List Nat :=
  (match op.opc with
   | 0x01 | 0x02 | 0x06 => [bits (op.arg 0) 0 16]
   | 0x05 => [bits (op.arg 0) 0 16, bits (op.arg 0) 16 16]
   | 0x44 => [bits (op.arg 0) 16 16]
   | _ => []).filter (· != nullHandle)

/-- R171, R245: what the attributes of the handles that an operation names allow: no KEY or PROBE region is read, and none of
CT, KEY, PROBE, DESC or CONST is written as a working buffer; SPROBE alone writes a probe region; no descriptor names one. -/
def Ctx.attrsOk (c : Ctx) : Bool :=
  let ds := ([c.x0, c.x1].filterMap id).flatMap (·.handles) ++ ([c.t0, c.t1].filterMap id).map (·.handle)
  let os := (([c.template 0, c.template 1].flatMap fun x => [x.h0, x.h1, x.h2].filter (· != nullHandle))) ++
    (([c.tOut 0, c.tOut 1].filterMap id).map (·.handle))
  (ds ++ c.op.argReads).all (fun h => !c.s.handleOk h || !c.s.readForbidden h) &&
    os.all (fun h => !c.s.handleOk h || !(c.s.readForbidden h || c.s.hAttr h Attr.CONST)) &&
    (c.op.opc = 0x44 || c.op.argWrites.all fun h => !c.s.handleOk h || !(c.s.writeForbidden h || c.s.hAttr h Attr.DESC))

/-- R299: an operation waits while a working buffer of it has granules on a stack that issues no accesses. Which of them it
would reach first is not given, so it waits as a whole (DESIGN CHOICE, log 153). -/
def Ctx.stackWaits (c : Ctx) : Bool :=
  (c.op.argReads ++ c.op.argWrites).any fun h => c.s.handleOk h && c.s.accessWaits h 0 (c.s.hLen h)

/-- The handles that an operation names, in its descriptors or in its arguments, for R261. -/
def Ctx.named (c : Ctx) : List Nat :=
  (([c.x0, c.x1].filterMap id).flatMap (·.handles)) ++
    ([c.template 0, c.template 1].flatMap fun x => [x.h0, x.h1, x.h2].filter (· != nullHandle)) ++
    (([c.t0, c.t1, c.tOut 0, c.tOut 1].filterMap id).map (·.handle)) ++ c.op.argReads ++ c.op.argWrites

/-- R110, R132, R174: the unit of a group is stale for an operation: its entry check has not passed, or its epoch is not
the one latched. Epochs are latched as Basil, Mint 0, Mint 1, Parsley, Tarragon, Dill. -/
def State.unitStale (s : State) (d : Nat) (op : Issued) : Bool :=
  let ep (i : Nat) : Nat := op.epochs.getD i 0
  match op.opc / 16 with
  | 0 => !s.on (R.BASIL_STATUS_ENTRY_OK d) || s.rd (R.BASIL_EPOCH_EPOCH d) != ep 0
  | 1 =>
    (bitOf op.xf 0 && (!s.on (R.MINT_STATUS_ENTRY_OK0 d) || s.rd (R.MINT_EPOCH_EPOCH0 d) != ep 1)) ||
      (bitOf op.xf 1 && (!s.on (R.MINT_STATUS_ENTRY_OK1 d) || s.rd (R.MINT_EPOCH_EPOCH1 d) != ep 2))
  | 2 => !s.on (R.PARS_STATUS_ENTRY_OK0 d) || s.rd (R.PARS_EPOCH_EPOCH d) != ep 3
  | 3 => !s.on (R.PARS_STATUS_ENTRY_OK0 d) || s.rd (R.PARS_EPOCH_EPOCH d) != ep 3
  | _ => !s.on (R.TARR_STATUS_ENTRY_OK d) || s.rd (R.TARR_EPOCH_EPOCH d) != ep 4

/-- R152: Dill is stale for an operation that consumes a key. -/
def State.dillStale (s : State) (d : Nat) (op : Issued) : Bool :=
  !s.on (R.DILL_STATUS_ENTRY_OK d) || s.rd (R.DILL_EPOCH_EPOCH d) != op.epochs.getD 5 0

/-- The unit of a group accepts operations. Mint takes every operation: one that names a unit with ENABLE 0 faults (R134). -/
def State.unitOn (s : State) (d g : Nat) : Bool :=
  match g with
  | 0 => s.on (R.BASIL_CFG_ENABLE d)
  | 1 => true
  | 2 => s.on (R.PARS_CFG_ENABLE d)
  | _ => s.on (R.TARR_CFG_ENABLE d)

/-- R134: the Mint units of a mask are enabled. -/
def State.mintEnabled (s : State) (d xf : Nat) : Bool :=
  (!bitOf xf 0 || s.on (R.MINT_CFG_ENABLE0 d)) && (!bitOf xf 1 || s.on (R.MINT_CFG_ENABLE1 d))

/-- R154: a context of Dill is enabled. -/
def State.dillEnabled (s : State) (d ctx : Nat) : Bool :=
  if ctx = 0 then s.on (R.DILL_CFG_ENABLE0 d) else s.on (R.DILL_CFG_ENABLE1 d)

/-- R134, R154: the units that an operation names are enabled. -/
def Ctx.enabledOk (c : Ctx) (spec : OpSpec) : Bool :=
  (c.g != 1 || c.s.mintEnabled c.d c.op.xf) && (match spec.keyCtx with
    | some k => c.s.dillEnabled c.d k
    | none => true)

/-- STATUS of a group's unit after a fault. -/
def State.lastFault (s : State) (d g code site : Nat) : State :=
  match g with
  | 0 => (s.wr (R.BASIL_STATUS_LAST_CODE d) code).wr (R.BASIL_STATUS_LAST_SITE d) site
  | 1 => (s.wr (R.MINT_STATUS_LAST_CODE d) code).wr (R.MINT_STATUS_LAST_SITE d) site
  | 2 => (s.wr (R.PARS_STATUS_LAST_CODE d) code).wr (R.PARS_STATUS_LAST_SITE d) site
  | _ => (s.wr (R.TARR_STATUS_LAST_CODE d) code).wr (R.TARR_STATUS_LAST_SITE d) site

/-- A group's step counter advanced. -/
def State.addSteps (s : State) (d g n : Nat) : State :=
  match g with
  | 0 => s.inc (R.BASIL_STEPS_COUNT d) n
  | 1 => s.inc (R.MINT_STEPS_COUNT d) n
  | 2 => s.inc (R.PARS_STEPS_COUNT d) n
  | _ => s.inc (R.TARR_STEPS_COUNT d) n

/-- R83, R112: Basil runs an operation in a mode and a configuration: STATUS shows them, and where they differ from those of
the operation before, the change costs 64 steps and what the active stationary register held does not cross it: what it
holds then is not given (free values, log 147). -/
def State.basilRuns (s : State) (d mode cfg : Nat) : State :=
  let changed := match (s.die d).lastMode with
    | some m => m != (mode, cfg)
    | none => false
  let s1 := ((s.wr (R.BASIL_STATUS_MODE d) mode).wr (R.BASIL_STATUS_CONFIG d) cfg).updDie d fun x =>
    { x with lastMode := some (mode, cfg) }
  if changed then
    let (n, s2) := s1.fresh
    (s2.updDie d fun x => { x with statActive := [], activeLost := some n }).addSteps d 0 64
  else s1

/-- R175: Tarragon's STATUS.OP of an operation code. -/
def tarrOp (opc : Nat) : Nat := opc - 0x3F

/-- R112, R134, R175: what a group's STATUS shows of its current or last operation. SEAL and TRREL run in no mode of the
array. -/
def State.unitRuns (s : State) (d g : Nat) (op : Issued) : State :=
  match g with
  | 0 => if op.opc = 0x06 || op.opc = 0x07 then s else s.basilRuns d (b2n op.opn) op.cfg
  | 1 => s.wr (R.MINT_STATUS_MODE d) (b2n op.opn)
  | 2 => s.wr (R.PARS_STATUS_MODE d) (b2n op.opn)
  | _ => s.wr (R.TARR_STATUS_OP d) (tarrOp op.opc)

/-! ### Entries -/

/-- The entries that the graph gives an operation whose descriptors cannot (R218, R479). -/
def Ctx.graphShape (c : Ctx) : Shape :=
  let n (i dir : Nat) : Nat := if c.op.qv i then c.s.graphCount c.d c.op.site (c.op.qf i) dir else 0
  let tok (i : Nat) : Nat := b2n (refTok (c.op.din i))
  { need := [n 0 0 - tok 0, n 1 0 - tok 1, n 2 0],
    out := [n 3 1 - b2n (refTok (c.op.dout 0)), n 4 1 - b2n (refTok (c.op.dout 1))], steps := 0 }

/-- The operation with the descriptor of its output's slot in place of each input descriptor that cannot be read. -/
def Ctx.guessed (c : Ctx) : Ctx :=
  let b := Src.slot c.fallback.toBytes
  { c with src0 := if c.x0.isNone && c.slotForms then b else c.src0,
           src1 := if c.x1.isNone && refPresent (c.op.din 1) && c.slotForms then b else c.src1 }

/-- An operation's shape: its own; or the graph's entries (R218), with the steps of its table for the sizes that its output's
slot names (R479; DESIGN CHOICE, log 163). -/
def Ctx.shapeOf (c : Ctx) (spec : OpSpec) : Shape :=
  match spec.shape c with
  | some sh => sh
  | none => { c.graphShape with steps := ((spec.shape c.guessed).map (·.steps)).getD 0 }

/-- The entries that operand i needs in all, its token among them. -/
def Ctx.needOf (c : Ctx) (sh : Shape) (i : Nat) : Nat :=
  if c.op.qv i then sh.need.getD i 0 + (if i < 2 then b2n (refTok (c.op.din i)) else 0) else 0

/-- The data entries of operand i: what was popped for it, without its token. -/
def Ctx.dataOf (c : Ctx) (i : Nat) : List QEntry :=
  let es := ((c.s.die c.d).group c.g).inb.getD i []
  if i < 2 && refTok (c.op.din i) then es.drop 1 else es

/-- The bytes of an operand's entries; VOID entries count as zero (R479). -/
def entryBytes (es : List QEntry) : List Byte := es.flatMap fun e => if e.void then zeros 2048 else fit 2048 e.bytes

/-- Output bytes cut into entries with their tags. -/
def toEntries (bs : List Byte) (dataT ct : Bool) (owners : List Nat) : List QEntry :=
  (chunks 2048 bs).map fun b => { bytes := fit 2048 b, dataT := dataT, ct := ct, owners := owners }

/-- R479: n void entries. -/
def voidEntries (n : Nat) (ct : Bool) (owners : List Nat) : List QEntry :=
  List.replicate n { bytes := zeros 2048, void := true, ct := ct, owners := owners }

/-- A descriptor token. -/
def tokenEntry (x : Desc) : QEntry := { bytes := x.toBytes ++ zeros 1984, token := true }

/-! ### Completion (R182, R186) -/

/-- R186: the operation status word. -/
def statusWord (r : Running) : Nat :=
  r.code + 2 ^ 16 + b2n r.committed * 2 ^ 17 + b2n r.poisoned * 2 ^ 18 + r.op.site * 2 ^ 32

/-- R186: a group keeps the status words of its last 64 completed operations. -/
def keepHist (h : List (Nat × Nat)) (t w : Nat) : List (Nat × Nat) := (h ++ [(t, w)]).drop (h.length + 1 - 64)

/-- R186: an operation whose entries are pushed and whose descriptors are committed leaves its group. -/
def Group.finish (x : Group) : Group :=
  match x.cur with
  | some r =>
    if x.outb.all (·.isEmpty) && r.commits.isEmpty then
      { x with cur := none, hist := keepHist x.hist r.op.ticket (statusWord r), retries := 0, redo := none }
    else x
  | none => x

/-- A group with its head operation taken up: what it popped is spent, its output entries wait to be pushed. -/
def Group.begin (x : Group) (r : Running) : Group :=
  { x with fifo := x.fifo.drop 1, inb := [[], [], []], outb := r.full, cur := some { r with took := x.inb.map (·.length) },
           redo := none }

/-- R181: once an operation of a group has completed, the slots that it named and did not commit are pending no longer
(DEDUCED, log 131). -/
def State.settle (s : State) (d g ticket : Nat) : State :=
  { s with pendSlots := s.pendSlots.filter fun p => !(p.2.1 = d && p.2.2.1 = g && p.2.2.2 = ticket) }

/-- R262: a handle is TORN no longer. -/
def State.untear (s : State) (h : Nat) : State := if s.handleOk h then s.setTorn h 0 else s

/-- R104: SEAL of a statistics buffer written with SEALED = 1 and the producer's site. -/
def State.sealBuf (s : State) (h site : Nat) : State := s.write h 0 (leBytes 8 (site + 2 ^ 63))

/-- A group that has got on with its operation, completed once its entries are pushed and its descriptors committed: its status word is kept, the
buffers and tensors that it wrote are no longer TORN (R262), its statistics buffer is sealed (R104, R105), and no slot is
pending on its account (R181). -/
def State.complete (s : State) (d g : Nat) : State :=
  let s1 := (s.touchGroup d g).updGroup d g Group.finish
  match ((s.die d).group g).cur, ((s1.die d).group g).cur with
  | some r, none =>
    let s2 := if r.void then s1 else (r.aux ++ s1.tensorDests r.op).foldl State.untear s1
    (match r.sealing with
     | some (h, site) => s2.sealBuf h site
     | none => s2).settle d g r.op.ticket
  | _, _ => s1

/-! ### The order of R46 -/

/-- The POISON bit of a fault's code (R45). -/
def faultFlag (code : Nat) : Nat :=
  if code = Ev.LEVEL_EXHAUSTED then 2 ^ Poison.LEVEL
  else if code = Ev.KEYSET_MISMATCH then 2 ^ Poison.KEY
  else 2 ^ Poison.ABORT

/-- R39: the output of a key switch's closing operation: SPECIAL 0, POLYS 2, all else the transaction's. -/
def moddownOut (x : Desc) : Desc := { x with special := 0, polys := 2 }

/-- The FORM of the descriptor that a key switch's closing operation commits: a transform gives the form of its rows, any
other operation the transaction's (DEDUCED, log 83). -/
def Ctx.closeForm (c : Ctx) (x : Desc) : Nat :=
  if c.op.opc = 0x01 then 1 else if c.op.opc = 0x02 then 0 else x.form

/-- The descriptors an operation commits: its own outside a transaction; the transaction's at its close. Where a faulting
operation's input gives no descriptor, or the transaction that it closes is not open, the output keeps what its slot holds
(R46, R478; DESIGN CHOICE, log 163). -/
def Ctx.outList (c : Ctx) (spec : OpSpec) (void : Bool) : List Desc :=
  match c.op.txn with
  | 0 => if !spec.forms c then [] else if !void then spec.outs c
      else
        let ys := match c.x0 with
          | some x => (spec.outs c).map fun y => { y with level := x.level, scale := x.scale, nlimit := x.nlimit }
          | none => if refPresent (c.op.dout 0) then [c.fallback] else []
        if c.op.opc = 0x33 && ys.length = 1 then ys ++ [c.template 1] else ys
  | 3 =>
    match c.txnDesc with
    | some x => if void then [{ x with special := 0 }] else if c.op.opc = 0x31 then spec.outs c
      else [{ moddownOut x with form := c.closeForm x }]
    | none => if void && refPresent (c.op.dout 0) then [c.fallback] else []
  | _ => []

/-- R193: an operation whose operands are OPEN tensors. -/
def Issued.takesTensors (op : Issued) : Bool := op.opc = 0x05 || op.opc = 0x32 || (0x38 ≤ op.opc && op.opc ≤ 0x3F)

/-- R248: an operation that expects tensors is given no descriptor of another TYPE, and its output slots hold tensors. -/
def Ctx.kindsOk (c : Ctx) : Bool :=
  !c.op.takesTensors ||
    ((!refPresent (c.op.din 0) || c.t0.isSome) && (!refPresent (c.op.din 1) || c.t1.isSome) &&
      [0, 1].all fun i => !refPresent (c.op.dout i) || (c.tOut i).isSome)

/-- The operation closes a transaction in which an AUT recorded a Galois element and no key switch followed (R117). -/
def Ctx.unswitched (c : Ctx) : Bool :=
  c.op.txn = 3 && match c.txn with
    | some t => t.g != 0 && !t.ksip && c.op.opc != 0x04
    | none => false

/-- R192, R40: the operation that opens a transaction names its ciphertext in DIN0, without special limbs. -/
def Ctx.openerOk (c : Ctx) : Bool :=
  c.op.txn != 1 ||
    match c.x0 with
    | some x => x.type != 2 && x.special = 0
    | none => false

/-- R46 step 1 for any operation. -/
def Ctx.step1 (c : Ctx) (spec : OpSpec) : Option Nat :=
  let own := spec.ledg c
  if !(wordOk c.op && ledgOk c.op own && c.s.queuesOk c.d c.op && refOk (c.op.din 0) true && refOk (c.op.din 1) true &&
      refOk (c.op.dout 0) false && refOk (c.op.dout 1) false && c.s.txnOk c.d c.op && c.s.srcOk c.src0 &&
      c.s.srcOk c.src1 && c.enabledOk spec && c.kindsOk && c.attrsOk && (c.g != 0 || c.disjoint (c.outList spec false)) && c.openerOk &&
      !c.unswitched && (c.op.txn != 3 || c.outHandlesOk 0 2 false) && spec.check c) then some Ev.RANGE
  else if !spec.shapeOk c then some Ev.SHAPE_MISMATCH
  else none

/-- R42: the encoding's minimum level, for every ciphertext input. -/
def Ctx.belowMin (c : Ctx) : Bool :=
  c.op.minlevel != 0 && ([c.x0, c.x1].filterMap id).any fun x => x.type != 2 && decide (x.level < c.op.minlevel)

/-- R46 steps 1 to 4 in order: the fault, if any, and the state after Dill's check. -/
def Ctx.checks (c : Ctx) (spec : OpSpec) : Option Nat × State :=
  match c.step1 spec with
  | some k => (some k, c.s)
  | none =>
    if c.s.unitStale c.d c.op || (spec.keyCtx.isSome && c.s.dillStale c.d c.op) ||
        c.named.any (fun h => c.s.handleOk h && c.s.hStale h) then (some Ev.STALE_UNIT, c.s)
    else if c.belowMin || spec.exhausted c then (some Ev.LEVEL_EXHAUSTED, c.s)
    else spec.key c

/-- R47: the flags that the input descriptors pass on. -/
def inherited (xs : List Desc) : Nat :=
  let p := xs.foldl (fun a x => a ||| x.poison) 0
  if p = 0 then 0 else setBit p Poison.INPUT

/-- The flags that entry tags pass on: DATA (R182) and, for VOID entries, INPUT (R479). -/
def tagFlags (es : List QEntry) : Nat :=
  b2n (es.any (·.dataT)) * 2 ^ Poison.DATA ||| b2n (es.any (·.void)) * 2 ^ Poison.INPUT

/-- R47: POISON_IN raised for the first operation of a job that reads a poisoned input. -/
def State.notePoisonIn (s : State) (d unit site job : Nat) : State :=
  match s.job? job with
  | some j =>
    if j.poisonSeen then s
    else (s.updJob job fun j => { j with poisonSeen := true }).raise
      { code := Ev.POISON_IN, src := d, unit := unit, site := site, job := job }
  | none => s

/-- The entries of a context's key order: those of the image's KEYORDER section (R216); none while DILL_KOBASE holds null
for it (R154). -/
def State.koCount (s : State) (d ctx : Nat) : Nat :=
  let i := s.imageOn d
  let h := if ctx = 0 then s.rd (R.DILL_KOBASE_HANDLE0 d) else s.rd (R.DILL_KOBASE_HANDLE1 d)
  if h = nullHandle then 0 else (imgOne i.1 Sec.KEYORDER i.2 ctx).length / 16

/-- The index of a context's next entry. -/
def State.koNext (s : State) (d ctx : Nat) : Nat :=
  if ctx = 0 then s.rd (R.DILL_ORDER_NEXT0 d) else s.rd (R.DILL_ORDER_NEXT1 d)

/-- The next entry of a Dill context consumed (R144), with its snapshot and its rows; those of later entries stay. -/
def State.dillNext (s : State) (d ctx : Nat) : State :=
  let e := s.koNext d ctx
  let kept := ((((s.die d).dill[ctx]?).getD {}).ahead).filter fun r => decide (e < r.entry)
  let s1 := if s.koNext d ctx < s.koCount d ctx then
      (if ctx = 0 then s.inc (R.DILL_ORDER_NEXT0 d) 1 else s.inc (R.DILL_ORDER_NEXT1 d) 1)
    else s
  s1.updDie d fun x => { x with dill := x.dill.setIfInBounds ctx { ahead := kept } }

/-- A consuming operation may go on: Dill has taken the snapshot of the next entry, or there is none left. -/
def State.dillReady (s : State) (d ctx : Nat) : Bool :=
  s.koCount d ctx ≤ s.koNext d ctx || (((s.die d).dill[ctx]?).getD {}).active

/-- The ciphertext inputs of an operation for the merge (R355): its own, or those of its transaction, each distinct
descriptor once. -/
def Ctx.ctIns (c : Ctx) : List (List Byte) :=
  let own := [c.b0, c.b1].filterMap id |>.filter fun b => (parseDesc b).isCt
  match c.txn with
  | some t => own.foldl (fun l b => if l.contains b then l else l ++ [b]) t.ins
  | none => own

/-- Plaintext inputs carry CONST in H0 (row 5 of R355). -/
def Ctx.plainConst (c : Ctx) : Bool :=
  ([c.x0, c.x1].filterMap id).all fun x => x.type != 2 || (c.s.handleOk x.h0 && c.s.hAttr x.h0 Attr.CONST)

/-- R39, R43, R44, R46, R181: output i formed: handles from its slot, POISON, the ledger, lineage. Gives the state, the
descriptor and whether lineage could be assigned. -/
def State.formOut (s : State) (c : Ctx) (spec : OpSpec) (i : Nat) (x : Desc) (flags : Nat) (void : Bool) (noise : Nat) :
    State × Desc × Bool :=
  let t := c.templateOf spec.many i
  let n := if x.type = 4 then 1 else x.polys
  let hs (k h : Nat) : Nat := if k < n && refNamesSlot (c.op.outRef spec.many i) then h else nullHandle
  let above := !void && decide (x.nlimit < noise) && x.type != 2
  let pois := flags ||| (b2n above * 2 ^ Poison.NOISE)
  let y := { x with h0 := (spec.handle0 c).getD (hs 0 t.h0), h1 := hs 1 t.h1, h2 := hs 2 t.h2, noise := if x.type = 2 then 0 else noise, poison := pois, lineage := 0 }
  let s1 := if above then s.raise { code := Ev.NOISE_BOUND, src := c.d, unit := c.g, site := c.op.site, job := c.job } else s
  if x.type = 2 then (s1, y, true)
  else
    let D := ((s.jobOn c.d).map (·.digest)).getD []
    let const := spec.constOnly c && c.plainConst && ((c.txn.map (·.constOnly)).getD true)
    match (match spec.records c i with
      | some rs => s1.assignRecs c.op.site c.job rs
      | none => s1.lineage D c.op.site c.job x.M (c.ctIns.map parseDesc) const spec.sums) with
    | (some l, s2) => (s2, { y with lineage := l }, true)
    | (none, s2) => (s2, y, false)

/-- R117: whether the transaction's opener or an AUT records a Galois element. -/
def Ctx.galois (c : Ctx) : Nat :=
  if c.op.opc = 0x10 then c.op.arg 0 else (c.txn.map (·.g)).getD 0

/-- The ledger's result for output i (R43): of a standalone operation from its inputs, of a close from the
transaction's descriptor. FOLDC's second output takes SETC(C2) (R71). -/
def Ctx.noiseOf (c : Ctx) (spec : OpSpec) (i : Nat) (x : Desc) (void : Bool) : Nat :=
  let a := ((if c.op.txn = 0 then c.x0 else c.txnDesc).map (·.noise)).getD x.noise
  let b := (c.x1.map (·.noise)).getD 0
  if void then a
  else if c.op.opc = 0x33 then (if i = 0 then ledger 5 a 0 c.op.cst 0 else c.op.arg 0 % 2 ^ 16)
  else
    let dropped := (c.txnDesc.map fun t => t.level - x.level).getD 0
    ledger (if c.op.txn = 0 then spec.ledg c else c.op.ledg) a b c.op.cst
      (lambdaTop c.chain ((c.txnDesc.map (·.level)).getD 0) dropped)

/-- The transaction's entry after an operation has acted on it (R192, R480). A key-switch inner product and a mod-up work
on rows with the special limbs, and a mod-down leaves them (R39); `special` says so of the operation's own rows. -/
def Ctx.txnAfter (c : Ctx) (spec : OpSpec) (void : Bool) (flags : Nat) : Txn :=
  let t : Txn := c.txn.getD { desc0 := c.b0.getD [], desc1 := c.b1.getD [], ins := [], constOnly := true, voided := false,
                              flags := 0, g := 0 }
  { t with ins := c.ctIns, constOnly := t.constOnly && spec.constOnly c && c.plainConst, voided := t.voided || void,
           flags := t.flags ||| flags, g := if c.op.opc = 0x10 then c.op.arg 0 else t.g,
           ksip := t.ksip || c.op.opc = 0x04, special := if void then t.special else (spec.special c).getD t.special }

/-- The state with the transaction entry of an operation opened, changed or closed. An operation that names an entry in the
wrong state has faulted before any write and leaves the table as it was (R192). -/
def State.putTxn (s : State) (c : Ctx) (spec : OpSpec) (void : Bool) (flags : Nat) : State :=
  if !c.s.txnOk c.d c.op then s
  else match c.op.txn with
  | 0 => s
  | 3 => s.updDie c.d fun x => { x with txns := mapDel x.txns c.op.txid }
  | _ => s.updDie c.d fun x => { x with txns := mapPut x.txns c.op.txid (c.txnAfter spec void flags) }

/-- R183, R339: the vector entries that an operation pushes for an output descriptor carry the CT tag where they hold
ciphertext residues: the descriptor is a ciphertext's, or the operation acts in a transaction on one (DEDUCED, log 54). -/
def Ctx.tagCt (c : Ctx) (y : Option Desc) : Bool :=
  ((y.map (·.isCt)).getD false) || (c.op.txn != 0 && (((if c.op.txn = 1 then c.x0 else c.txnDesc).map (·.isCt)).getD false))

/-- The outputs of an operation formed one after another: the state, the descriptors, and whether lineage could be assigned
to every one. -/
def State.formOuts (s : State) (c : Ctx) (spec : OpSpec) (void : Bool) (flags : Nat) : State × List Desc × Bool :=
  let xs := c.outList spec void
  (List.range xs.length).foldl (fun (acc : State × List Desc × Bool) i =>
    let x := xs.getD i {}
    let (t, y, ok) := acc.1.formOut c spec i x flags void (c.noiseOf spec i x void)
    (t, acc.2.1 ++ [y], acc.2.2 && ok)) (s, [], true)

/-- The entries that an operation pushes through output i: a token where the output has one, then void entries or its data. -/
def Ctx.entriesOut (c : Ctx) (spec : OpSpec) (sh : Shape) (ys : List Desc) (void : Bool) (flags : Nat) (w : Work) (i : Nat) :
    List QEntry :=
  let one (i : Nat) : List QEntry :=
    let y := ys[if ys.length ≤ i then 0 else i]?
    let owners := (y.map (·.handles)).getD []
    let toks := match ys[i]? with
      | some y => if refTok (c.op.outRef spec.many i) then [tokenEntry { y with poison := clearBit y.poison Poison.DATA }] else []
      | none => []
    toks ++ (if void then voidEntries (sh.out.getD i 0) (c.tagCt y) owners
      else toEntries (w.outs.getD i []) (bitOf flags Poison.DATA) (c.tagCt y) owners)
  if !c.op.qv (3 + i) then []
  else if spec.many then (if i = 0 then (List.range ys.length).flatMap one else [])
  else one i

/-- What a group keeps of an operation whose outputs have been formed. -/
def Ctx.running (c : Ctx) (spec : OpSpec) (ys : List Desc) (code : Nat) (void : Bool) (w : Work)
    (full : List (List QEntry)) : Running :=
  let commits := ((List.range ys.length).filter fun i => refNamesSlot (c.op.outRef spec.many i)).map fun i =>
    { ref := c.op.outRef spec.many i, desc := (ys.getD i {}).toBytes, out := if spec.many then 0 else i, seen := !void,
      drift := w.drift, skew := w.skew : Commit }
  let own : List Commit := match spec.handle0 c, ys with
    | some h, y :: _ => if void then [] else [{ ref := h, desc := y.toBytes, out := 0, seen := false, drift := 0, skew := 0 }]
    | _, _ => []
  { op := c.op, code := code, void := void, commits := commits ++ own, aux := w.aux,
    poisoned := ys.any fun y => y.poison != 0, committed := false, wrote := w.wrote || !w.aux.isEmpty,
    full := full, sealing := if void then none else w.sealing, auxData := w.auxData }

/-- R181: the slots that an operation will commit are pending from here on, where they were not from its issue on: those of a
RINGIFY whose batch was not known then (DEDUCED, log 146). -/
def State.awaitSlots (s : State) (d g : Nat) (r : Running) : State :=
  let ps := r.commits.filterMap fun k =>
    let p := (refKey k.ref, d, g, r.op.ticket)
    if refNamesSlot k.ref && r.op.opc = 0x43 && !s.pendSlots.contains p then some p else none
  { s with pendSlots := s.pendSlots ++ ps }

/-- What is left of an operation once its checks and its work are done: outputs formed, tokens and entries made, the
transaction written, the group started on its pushes. -/
def State.conclude (s : State) (c : Ctx) (spec : OpSpec) (sh : Shape) (code : Nat) (void : Bool) (flags : Nat) (w : Work) :
    State :=
  let f0 := flags ||| w.flags
  let (s1, ys, ok) := s.formOuts c spec void f0
  if !ok then s1.endJobOn c.d Ev.LINEAGE_FULL
  else
    let s2 := ((s1.putTxn c spec void f0).addSteps c.d c.g sh.steps).unitRuns c.d c.g c.op
    let full := [c.entriesOut spec sh ys void f0 w 0, c.entriesOut spec sh ys void f0 w 1]
    let s3 := if void || c.g != 3 then s2
      else (s2.inc (R.TARR_SAMPLES_COUNT c.d) (spec.samples c)).inc (R.TARR_WAVES_COUNT c.d) (spec.waves c)
    let r := c.running spec ys code void w full
    ((s3.awaitSlots c.d c.g r).updGroup c.d c.g fun x => x.begin r).complete c.d c.g

/-- The context of the operation at a group's head; `none` while an input must wait. -/
def State.ctxOf (s : State) (d g : Nat) (op : Issued) : Option Ctx :=
  match s.srcOf d g op 0, s.srcOf d g op 1 with
  | some a, some b =>
    some { s := s, d := d, g := g, op := op, src0 := a, src1 := b,
           txn := if op.txn = 0 || op.txn = 1 then none else mapFind (s.die d).txns op.txid }
  | _, _ => none

/-- R266: an entry of the wrong kind has been popped for an operand. -/
def Ctx.wrongKind (c : Ctx) : Bool := [0, 1, 2].any fun i => (c.dataOf i).any (·.token)

/-- A fault of an operation that commits nothing, and whose transaction commits nothing for it, ends the job (R199): outside
a transaction, or where its transaction entry was not in the state it needs (DEDUCED, log 135). -/
def Ctx.isFatal (c : Ctx) (spec : OpSpec) : Bool :=
  (c.op.txn = 0 && !spec.forms c) || ((c.op.txn = 1 || c.op.txn = 2) && !c.s.txnOk c.d c.op)

/-- R450: bits 31:0 of CDn.DILL_MISMATCH. -/
def State.mismatchWord (s : State) (d : Nat) : Nat :=
  let f (x : Fld) : Nat := s.rd x * 2 ^ x.lo
  (f (R.DILL_MISMATCH_CAUSE d) + f (R.DILL_MISMATCH_CTX d) + f (R.DILL_MISMATCH_DIGIT d)) % 2 ^ 32

/-- R119, R48: an operation that faults with RANGE after its first write commits nothing and leaves its destination
handles TORN; one that commits no descriptor ends the job (R199). -/
def State.tornStop (s : State) (c : Ctx) (spec : OpSpec) (sh : Shape) (base : Nat) : State :=
  let s1 := s.lastFault c.d c.g Ev.RANGE c.op.site
  if c.isFatal spec then s1.fatal c.d c.g c.op.site Ev.RANGE 0
  else
    let s2 := s1.raise { code := Ev.RANGE, src := c.d, unit := c.g, site := c.op.site, job := c.job }
    let hs := [c.template 0, c.template 1].flatMap fun x => [x.h0, x.h1, x.h2].filter (· != nullHandle)
    let s3 := if c.op.txn = 0 then hs.foldl State.tear s2 else s2
    ((s3.conclude c spec sh Ev.RANGE true (base ||| faultFlag Ev.RANGE) { st := s3, outs := [] }).updGroup c.d c.g fun x =>
      if c.op.txn = 0 then { x with cur := x.cur.map fun r => { r with commits := [] } } else x).complete c.d c.g

/-- The state in which an operation's checks are made: its slots have been read, and POISON_IN raised where it is the first
to read a poisoned input. -/
def Ctx.opened (c : Ctx) : State :=
  let s0 := (c.s.touchSlot (c.op.din 0) c.who).touchSlot (c.op.din 1) c.who
  if inherited ([c.x0, c.x1].filterMap id) = 0 then s0 else s0.notePoisonIn c.d c.g c.op.site c.job

/-- The POISON flags that an operation starts from: its inputs', its entries', and its transaction's. -/
def Ctx.flagsIn (c : Ctx) : Nat :=
  let carried := (c.txn.map (·.flags)).getD 0
  (if c.op.txn = 3 || c.op.txn = 2 then carried else 0) ||| inherited ([c.x0, c.x1].filterMap id) |||
    tagFlags (c.dataOf 0 ++ c.dataOf 1 ++ c.dataOf 2)

/-- R46 steps 1 to 4 as an operation meets them: its fault, if any, and the state after the checks. -/
def Ctx.verdict (c : Ctx) (spec : OpSpec) : Option Nat × State :=
  if c.wrongKind then (some Ev.RANGE, c.opened) else { c with s := c.opened }.checks spec

/-- The key entry of an operation that consumes one is spent (R144). -/
def State.spendKey (s : State) (d : Nat) (spec : OpSpec) : State :=
  match spec.keyCtx with
  | some k => s.dillNext d k
  | none => s

/-- The work of an operation on the entries it popped. -/
def Ctx.workOf (c : Ctx) (spec : OpSpec) (s : State) : Work :=
  spec.work { c with s := s } ⟨entryBytes (c.dataOf 0), entryBytes (c.dataOf 1), entryBytes (c.dataOf 2)⟩

/-- An input gives no descriptor for an uncorrectable error (R478). -/
def Ctx.unreadable (c : Ctx) : Bool :=
  (match c.src0 with | .bad u => u | _ => false) || (match c.src1 with | .bad u => u | _ => false)

/-- R46, R144: the state after a fault that is not fatal to the job: the code is the group's last one and is raised, and the
key entry is spent. -/
def Ctx.blamed (c : Ctx) (spec : OpSpec) (code : Nat) (s : State) : State :=
  let s3 := s.lastFault c.d c.g code c.op.site
  let det := if code = Ev.KEYSET_MISMATCH then s3.mismatchWord c.d else 0
  (s3.raise { code := code, src := c.d, unit := c.g, site := c.op.site, job := c.job, detail := det }).spendKey c.d spec

/-- The POISON flags of an operation that faults: those it starts from, the fault's own, and DATA for an unreadable slot. -/
def Ctx.faultFlags (c : Ctx) (code : Nat) : Nat := c.flagsIn ||| faultFlag code ||| (b2n c.unreadable * 2 ^ Poison.DATA)

/-- A macro operation executed: R46's order, the work, the conclusion. -/
def Ctx.perform (c : Ctx) (spec : OpSpec) (sh : Shape) : State :=
  if ((c.txn.map (·.voided)).getD false) then
    (c.opened.spendKey c.d spec).conclude c spec sh 0 true c.flagsIn { st := c.opened, outs := [] }
  else
    let (fault, s2) := c.verdict spec
    match fault with
    | some code =>
      if c.isFatal spec then
        let s3 := s2.lastFault c.d c.g code c.op.site
        s3.fatal c.d c.g c.op.site code (if code = Ev.KEYSET_MISMATCH then s3.mismatchWord c.d else 0)
      else
        let s4 := c.blamed spec code s2
        s4.conclude c spec sh code true (c.faultFlags code) { st := s4, outs := [] }
    | none =>
      let w := c.workOf spec s2
      if w.torn then (w.st.spendKey c.d spec).tornStop { c with s := w.st } spec sh c.flagsIn
      else (w.st.spendKey c.d spec).conclude { c with s := w.st } spec sh 0 false c.flagsIn w

/-! ### Tile registers that two engines share (R126) -/

/-- R197: the tile register that a selector of a fine word names. -/
def tileSel (x : Nat) : List Nat := if 0x80 ≤ x && x < 0xB0 then [x - 0x80] else []

/-- The tile register that an operation writes: a fine operation's destination. -/
def Issued.tilesWritten (op : Issued) : List Nat := if op.fine then tileSel (bits op.word 8 8) else []

/-- The tile registers that an operation reads: a fine operation's sources, the destination of one that accumulates, and the
BCAST operands of a macro operation (R123). -/
def Issued.tilesRead (op : Issued) : List Nat :=
  if op.fine then
    tileSel (bits op.word 16 8) ++ tileSel (bits op.word 24 8) ++
      (if op.opc = 0x24 || op.opc = 0x3B then tileSel (bits op.word 8 8) else [])
  else if (0x20 ≤ op.opc && op.opc ≤ 0x24) || (0x38 ≤ op.opc && op.opc ≤ 0x3D) then
    [1, 2].flatMap fun i => if bits (op.arg 0) (2 * i - 2) 2 = 3 then [bits (op.arg 0) (6 * i - 2) 6] else []
  else []

/-- The operations of the other groups of a die that were issued before one and are not complete. -/
def State.othersBefore (s : State) (d g : Nat) (op : Issued) : List Issued :=
  (List.range 4).flatMap fun k => if k = g then [] else ((s.die d).group k).fifo.filter fun x => decide (x.seq < op.seq)

/-- R126: an operation must wait: an operation in progress on the other engine, issued before it, writes a tile register
that it reads, or reads one that it writes. -/
def State.tileBusy (s : State) (d g : Nat) (op : Issued) : Bool :=
  (List.range 4).any fun k => k != g && match ((s.die d).group k).fifo with
    | x :: _ => decide (x.seq < op.seq) && (op.tilesRead.any x.tilesWritten.contains || op.tilesWritten.any x.tilesRead.contains)
    | [] => false

/-- R126: an operation that was issued before and is still in flight on the other engine writes a tile register that this one
writes. -/
def State.tileClash (s : State) (d g : Nat) (op : Issued) : Bool :=
  (s.othersBefore d g op).any fun x => op.tilesWritten.any x.tilesWritten.contains

/-! ### The head of a group -/

/-- The macro operation at the head of a group of a die, if it may start. -/
def State.headMacro (s : State) (d g : Nat) : Option Issued :=
  let x := (s.die d).group g
  match x.fifo, x.cur with
  | op :: _, none => if !op.fine && (s.jobOn d).isSome && s.unitOn d g then some op else none
  | _, _ => none

/-- R193: the group whose table an operation code stands in. -/
def macroGroup (opc : Nat) : Option Nat :=
  if 1 ≤ opc && opc ≤ 0x07 then some 0
  else if opc = 0x10 || opc = 0x11 then some 1
  else if (0x20 ≤ opc && opc ≤ 0x24) || (0x28 ≤ opc && opc ≤ 0x2D) || (0x30 ≤ opc && opc ≤ 0x34) ||
    (0x38 ≤ opc && opc ≤ 0x3F) then some 2
  else if 0x40 ≤ opc && opc ≤ 0x44 then some 3
  else none

/-- R190: an operation code that names no operation of its group: it faults with RANGE before any write. It commits a
descriptor where it names an output slot that holds one. -/
def illegalSpec (g opc : Nat) : OpSpec where
  opc := opc
  group := g
  forms := Ctx.slotForms
  ledg := fun _ => 0
  check := fun _ => false
  shape := fun _ => none
  work := fun c _ => { st := c.s, outs := [] }
  outs := fun c => (c.x0.map fun x => [x]).getD []

/-- Every operand has its entries. -/
def Ctx.gathered (c : Ctx) (sh : Shape) : Bool :=
  [0, 1, 2].all fun i => decide (c.needOf sh i ≤ (((c.s.die c.d).group c.g).inb.getD i []).length)

/-- R108: an operation that was restarted after its work has its entries again: the same bits leave it. -/
def State.redo (s : State) (d g : Nat) (r : Running) : State :=
  if [0, 1, 2].all fun i => decide (r.took.getD i 0 ≤ (((s.die d).group g).inb.getD i []).length) then
    ((r.auxData.foldl (fun (t : State) a => t.write a.1 a.2.1 a.2.2) s).updGroup d g fun x => x.begin r).complete d g
  else s

/-- An operation at a group's head by a table row: it runs once its descriptors and its entries are there. -/
def State.runAs (s : State) (d : Nat) (spec : OpSpec) (op : Issued) : State :=
  match ((s.die d).group spec.group).redo with
  | some r => s.redo d spec.group r
  | none =>
    match s.ctxOf d spec.group op with
    | none => s
    | some c =>
      let sh := c.shapeOf spec
      let keyed := match spec.keyCtx with
        | some k => s.dillReady d k || !s.dillEnabled d k
        | none => true
      if c.gathered sh && keyed && spec.ready c && !c.s.tileBusy d spec.group op && !c.stackWaits then c.perform spec sh else s

/-- A table row that names a macro operation: the head of the group runs once its descriptors and its entries are
there; until then the command changes nothing. A head whose code names no operation of the group faults (R190). -/
def State.runMacro (s : State) (d : Nat) (spec : OpSpec) : State :=
  match s.headMacro d spec.group with
  | none => s
  | some op =>
    if op.opc = spec.opc then s.runAs d spec op
    else if macroGroup op.opc = some spec.group then s
    else s.runAs d (illegalSpec spec.group op.opc) op

end Sys2Proof.Machine
end

