-- ==== Sys2Proof/Machine/HostIface.lean ====
section
/-! DEFINITION. Doorbells, shadow tails, coalescing, the memory aperture and the buffer commands (R308, R313–R316,
R321). -/

namespace Sys2Proof.Machine

/-- R442: before SEC_STATE.STAGE reaches 3 the host interface answers nothing that this file does; nor does the function in
D3hot (R306; PRESUMED, log 151). -/
def State.hostUp (s : State) : Bool := 3 ≤ s.rd R.SEC_STATE_STAGE && s.rd R.SEC_STATE_STAGE ≤ 4 && !s.pcie.d3hot

/-- SQ_DOORBELL (R315, R316). -/
def execSqDoorbell (r : Fin 64) (tail : Word32) (s : State) : Host.Outcome State Fault Refusal :=
  if !s.hostUp then .next s
  else
    let ok := s.tailOk r tail.toNat
    let s1 := s.offerTail r tail.toNat
    .next (if ok && !bitOf s.poll r && s.on (R.SQ_CFG_EN r) then s1.setPoll r 1 else s1)

/-- CQ_DOORBELL (R315): completion slots freed. -/
def execCqDoorbell (c : Fin 64) (head : Word32) (s : State) : Host.Outcome State Fault Refusal :=
  if !s.hostUp then .next s
  else if headOk (s.cqSize c) (s.rd (R.CQ_STATE_HEAD c)) (s.rd (R.CQ_STATE_TAIL c)) head.toNat then
    .next (s.wr (R.CQ_STATE_HEAD c) head.toNat)
  else .next (s.raiseRange 8 Unit.HOST)

/-- EQ_DOORBELL (R315). -/
def execEqDoorbell (head : Word32) (s : State) : Host.Outcome State Fault Refusal :=
  if !s.hostUp then .next s
  else if headOk (2 ^ s.rd R.HIF_EQ_CFG_LOG2SZ) (s.rd R.HIF_EQ_STATE_HEAD) (s.rd R.HIF_EQ_STATE_TAIL) head.toNat then
    .next (s.wr R.HIF_EQ_STATE_HEAD head.toNat)
  else .next (s.raiseRange 8 Unit.HOST)

/-- R316: a shadow tail read while POLL is 1: a changed value is a doorbell write. -/
def State.shadowRead (s : State) (r tail : Nat) : State :=
  if tail = s.rd (R.SQ_STATE_TAIL r) then s else s.offerTail r tail

/-- SHADOW_POLL (R316): the shadow tail read every 2 µs while POLL is 1. -/
def execShadowPoll (r : Fin 64) (tail : BitVec 16) (s : State) : Host.Outcome State Fault Refusal :=
  if s.hostUp && bitOf s.poll r && s.on (R.SQ_CFG_EN r) then .next (s.shadowRead r tail.toNat) else .next s

/-- SHADOW_POLL_IDLE (R316): after 50 µs without a new entry POLL is cleared and the shadow read once more. -/
def execShadowPollIdle (r : Fin 64) (tail : BitVec 16) (s : State) : Host.Outcome State Fault Refusal :=
  if s.hostUp && bitOf s.poll r && s.on (R.SQ_CFG_EN r) && mapGet 0 s.shadowSeen r + 50000 ≤ s.time then
    .next ((s.setPoll r 0).shadowRead r tail.toNat)
  else .next s

/-- COALESCE_TIMER (R321): COAL_US after the first entry not yet signalled the ring's message is sent. -/
def execCoalesceTimer (c : Fin 64) (s : State) : Host.Outcome State Fault Refusal :=
  match mapFind s.coal c with
  | some (_, t0) =>
    if t0 + s.rd (R.CQ_CFG_COAL_US c) * 1000 ≤ s.time then .next (s.signalCq c) else .next s
  | none => .next s

/-! ### The aperture (R308) -/

/-- R305: the sizes that BAR4 may have, in GiB: disabled, or a power of two up to 64. -/
def bar4Sizes : List Nat := [0, 1, 2, 4, 8, 16, 32, 64]

/-- R306: what the function answers as a completer, recorded in its AER status. -/
def State.respond (s : State) (a : Answer) : State :=
  { s with answer := a, pcie := { s.pcie with ur := s.pcie.ur || a == .unsupported, ca := s.pcie.ca || a == .completerAbort } }

/-- R305, R308: the handle and offset of n bytes at an offset of a window that BAR4 decodes, where the host may reach them. -/
def State.apertureAt (s : State) (w off n : Nat) : Option (Nat × Nat) :=
  let h := s.rd (R.HIF_APWIN_HANDLE w)
  let o := s.rd (R.HIF_APWIN_OFF_2M w) * 2 ^ 21 + off
  if s.on R.HIF_CAPS_APERTURE && decide (w < s.pcie.bar4) && s.on (R.HIF_APWIN_EN w) && s.handleOk h && s.hAttr h Attr.HOST &&
      s.hBound h && decide (o + n ≤ s.hLen h) then some (h, o) else none

/-- APERTURE_READ (R308): data, Unsupported Request, or Completer Abort on an uncorrectable error. -/
def execApertureRead (w : Fin 64) (off : BitVec 30) (len : Fin 513) (ups : List Upset) (s : State) :
    Host.Outcome State Fault Refusal :=
  let s := s.plant ups
  match s.hostUp, s.apertureAt w off.toNat len with
  | true, some (h, o) =>
    if s.accessWaits h o len then .next s else
    let g := s.read h o len { mid := 0x100 }
    .next (g.st.respond (if g.ue then .completerAbort else .data g.bytes))
  | _, _ => .next (s.respond .unsupported)

/-- APERTURE_WRITE (R308, R245, R255, R293): the bytes land, or are dropped with RANGE; a write that cuts a word that cannot be
corrected is dropped too, with the error counted and raised. -/
def execApertureWrite (w : Fin 64) (off : BitVec 30) (data : List Byte) (ups : List Upset) (s : State) :
    Host.Outcome State Fault Refusal :=
  let s := s.plant ups
  if !s.hostUp then .next s
  else match s.apertureAt w off.toNat data.length with
  | some (h, o) =>
    if s.accessWaits h o data.length then .next s else
    let (s1, ok) := s.writeBy h o data { mid := 0x100 }
    .next (if ok then s1 else s1.raiseRange 8 Unit.HOST)
  | none => .next (s.raiseRange 8 Unit.HOST)

/-! ### Buffer commands (R313, R246) -/

/-- A job's image or argument block names a handle (R246, R313): the handles bound to its image, and those its inputs
name. -/
def State.namedByJob (s : State) (h : Nat) : Bool :=
  s.jobs.any fun j => j.live && (((mapGet [] s.slotBufs j.slot).any fun b => b.2 = h) || j.handles.contains h)

/-- R246: the lowest free address for a range of a space: after the end of some range, or the base, where nothing
overlaps. `taken` lists (base, length); `lim` is the end of the space. -/
def lowestFree (base lim len : Nat) (taken : List (Nat × Nat)) : Option Nat :=
  let up (a : Nat) := ceilDiv a 4096 * 4096
  let cands := base :: (taken.map fun t => max base (up (t.1 + t.2)))
  let fits (a : Nat) : Bool := decide (a + len ≤ lim) && taken.all fun t => decide (a + len ≤ t.1) || decide (t.1 + t.2 ≤ a)
  let good := cands.filter fits
  good.foldl (fun acc a => some (match acc with | some b => min a b | none => a)) none

/-- The ranges that valid handles hold in a space: LOC 2 on a die, or LOC 3. -/
def State.ranges (s : State) (loc d : Nat) : List (Nat × Nat) :=
  ((List.range 2048).filter fun h =>
    s.on (R.SPAD_HTAB0_V (hDie h) (hIdx h)) && s.hLoc h = loc && (loc = 3 || hDie h = d)).map fun h =>
      (s.rd (R.SPAD_HTAB2_SBASE (hDie h) (hIdx h)), s.hLen h)

/-- R289: the bytes of a die's die-local space, and of the part-wide space. -/
def State.spaceBytes (s : State) (loc d : Nat) : Nat :=
  if loc = 2 then (s.dieChans d).length * (slotsPerChannel - s.partSlots) * 256
  else s.partChans.length * s.partSlots * 256

/-- R460: the replay reserve in bytes. -/
def State.reserveBytes (s : State) : Nat := s.rd R.RPL_CFG_RESERVE_GIB * 2 ^ 30

/-- R246: where a range of a space goes, if there is room. -/
def State.placeRange (s : State) (loc d len : Nat) : Option Nat :=
  if loc = 3 then lowestFree 0x4000_0000 (s.spaceBytes 3 d - s.reserveBytes) len (s.ranges 3 d)
  else lowestFree 0 (s.spaceBytes 2 d) len (s.ranges 2 d)

/-- The lowest free index of a die's handle table among those given to images (R243). -/
def State.freeIndex (s : State) (d : Nat) : Option Nat :=
  (List.range 0xF0).find? fun i => !s.on (R.SPAD_HTAB0_V d i)

/-- A handle table entry of LOC 2 or 3 written (R244). -/
def State.putStackEntry (s : State) (d i loc attr len sbase slot bufno : Nat) : State :=
  (((((((((((s.wr (R.SPAD_HTAB0_V d i) 1).wr (R.SPAD_HTAB0_BOUND d i) 1).wr (R.SPAD_HTAB0_LOC d i) loc).wr
    (R.SPAD_HTAB0_ATTR d i) attr).wr (R.SPAD_HTAB0_TORN d i) 0).wr (R.SPAD_HTAB0_STALE d i) 0).wr
    (R.SPAD_HTAB1_LENGTH d i) len).wr (R.SPAD_HTAB2_SBASE d i) sbase).wr (R.SPAD_HTAB3_SLOT d i) slot).wr
    (R.SPAD_HTAB3_BUFNO d i) bufno).wr (R.SPAD_HTAB0_BANK_LO d i) 0).wr (R.SPAD_HTAB0_ROW_BASE d i) 0

/-- R246: a handle's entry freed: its range zeroed, the entry and the lineage binding of the handle cleared (R352). -/
def State.freeEntry (s : State) (h : Nat) : State :=
  let d := hDie h
  let i := hIdx h
  let s1 := (if s.hBound h then s.zeroRange h else s).clearBind h
  (((s1.wr (R.SPAD_HTAB0_V d i) 0).wr (R.SPAD_HTAB0_BOUND d i) 0).wr (R.SPAD_HTAB0_TORN d i) 0).wr (R.SPAD_HTAB0_STALE d i) 0

/-- BUFFER entries share this shape check (R311): the operation's code and the words that it leaves zero. -/
def bufferShape (e : Entry) (op : Nat) : Bool :=
  e.q 8 = op && e.q 0x30 = 0 &&
    (if op = 0 then
      bits (e.q 0x10) 3 1 = 0 && bits (e.q 0x10) 6 10 = 0 && bits (e.q 0x10) 28 36 = 0 && e.q 0x20 = 0 && e.q 0x28 = 0
    else bits (e.q 0x10) 16 48 = 0)

/-- An entry of a kind is read when its turn comes (R314); what it then does is given. -/
def State.onEntry (s : State) (r : Nat) (bytes : List Byte) (need : Nat) (f : State → Entry → State) : State :=
  if s.hostUp && s.mayRead r need then
    let (s1, e) := s.readEntry r bytes
    f s1 e
  else s

/-- R313, R244, R246: a BUFFER CREATE entry asks for what may be created: LOC 2 or 3, ATTR drawn from DESC, CRD, CWR and
HOST, a die in service. The length is a multiple of 2,048 (R244) and above zero (DEDUCED, log 5). -/
def State.createOk (s : State) (e : Entry) : Bool :=
  let attr := bits (e.q 0x10) 16 12
  let size := e.q 0x18
  let attrOk := attr &&& (2 ^ 12 - 1 - (2 ^ Attr.DESC + 2 ^ Attr.CRD + 2 ^ Attr.CWR + 2 ^ Attr.HOST)) = 0 &&
    !(bitOf attr Attr.HOST && bitOf attr Attr.DESC)
  s.entryOk e && e.kind = 5 && bufferShape e 0 && decide (2 ≤ bits (e.q 0x10) 4 2) && attrOk &&
    s.inServ (bits (e.q 0x10) 0 3) && size % 2048 = 0 && decide (0 < size) && decide (size < 2 ^ 48)

/-- BUFFER_CREATE (R313, R246): a handle created; the completion returns it. -/
def execBufferCreate (r : Fin 64) (entry : List Byte) (s : State) : Host.Outcome State Fault Refusal :=
  .next (s.onEntry r entry 1 fun s e =>
    let d := bits (e.q 0x10) 0 3
    let loc := bits (e.q 0x10) 4 2
    if s.createOk e then
      match s.freeIndex d, s.placeRange loc d (e.q 0x18) with
      | some i, some b =>
        (s.putStackEntry d i loc (bits (e.q 0x10) 16 12) (e.q 0x18) b 0xF 0).postFor e { result := d * 256 + i }
      | _, _ => s.refuseEntry e Ev.RANGE Unit.HOST
    else s.refuseEntry e Ev.RANGE Unit.HOST)

/-- R246, R313: a BUFFER FREE entry names a host buffer that no admitted job names. Only an entry that a host command
created is freed by one: neither an image's nor a key region's (DEDUCED, log 5). -/
def State.freeOk (s : State) (e : Entry) : Bool :=
  let h := bits (e.q 0x10) 0 16
  s.entryOk e && e.kind = 5 && bufferShape e 1 && e.q 0x18 = 0 && e.q 0x20 = 0 && e.q 0x28 = 0 && s.handleOk h &&
    !s.namedByJob h && s.rd (R.SPAD_HTAB3_SLOT (hDie h) (hIdx h)) = 0xF && !s.hAttr h Attr.KEY && decide (hIdx h < 0xF0)

/-- BUFFER_FREE (R246, R313): a host buffer's entry freed. -/
def execBufferFree (r : Fin 64) (entry : List Byte) (s : State) : Host.Outcome State Fault Refusal :=
  .next (s.onEntry r entry 1 fun s e =>
    if s.freeOk e then (s.freeEntry (bits (e.q 0x10) 0 16)).postFor e {}
    else s.refuseEntry e Ev.RANGE Unit.HOST)

/-- The part of the BUFFER WRITE and READ rules that both share (R313). -/
def State.bufferRange (s : State) (e : Entry) (op : Nat) : Option (Nat × Nat × Nat) :=
  let h := bits (e.q 0x10) 0 16
  let o := e.q 0x18
  let n := e.q 0x28
  if s.entryOk e && e.kind = 5 && bufferShape e op && aligned64 (e.q 0x20) && o % 64 = 0 && n % 64 = 0 && s.handleOk h &&
      s.hBound h && decide (o + n ≤ s.hLen h) && !s.namedByJob h then some (h, o, n) else none

/-- BUFFER_WRITE (R313): host memory copied into the range; refused on CT, KEY, PROBE or CONST; a write of the whole
range clears TORN (R262), and any write clears the handle's lineage binding (R352). A write that cuts a scratchpad row whose stored word is uncorrectable is refused. -/
def execBufferWrite (r : Fin 64) (entry : List Byte) (data : List Byte) (ups : List Upset) (s : State) :
    Host.Outcome State Fault Refusal :=
  .next ((s.plant ups).onEntry r entry 1 fun s e =>
    match s.bufferRange e 2 with
    | some (h, o, n) =>
      if s.writeForbidden h then s.refuseEntry e Ev.RANGE Unit.HOST
      else
        let (s0, ok) := s.writeBy h o (fit n data) { mid := 0x100 + e.ring }
        let s1 := s0.clearBind h
        if ok then (if o = 0 && n = s.hLen h then s1.setTorn h 0 else s1).postFor e {} else s0.refuseEntry e Ev.RANGE Unit.HOST
    | none => s.refuseEntry e Ev.RANGE Unit.HOST)

/-- BUFFER_READ (R313): the range copied to host memory; refused on KEY or PROBE. A failed word is read as zero and the
completion carries ECC_UE (DESIGN CHOICE, log 6). -/
def execBufferRead (r : Fin 64) (entry : List Byte) (ups : List Upset) (s : State) : Host.Outcome State Fault Refusal :=
  .next ((s.plant ups).onEntry r entry 1 fun s e =>
    match s.bufferRange e 3 with
    | some (h, o, n) =>
      if s.readForbidden h then s.refuseEntry e Ev.RANGE Unit.HOST
      else
        let g := s.read h o n { mid := 0x100 + e.ring }
        (g.st.toHost (e.q 0x20) g.bytes).postFor e { code := if g.ue then Ev.ECC_UE else 0 }
    | none => s.refuseEntry e Ev.RANGE Unit.HOST)

end Sys2Proof.Machine
end

