-- ==== Sys2Proof/Machine/Stacked.lean ====
section
/-! DEFINITION. Stacked memory's own events (R293, R296, R300, R301): the patrol scrub, the in-die error counts, the
traffic generators and margining. -/

namespace Sys2Proof.Machine

/-- PATROL_SCRUB (R296, R297): every usable sector of the stacks that issue accesses, in a die's channels, read: corrected and written back, or
reported with MID 0x000. -/
def execPatrolScrub (d : DieId) (ups : List Upset) (s : State) : Host.Outcome State Fault Refusal :=
  let s := s.plant ups
  .next <|
    if s.inServ d then
      (s.die d).stackErr.foldl (fun t p =>
        let place : Place := ⟨d, false, p.1, p.1 * 64⟩
        if bitOf (t.rd (R.MEM_CHMAP_INSERV d)) place.col && !t.stackShut d (place.col / 16) then
          if p.2 = 1 then t.eccCe place { mid := 0 } else t.eccUe place { mid := 0 }
        else t) s
    else s

/-- ODECC_POLL (R293): the memory dies' error counts added to MEM_ODECC. -/
def execOdeccPoll (d : DieId) (counts : List Nat) (s : State) : Host.Outcome State Fault Refusal :=
  .next (if s.inServ d then s.inc (R.MEM_ODECC_COUNT d) (sumN counts) else s)

/-- The granules (channel of the die, slot) that a handle's range holds on a die. -/
def State.granulesOn (s : State) (h d : Nat) : List (Nat × Nat) :=
  let b := s.rd (R.SPAD_HTAB2_SBASE (hDie h) (hIdx h))
  ((List.range (ceilDiv (b % 256 + s.hLen h) 256)).map fun k => s.place h (k * 256)).filterMap fun p =>
    if p.spad || p.die != d then none else some (p.col, p.unit / 4 % 2 ^ 24)

/-- A slot range of the channels in a mask meets a valid handle's range (R300). -/
def State.slotsInUse (s : State) (d mask lo n : Nat) : Bool :=
  (List.range 2048).any fun h =>
    s.on (R.SPAD_HTAB0_V (hDie h) (hIdx h)) && decide (2 ≤ s.hLoc h) &&
      (s.granulesOn h d).any fun g => bitOf mask g.1 && decide (lo ≤ g.2) && decide (g.2 < lo + n)

/-- The time on a die's counter at which its horizon ends: the earliest schedule gap (R300, R420). -/
def State.earliestGap (s : State) (d : Nat) : Nat := (s.die d).time + s.rd (R.ADM_HORIZON_TIME d) - s.time

/-- MEM_TG_START (R13, R300): a write to MEM_TG_CTL, and with START a traffic generator request, which a deferred answer gives
the earliest gap (DESIGN CHOICE, log 155: the manual names no register for it). A slot range that passes the channel's end is
refused with RANGE (DEDUCED, log 23). -/
def execMemTgStart (mid : BitVec 12) (d : DieId) (value : Word64) (s : State) : Host.Outcome State Fault Refusal :=
  let v := value.toNat
  let lo := bits v 52 12 * 4096
  let n := bits v 40 12 * 4096
  let mask := bits v 0 32
  let outcome (t : State) (r df : Nat) : State :=
    (((t.wr (R.MEM_TG_RESULT_DONE d) 0).wr (R.MEM_TG_RESULT_REFUSED d) r).wr (R.MEM_TG_RESULT_DEFERRED d) df).wr
      (R.MEM_TG_CTL_START d) 0
  .next <|
    if !s.present d then s
    else if !(isMgmt mid.toNat || mid.toNat = 0x200) then
      (if s.on (R.MEM_TG_CTL_START d) then s else outcome s 1 0).raiseRange d Unit.MEMORY
    else
      let s1 := ((((s.wr (R.MEM_TG_CTL_MASK d) mask).wr (R.MEM_TG_CTL_PATTERN d) (bits v 32 2)).wr
        (R.MEM_TG_CTL_SLOTS_4K d) (bits v 40 12)).wr (R.MEM_TG_CTL_SLOT_LO d) (bits v 52 12))
      if !bitOf v 34 || s.on (R.MEM_TG_CTL_START d) then s1
      else if s.dieBound d then { outcome s1 0 1 with answer := .earliest (s.earliestGap d) }
      else if s.slotsInUse d mask lo n || decide (slotsPerChannel < lo + n) then (outcome s1 1 0).raiseRange d Unit.MEMORY
      else ((outcome s1 0 0).wr (R.MEM_TG_CTL_START d) 1).updDie d fun x => { x with tg := some (mask, bits v 32 2, lo, n) }

/-- MEM_TG_DONE (R300): the pattern is left in the slots tested and the mismatches are reported. -/
def execMemTgDone (d : DieId) (mismatch : Nat) (s : State) : Host.Outcome State Fault Refusal :=
  .next <|
    match (s.die d).tg with
    | some (mask, pat, lo, n) =>
      let tested (chan slot : Nat) : Bool :=
        bitOf mask chan && bitOf (s.rd (R.MEM_CHMAP_INSERV d)) chan && decide (lo ≤ slot) && decide (slot < lo + n)
      let clear := s.updDie d fun x =>
        { x with
          stack := x.stack.filter fun p => !tested (p.1 / 2 ^ 32) (p.1 / 256 % 2 ^ 24)
          stackErr := x.stackErr.filter fun p => !tested (p.1 / 2 ^ 26) (p.1 / 4 % 2 ^ 24)
          tg := none }
      let filled := if pat = 3 then clear else
        ((List.range 32).filter fun c => tested c lo).foldl (fun t c =>
          (List.range n).foldl (fun t i => t.updDie d fun x =>
            let bs := (List.range 256).map (Config.tgPattern pat c (lo + i))
            { x with stack := mapPutBytes x.stack ((c * 2 ^ 24 + lo + i) * 256) bs }) t) clear
      ((((filled.wr (R.MEM_TG_CTL_START d) 0).wr (R.MEM_TG_RESULT_DONE d) 1).wr (R.MEM_TG_RESULT_REFUSED d) 0).wr
        (R.MEM_TG_RESULT_DEFERRED d) 0).wr (R.MEM_TG_RESULT_MISMATCH d) (min mismatch (2 ^ 32 - 1))
    | none => s

/-- MARGIN_START (R301): from the security processor, or the debug port once the service identity is authenticated;
channel 0 of the stack must be in service. -/
def execMarginStart (mid : BitVec 12) (d : DieId) (stack : Fin 2) (s : State) : Host.Outcome State Fault Refusal :=
  let outcome (t : State) (r df st : Nat) : State :=
    (((t.wr (R.MEM_MARGIN_CTL_DONE d) 0).wr (R.MEM_MARGIN_CTL_REFUSED d) r).wr (R.MEM_MARGIN_CTL_DEFERRED d) df).wr
      (R.MEM_MARGIN_CTL_START d) st
  .next <|
    if !s.present d then s
    else if !(mid.toNat = 1 || (mid.toNat = 0x200 && s.on R.SEC_STATE_SERVICE)) then
      (if s.on (R.MEM_MARGIN_CTL_START d) then s else outcome s 1 0 0).raiseRange d Unit.MEMORY
    else if s.on (R.MEM_MARGIN_CTL_START d) then s
    else
      let s1 := s.wr (R.MEM_MARGIN_CTL_STACK d) stack
      if !bitOf (s.rd (R.MEM_CHMAP_INSERV d)) (16 * stack.val) then (outcome s1 1 0 0).raiseRange d Unit.MEMORY
      else if s.dieBound d then outcome s1 0 1 0
      else outcome s1 0 0 1

/-- MARGIN_DONE (R301): the shadowed slots are back as they were and the widest passing windows are reported. -/
def execMarginDone (d : DieId) (window : BitVec 34) (s : State) : Host.Outcome State Fault Refusal :=
  let w := window.toNat
  .next <|
    if s.on (R.MEM_MARGIN_CTL_START d) then
      let s1 := (s.wr (R.MEM_MARGIN_CTL_START d) 0).wr (R.MEM_MARGIN_CTL_DONE d) 1
      (((((s1.wr (R.MEM_MARGIN_RESULT_RD_LO d) (bits w 0 6)).wr (R.MEM_MARGIN_RESULT_RD_HI d) (bits w 6 6)).wr
        (R.MEM_MARGIN_RESULT_WR_LO d) (bits w 12 6)).wr (R.MEM_MARGIN_RESULT_WR_HI d) (bits w 18 6)).wr
        (R.MEM_MARGIN_RESULT_V_LO d) (bits w 24 5)).wr (R.MEM_MARGIN_RESULT_V_HI d) (bits w 29 5)
    else s

end Sys2Proof.Machine
end

