-- ==== Sys2Proof/Machine/Pace.lean ====
section
/-! DEFINITION. Pace, schedule gaps and throttling (R110, R132, R152, R174, R297–R299, R401–R420, R454–R457): the units of a
die and their entry checks, calibrations, the caps, the causes that stop admission, and the stack throttle levels. -/

namespace Sys2Proof.Machine

/-- The state with a die's pace record changed. -/
def State.updPace (s : State) (d : Nat) (f : PaceSt → PaceSt) : State := s.updDie d fun x => { x with pace := f x.pace }

/-- A die's pace record. -/
def State.paceOf (s : State) (d : Nat) : PaceSt := (s.die d).pace

/-- The floor pace in Msteps/s (R10, R414), the most (R402) and the mark of PACE_LOW (R417). -/
abbrev paceFloor : Nat := 1200
abbrev paceMax : Nat := 2000
abbrev paceLowMark : Nat := 1260

/-- The time of steps at the floor pace, in whole nanoseconds rounded up (R409, R419). -/
def floorNs (steps : Nat) : Nat := (steps * 5 + 5) / 6

/-- R406: 10 s between calibrations. -/
abbrev calPeriod : Nat := 10000000000

/-! ### The units of a die (R110, R132, R152, R174, R454, R455) -/

/-- The units with an entry check, numbered as FAILMASK numbers them (R421). -/
inductive Chk where
  | basil | mint0 | mint1 | parsley | dill | tarragon
  deriving DecidableEq, Repr

/-- A unit by its number in FAILMASK. -/
def chkOf : Fin 6 → Chk
  | 0 => .basil
  | 1 => .mint0
  | 2 => .mint1
  | 3 => .parsley
  | 4 => .dill
  | 5 => .tarragon

/-- A unit's present bit in its capability register. -/
def Chk.present (d : Nat) : Chk → Fld
  | .basil => R.BASIL_CAPS_PRESENT d
  | .mint0 => R.MINT_CAPS_PRESENT0 d
  | .mint1 => R.MINT_CAPS_PRESENT1 d
  | .parsley => R.PARS_CAPS_PRESENT d
  | .dill => R.DILL_CAPS_PRESENT d
  | .tarragon => R.TARR_CAPS_PRESENT d

/-- A unit's ENTRY_OK bit. -/
def Chk.entryOk (d : Nat) : Chk → Fld
  | .basil => R.BASIL_STATUS_ENTRY_OK d
  | .mint0 => R.MINT_STATUS_ENTRY_OK0 d
  | .mint1 => R.MINT_STATUS_ENTRY_OK1 d
  | .parsley => R.PARS_STATUS_ENTRY_OK0 d
  | .dill => R.DILL_STATUS_ENTRY_OK d
  | .tarragon => R.TARR_STATUS_ENTRY_OK d

/-- A unit's epoch. -/
def Chk.epoch (d : Nat) : Chk → Fld
  | .basil => R.BASIL_EPOCH_EPOCH d
  | .mint0 => R.MINT_EPOCH_EPOCH0 d
  | .mint1 => R.MINT_EPOCH_EPOCH1 d
  | .parsley => R.PARS_EPOCH_EPOCH d
  | .dill => R.DILL_EPOCH_EPOCH d
  | .tarragon => R.TARR_EPOCH_EPOCH d

/-- R419: the steps of a unit's entry check. -/
def Chk.steps : Chk → Nat
  | .basil => 2048
  | .mint0 => 1024
  | .mint1 => 1024
  | .parsley => 512
  | .dill => 256
  | .tarragon => 61440

/-- R449, R265: the code of a unit in events. -/
def Chk.code : Chk → Nat
  | .basil => 0
  | .mint0 => 1
  | .mint1 => 1
  | .parsley => 2
  | .dill => 0x31
  | .tarragon => 3

/-- The numbers of a die's units. -/
def chkAll : List (Fin 6) := [0, 1, 2, 3, 4, 5]

/-- R110, R132, R152: what a unit clears on its return from sleep or repair. -/
def Die.clearUnit (x : Die) : Chk → Die
  | .basil => { x with statActive := [], statIdle := [], exchange := false, activeLost := none, idleLost := none }
  | .dill => { x with dill := Vector.replicate 2 {} }
  | _ => x

/-- R110, R132, R152, R174: a unit returns from sleep or repair: its epoch advances, it clears its state and STATUS.ENTRY_OK,
and its entry check is pending. -/
def State.wakeUnit (s : State) (d : Nat) (u : Fin 6) : State :=
  let c := chkOf u
  let s1 := ((s.inc (c.epoch d) 1).wr (c.entryOk d) 0).updDie d fun x => x.clearUnit c
  let s2 := s1.updPace d fun p => { p with asleep := clearBit p.asleep u }
  match c with
  | .basil => s2.wr (R.BASIL_INUSE_INUSE d) 0
  | .dill => (s2.wr (R.DILL_ORDER_NEXT0 d) 0).wr (R.DILL_ORDER_NEXT1 d) 0
  | _ => s2

/-- R110, R419: a unit's entry check is pending: the unit is in service and its check has not passed since it last
returned, or it sleeps and must return first. -/
def State.checkPending (s : State) (d : Nat) (u : Fin 6) : Bool :=
  s.on ((chkOf u).present d) && (!s.on ((chkOf u).entryOk d) || bitOf (s.paceOf d).asleep u)

/-- R454, R455: a unit leaves service: its bit is cleared and UNIT_OUT raised; a die without Basil, Parsley or Dill
leaves service with it. -/
def State.takeUnit (s : State) (d : Nat) (u : Fin 6) : State :=
  let c := chkOf u
  let s1 := ((s.wr (c.present d) 0).wr (c.entryOk d) 0).wr R.CAPS_DEGRADED 1
  let s2 := match c with
    | .basil => s1.wr R.CAPS_DIE_INSERV (clearBit (s1.rd R.CAPS_DIE_INSERV) d)
    | .parsley => s1.wr R.CAPS_DIE_INSERV (clearBit (s1.rd R.CAPS_DIE_INSERV) d)
    | .dill => s1.wr R.CAPS_DIE_INSERV (clearBit (s1.rd R.CAPS_DIE_INSERV) d)
    | _ => s1
  s2.raise { code := Ev.UNIT_OUT, src := d, unit := c.code, detail := c.code }

/-- R408, R454: a die that fails the pace check leaves service. -/
def State.takeDie (s : State) (d : Nat) : State :=
  ((s.wr R.CAPS_DIE_INSERV (clearBit (s.rd R.CAPS_DIE_INSERV) d)).wr R.CAPS_DEGRADED 1).raise
    { code := Ev.UNIT_OUT, src := d, unit := Unit.POWER, detail := Unit.NONE }

/-! ### Schedule gaps (R419) -/

/-- R410, R419: the gap reserved for an item on a die has come: every job admitted before it has left the die. -/
def State.gapCome (s : State) (d item : Nat) : Bool :=
  match mapFind (s.paceOf d).gaps item with
  | some k => !(s.jobs.any fun j => j.live && decide (j.id < k) && j.dieMap.contains d)
  | none => false

/-- R419: a schedule gap on a die for one of its gap items: no job runs there, and either no admitted job binds it or
the gap reserved for the item has come. -/
def State.inGap (s : State) (d item : Nat) : Bool :=
  s.present d && s.power.resetn && (s.jobOn d).isNone && (!s.dieBound d || s.gapCome d item)

/-- R406: a calibration is due on a die's counter at a time. -/
def State.calDue (s : State) (d t : Nat) : Bool :=
  match (s.paceOf d).lastCal with
  | some c => decide (c + calPeriod ≤ t)
  | none => true

/-- R419: the gap items that the next job admitted to a die must be given time for: none of those already reserved. A
pending calibration request reserves what a calibration that falls due does (DEDUCED, log 69). -/
def State.gapItems (s : State) (d : Nat) : List (Nat × Nat) :=
  let p := s.paceOf d
  let at' := (s.die d).time + (s.rd (R.ADM_HORIZON_TIME d) - s.time)
  let cal := if s.calDue d at' || p.pend = 1 then [(0, floorNs 8192)] else []
  let test := if p.pend = 2 then [(1, floorNs 66304)] else []
  let checks := (chkAll.filter (s.checkPending d)).map fun u => (2 + u.val, floorNs (chkOf u).steps)
  (cal ++ test ++ checks).filter fun i => (mapFind p.gaps i.1).isNone

/-- R419: gap_ns(d). -/
def State.gapNs (s : State) (d : Nat) : Nat := sumN ((s.gapItems d).map (·.2))

/-- A gap item has run. -/
def State.gapDone (s : State) (d item : Nat) : State :=
  s.updPace d fun p => { p with gaps := mapDel p.gaps item }

/-- R421: the request of PACE_REQ has run. -/
def State.reqDone (s : State) (d : Nat) : State :=
  ((((s.updPace d fun p => { p with pend := 0, tested := 0 }).wr (R.PACE_REQ_START d) 0).wr (R.PACE_REQ_DONE d) 1).wr
    (R.PACE_REQ_DEFERRED d) 0).wr (R.PACE_EARLIEST_TIME d) 0

/-! ### Pace (R405–R408, R417) -/

/-- R406–R408: a calibration has run: the pace of the whole array and the replica rate over the same interval, and
whether the toggle check held. -/
def State.calibrate (s : State) (d pace rate : Nat) (toggles : Bool) : State :=
  let s1 := s.updPace d fun p => { p with tried := true }
  if toggles then
    let s2 := ((s1.wr (R.PACE_CAL_PACE d) (min pace 4095)).wr (R.PACE_CAL_FAILED d) 0).wr (R.PACE_NOW_STALE d) 0
    let s3 := s2.updPace d fun p => { p with lastCal := some (s.die d).time, rate := rate }
    if pace < paceFloor && s.rd (R.PACE_SENSE_VCORE d) = 800 && decide (toSigned 8 (s.rd (R.PACE_SENSE_TJ d)) ≤ 105) &&
        s.inServ d then s3.takeDie d
    else s3
  else s1.wr (R.PACE_CAL_FAILED d) 1

/-- CALIBRATION (R406, R419): in a gap of the die, after its entry checks, when one is due or requested, or reserved
there (R410; DEDUCED, log 134). -/
def execCalibration (d : DieId) (pace : BitVec 12) (rate : Word32) (toggles : Bool) (s : State) :
    Host.Outcome State Fault Refusal :=
  .next <|
    if s.inGap d 0 && (chkAll.all fun u => !s.checkPending d u) && (s.calDue d (s.die d).time || (s.paceOf d).pend = 1 ||
        (mapFind (s.paceOf d).gaps 0).isSome) then
      let s1 := (s.calibrate d pace.toNat rate.toNat toggles).gapDone d 0
      if (s.paceOf d).pend = 1 then s1.reqDone d else s1
    else s

/-- R421: ms since the last counted calibration, saturating. -/
def State.calAge (s : State) (d : Nat) : Nat :=
  match (s.paceOf d).lastCal with
  | some c => min (((s.die d).time - c) / 1000000) (2 ^ 32 - 1)
  | none => 0

/-- Since when a condition holds, carried over a sample. -/
def since (holds : Bool) (was : Option Nat) (now : Nat) : Option Nat :=
  if holds then some (was.getD now) else none

/-! ### Caps and the causes that stop admission (R414–R417) -/

/-- R415: the cap of a die: the lowest that any cause calls for. -/
def PaceSt.cap (p : PaceSt) : Nat := min (min p.setCap p.heatCap) (min p.powCap (if p.held = 0 then paceMax else paceFloor))

/-- PACE_CAP shows the cap that holds. -/
def State.showCap (s : State) (d : Nat) : State := s.wr (R.PACE_CAP_CAP d) (s.paceOf d).cap

/-- R415: the junction temperature that the power manager goes by: 105 °C while the die is held. -/
def PaceSt.tj (p : PaceSt) : Int := if p.held = 0 then p.prev.getD 0 else 105

/-- R299: a stack of a die is at level 2 or 3. -/
def State.stackHot (s : State) (d : Nat) : Bool :=
  decide (2 ≤ s.rd (R.MEM_THERM_LEVEL0 d)) || decide (2 ≤ s.rd (R.MEM_THERM_LEVEL1 d))

/-- The dies that an admitted job binds. -/
def State.boundDies (s : State) : List Nat := (List.range 8).filter s.dieBound

/-- A condition that began at a time has held for a span. -/
def heldFor (t : Option Nat) (now span : Nat) : Bool :=
  match t with
  | some t0 => decide (t0 + span ≤ now)
  | none => false

/-- R417: the first cause of DEADLINE_AT_RISK that holds, by ADM_STATE.CAUSE's numbers. -/
def State.riskCause (s : State) : Option Nat :=
  let ds := s.boundDies
  if ds.any fun d => heldFor (s.paceOf d).belowAt (s.die d).time 100000 then some 1
  else if ds.any s.stackHot then some 2
  else if !ds.isEmpty && (ds.all fun d => (s.paceOf d).cap = paceFloor) && heldFor s.power.overAt s.time 1000000 then some 3
  else if ds.any fun d => (s.paceOf d).cap = paceFloor && decide (105 ≤ (s.paceOf d).tj) then some 4
  else none

/-- R417: every die in service has held the mark of PACE_LOW. -/
def State.paceFine (s : State) : Bool := s.diesInServ.all fun d => (s.paceOf d).lowAt.isNone

/-- R417: DEADLINE_AT_RISK raised once when its first cause begins, with STOP and its cause; the millisecond that clears
STOP starts again at each cause. -/
def State.checkRisk (s : State) : State :=
  let keep (t : State) (c : Option Nat) : State := { t with power := { t.power with clearAt := c } }
  match s.riskCause with
  | some c =>
    let s1 := keep s none
    if s.on R.ADM_STATE_STOP && s.rd R.ADM_STATE_CAUSE != 5 then s1
    else ((s1.wr R.ADM_STATE_STOP 1).wr R.ADM_STATE_CAUSE c).raise { code := Ev.DEADLINE_AT_RISK, unit := Unit.POWER }
  | none => keep s (since s.paceFine s.power.clearAt s.time)

/-- PACE_RESUMED (R417): no cause for 1 ms on the hub counter and every pace at 1,260 or above over it: STOP clears. -/
def execPaceResumed (s : State) : Host.Outcome State Fault Refusal :=
  .next <|
    if s.on R.ADM_STATE_STOP && s.on R.ADM_CFG_ENABLE && s.riskCause.isNone && s.paceFine &&
        heldFor s.power.clearAt s.time 1000000 then
      ((s.wr R.ADM_STATE_STOP 0).wr R.ADM_STATE_CAUSE 0).raise { code := Ev.PACE_RESUMED, unit := Unit.POWER }
    else s

/-- PACE_SAMPLE (R405, R417, R421): the replica rate times the ratio of the last calibration. -/
def execPaceSample (d : DieId) (rate : Word32) (s : State) : Host.Outcome State Fault Refusal :=
  let p := s.paceOf d
  .next <|
    if s.present d && p.lastCal.isSome then
      let pace := min (rate.toNat * s.rd (R.PACE_CAL_PACE d) / p.rate) 4095
      let now := (s.die d).time
      let s1 := ((s.wr (R.PACE_NOW_PACE d) pace).wr (R.PACE_NOW_BELOW d) (b2n (decide (pace < paceFloor)))).wr
        (R.PACE_NOW_STALE d) (b2n (s.calDue d now))
      let s2 := (s1.wr (R.PACE_CAL_AGE_MS d) (s.calAge d)).wr (R.PACE_MIN_PACE d) (min (s.rd (R.PACE_MIN_PACE d)) pace)
      let s3 := if pace < paceLowMark then s2 else s2.wr (R.PACE_NOW_LOW d) 0
      (s3.updPace d fun q => { q with
        lowAt := since (decide (pace < paceLowMark)) q.lowAt now
        belowAt := since (decide (pace < paceFloor)) q.belowAt now }).checkRisk
    else s

/-- PACE_LOW (R417): the pace has stayed below 1,260 Msteps/s for 100 µs: raised once for each crossing. -/
def execPaceLow (d : DieId) (s : State) : Host.Outcome State Fault Refusal :=
  .next <|
    if !s.on (R.PACE_NOW_LOW d) && heldFor (s.paceOf d).lowAt (s.die d).time 100000 then
      ((s.wr (R.PACE_NOW_LOW d) 1).raise { code := Ev.PACE_LOW, src := d, unit := Unit.POWER }).checkRisk
    else s.checkRisk

/-- PACE_CAP_WRITE (R414): from MIDs 0x002 and 0x003, held within 1,200 to 2,000; from another ignored with RANGE. -/
def execPaceCapWrite (d : DieId) (mid : BitVec 12) (value : Word32) (s : State) : Host.Outcome State Fault Refusal :=
  .next <|
    if !s.present d then s
    else if mid.toNat = 2 || mid.toNat = 3 then
      ((s.updPace d fun p => { p with setCap := max paceFloor (min paceMax (bits value.toNat 0 12)) }).showCap d).checkRisk
    else s.raiseRange d Unit.POWER

/-! ### Sensors (R415, R416, R430) -/

/-- R413: the core voltage that the power manager sets, in mV: the lowest of 680 to 800 in steps of 5 that reaches what the
calibrated pace needs for 1.05 times the cap, or 800 where none does. What it needs is the silicon's and comes with the sample
(DESIGN CHOICE, log 156). -/
def coreVoltage (need : Nat) : Nat := max 680 (min 800 (ceilDiv need 5 * 5))

/-- R413, R416: one junction reading of a die taken in, and its core voltage set. -/
def State.senseDie (s : State) (d : Nat) (tj : Int) (need : Nat) : State :=
  let p := s.paceOf d
  let far := match p.prev with
    | some t => decide (20 < (tj - t).natAbs)
    | none => false
  let bad := decide (tj < -40) || decide (150 < tj) || far
  let s0 := s.wr (R.PACE_SENSE_VCORE d) (coreVoltage need)
  let s1 : State := if bad then s0 else s0.wr (R.PACE_SENSE_TJ d) (ofSigned 8 tj)
  let held := if bad then 3 else p.held - 1
  let s2 : State := if bad && p.held = 0 then s1.raise { code := Ev.PM_SENSOR, src := d, unit := Unit.POWER } else s1
  let s3 := (s2.wr (R.PACE_SENSE_IMPL d) (b2n (decide (0 < held)))).updPace d fun q => { q with prev := some tj, held := held }
  let t := (s3.paceOf d).tj
  let hot := decide (100 ≤ t)
  let cool := decide (t < 97)
  s3.updPace d fun q =>
    let hotAt := since hot q.hotAt s.time
    let coolAt := since cool q.coolAt s.time
    if heldFor hotAt s.time 50000 then
      { q with heatCap := max paceFloor (q.heatCap - 50), hotAt := some s.time, coolAt := none }
    else if heldFor coolAt s.time 1000000 then
      { q with heatCap := min paceMax (q.heatCap + 50), coolAt := some s.time, hotAt := none }
    else { q with hotAt := hotAt, coolAt := coolAt }

/-- R415: a die runs an OPEN operation. -/
def State.runsOpen (s : State) (d : Nat) : Bool :=
  (List.range 4).any fun g =>
    match ((s.die d).group g).cur with
    | some r => r.op.opn
    | none => (((s.die d).group g).fifo.head?.map Issued.opn).getD false

/-- R415: input power above its limit for 50 µs lowers the caps of dies that run OPEN operations, then of all; 5% below
it for 1 ms raises them again, MOD dies first. -/
def State.powerCaps (s : State) (power : Nat) : State :=
  let limit := s.rd R.PWR_LIMIT_LIMIT
  let tooMuch := decide (limit < power)
  let under := decide (power * 100 ≤ limit * 95)
  let overAt := since tooMuch s.power.overAt s.time
  let underAt := since under s.power.underAt s.time
  let ds := (List.range 8).filter s.present
  let shift (t : State) (l : List Nat) (f : Nat → Nat) : State :=
    l.foldl (fun (a : State) d => a.updPace d fun p => { p with powCap := f p.powCap }) t
  let above := ds.filter fun d => decide (paceFloor < (s.paceOf d).powCap)
  let below := ds.filter fun d => decide ((s.paceOf d).powCap < paceMax)
  let put (t : State) (u : Option Nat) (step : Nat) : State :=
    { t with power := { t.power with overAt := overAt, underAt := u, stepAt := step } }
  if heldFor overAt s.time 50000 && decide (s.power.stepAt + 50000 ≤ s.time) then
    let opens := above.filter s.runsOpen
    put (shift s (if opens.isEmpty then above else opens) fun c => max paceFloor (c - 50)) underAt s.time
  else if heldFor underAt s.time 1000000 then
    let mods := below.filter fun d => !s.runsOpen d
    put (shift s (if mods.isEmpty then below else mods) fun c => min paceMax (c + 50)) (some s.time) s.power.stepAt
  else put s underAt s.power.stepAt

/-- R430: the hub's own reading of VIN, in 10 mV units, against the comparators'. -/
def State.senseVin (s : State) (vin cmp : Nat) : State :=
  let off := decide (200 < (Int.ofNat vin - Int.ofNat cmp).natAbs)
  let diffAt := since off s.power.diffAt s.time
  let bad := decide (vin < 3000) || decide (7000 < vin) || heldFor diffAt s.time 1000000
  let band := if 4400 ≤ cmp && cmp ≤ 5800 then 0 else s.power.band
  let s1 : State := { s.wr R.PWR_INPUT_VIN (min vin 0xFFFF) with power := { s.power with diffAt := diffAt, vinBad := bad, band := band } }
  if bad && !s.power.vinBad then s1.raise { code := Ev.PM_SENSOR, unit := Unit.POWER } else s1

/-- R440: a condition of PKG_ALERT that has no event of its own: bit `k` set when it begins. -/
def State.alertCond (s : State) (k : Nat) (now : Bool) : State :=
  let s1 : State := { s with power := { s.power with conds := if now then setBit s.power.conds k else clearBit s.power.conds k } }
  if now && !bitOf s.power.conds k then s1.wr (alertFld k) 1 else s1

/-- R448: the hottest plausible junction and its die. -/
def State.hottest (s : State) (tjs : List Int) : Option (Int × Nat) :=
  ((List.range 9).filter fun d => d = 8 || s.present d).foldl (fun acc d =>
    let p := s.paceOf d
    match tjs[d]? with
    | some t =>
      if (d < 8 && decide (0 < p.held)) || decide (t < -40) || decide (150 < t) then acc
      else match acc with
        | some (m, _) => if m < t then some (t, d) else acc
        | none => some (t, d)
    | none => acc) none

/-- THROTTLE_SAMPLE (R413, R415, R416, R417, R430): the junctions of the compute dies in order and then the hub's, the core
voltages in mV that their paces need, the input power in W, and the input voltage that the hub reads and the comparators see, in 10 mV. -/
def execThrottleSample (tjs : List Int) (needs : List Nat) (power vin cmp : Nat) (s : State) :
    Host.Outcome State Fault Refusal :=
  .next <|
    if s.power.on then
      let s1 : State := ((List.range 8).filter s.present).foldl (fun (t : State) d =>
        match tjs[d]? with
        | some tj => t.senseDie d tj (needs.getD d 0)
        | none => t) s
      let s2 := ((s1.wr R.PWR_INPUT_POWER (min power 0xFFFF)).powerCaps power).senseVin vin cmp
      let s3 : State := match s2.hottest tjs with
        | some (t, d) =>
          ((s2.wr R.PKG_THERM_TJMAX (ofSigned 8 t)).wr R.PKG_THERM_DIE d).alertCond 0 (decide (100 ≤ t))
        | none => s2
      (((List.range 8).filter s.present).foldl State.showCap s3).checkRisk
    else s

/-! ### Memory stacks (R297–R299) -/

/-- R297: the level of a stack after a plausible report. -/
def stackLevel (level : Nat) (t : Int) : Nat :=
  let up := if 105 < t then 3 else if 95 < t then 2 else if 85 < t then 1 else 0
  let stay := if t ≤ 82 then 0 else if t ≤ 92 then 1 else if t ≤ 102 then 2 else 3
  if level ≤ up then up else max up (min level stay)

/-- STACK_TEMP_POLL (R297, R298, R299): a stack's report; an implausible one holds the stack at level 2 until three
consecutive plausible ones. -/
def execStackTempPoll (d : DieId) (k : Fin 2) (temp : Int) (s : State) : Host.Outcome State Fault Refusal :=
  let tempF := if k = 0 then R.MEM_THERM_TEMP0 d else R.MEM_THERM_TEMP1 d
  let levelF := if k = 0 then R.MEM_THERM_LEVEL0 d else R.MEM_THERM_LEVEL1 d
  let implF := if k = 0 then R.MEM_THERM_IMPL0 d else R.MEM_THERM_IMPL1 d
  .next <|
    if s.present d && bitOf (s.rd (R.MEM_CAPS_STACKS d)) k then
      let far := match mapFind (s.die d).stackRep k with
        | some t => decide (20 < (temp - t).natAbs)
        | none => false
      let bad := decide (temp < -40) || decide (125 < temp) || far
      let left := mapGet 0 (s.die d).stackRun k
      let left' := if bad then 3 else left - 1
      let old := s.rd levelF
      let new := if 0 < left' then 2 else stackLevel old temp
      let s1 := s.updDie d fun x => { x with stackRep := mapPut x.stackRep k temp, stackRun := mapSet 0 x.stackRun k left' }
      let s2 : State := if bad then s1 else s1.wr tempF (ofSigned 8 temp)
      let s3 : State := if bad && left = 0 then s2.raise { code := Ev.MEM_SENSOR, src := d, unit := Unit.MEMORY } else s2
      let s4 := (s3.wr levelF new).wr implF (b2n (decide (0 < left')))
      let s5 : State := if decide (2 ≤ new) && decide (old < new) then
        s4.raise { code := Ev.MEM_THROTTLE, src := d, unit := Unit.MEMORY } else s4
      s5.checkRisk
    else s

/-! ### Entry checks, sleep and requests (R110, R419, R420, R457) -/

/-- R420: the self-test marks a unit tested; when every unit in service has been, the request has run. -/
def State.tested (s : State) (d : Nat) (u : Fin 6) (ok : Bool) : State :=
  if (s.paceOf d).pend = 2 then
    let s1 := s.updPace d fun p => { p with tested := setBit p.tested u }
    let s2 : State := if ok then s1 else s1.wr (R.PACE_REQ_FAILMASK d) (setBit (s1.rd (R.PACE_REQ_FAILMASK d)) u)
    if chkAll.all fun v => !s2.on ((chkOf v).present d) || bitOf (s2.paceOf d).tested v then
      (s2.reqDone d).gapDone d 1
    else s2
  else s

/-- R110, R454: the outcome of a unit's entry check. -/
def State.checked (s : State) (d : Nat) (u : Fin 6) (ok : Bool) : State :=
  if ok then s.wr ((chkOf u).entryOk d) 1 else s.takeUnit d u

/-- ENTRY_CHECK (R110, R132, R152, R174, R419, R420): a unit's known-answer check in a gap, when one is pending or a
self-test of its die is, after a calibration that is due. -/
def execEntryCheck (d : DieId) (unit : Fin 6) (ok : Bool) (s : State) : Host.Outcome State Fault Refusal :=
  let awake := s.on ((chkOf unit).present d) && !bitOf (s.paceOf d).asleep unit
  .next <|
    if awake && s.checkPending d unit && s.inGap d (2 + unit.val) then
      ((s.checked d unit ok).gapDone d (2 + unit.val)).tested d unit ok
    else if awake && (s.paceOf d).pend = 2 && s.inGap d 1 && !s.calDue d (s.die d).time && !bitOf (s.paceOf d).tested unit then
      (s.checked d unit ok).tested d unit ok
    else s


/-- UNIT_WAKE (R110, R457): a unit returns: its epoch advances, it clears its state and its entry check is pending. While
a job binds its die only the service identity, through the test access port, resets a unit. -/
def execUnitWake (d : DieId) (unit : Fin 6) (s : State) : Host.Outcome State Fault Refusal :=
  .next <|
    if s.present d && s.on ((chkOf unit).present d) &&
        (bitOf (s.paceOf d).asleep unit || !s.dieBound d || s.on R.SEC_STATE_SERVICE) then s.wakeUnit d unit
    else s

/-- UNIT_SLEEP (R457): only while no admitted job binds the die. -/
def execUnitSleep (d : DieId) (unit : Fin 6) (s : State) : Host.Outcome State Fault Refusal :=
  .next <|
    if s.present d && s.on ((chkOf unit).present d) && !s.dieBound d then
      s.updPace d fun p => { p with asleep := setBit p.asleep unit }
    else s

/-- R420: a request taken, deferred or refused: `run` is what it does at once on an idle die. -/
def State.paceReq (s : State) (d mid op : Nat) (run : State → State) : State :=
  if !s.present d then s
  else if !(isMgmt mid || mid = 0x200) then (s.wr (R.PACE_REQ_REFUSED d) 1).raiseRange d Unit.POWER
  else if (s.paceOf d).pend != 0 then s.wr (R.PACE_REQ_REFUSED d) 1
  else
    let s1 := (((s.wr (R.PACE_REQ_OP d) op).wr (R.PACE_REQ_REFUSED d) 0).wr (R.PACE_REQ_DONE d) 0).updPace d fun p =>
      { p with pend := op, tested := 0 }
    if s.dieBound d then
      ((s1.wr (R.PACE_REQ_START d) 1).wr (R.PACE_REQ_DEFERRED d) 1).wr (R.PACE_EARLIEST_TIME d)
        (s.earliestGap d)
    else run s1

/-- PACE_REQ_CALIBRATION (R420): what the array and the replicas measure comes with the command for a request that runs
at once; a deferred one runs as CALIBRATION. -/
def execPaceReqCalibration (d : DieId) (mid : BitVec 12) (pace : BitVec 12) (rate : Word32) (toggles : Bool) (s : State) :
    Host.Outcome State Fault Refusal :=
  .next (s.paceReq d mid.toNat 1 fun t => ((t.calibrate d pace.toNat rate.toNat toggles).gapDone d 0).reqDone d)

/-- R420: a write to PACE_REQ without a command that brings what the request measures: OP is held; a request submitted on an
idle die runs with the next CALIBRATION or ENTRY_CHECK rows of the die (DESIGN CHOICE, log 91). -/
def State.putPaceReq (s : State) (d mid w : Nat) : State :=
  let op := bits w 0 2
  if !s.present d then s
  else if !bitOf w 2 then s.wr (R.PACE_REQ_OP d) op
  else if op = 1 || op = 2 then
    s.paceReq d mid op fun t => (if op = 2 then t.wr (R.PACE_REQ_FAILMASK d) 0 else t).wr (R.PACE_REQ_START d) 1
  else s.wr (R.PACE_REQ_OP d) op

/-- PACE_REQ_SELF_TEST (R420): every unit's entry check, with the units that fail; a unit that sleeps returns first (R110). A
deferred request runs as ENTRY_CHECK for each unit. -/
def execPaceReqSelfTest (d : DieId) (mid : BitVec 12) (fails : BitVec 6) (s : State) : Host.Outcome State Fault Refusal :=
  .next (s.paceReq d mid.toNat 2 fun t =>
    let t1 : State := chkAll.foldl (fun (a : State) u =>
      if (a.paceOf d).pend = 2 && a.on ((chkOf u).present d) then
        ((if bitOf (a.paceOf d).asleep u then a.wakeUnit d u else a).checked d u (!bitOf fails.toNat u)).tested d u
          (!bitOf fails.toNat u)
      else a) (t.wr (R.PACE_REQ_FAILMASK d) 0)
    if (t1.paceOf d).pend = 2 then (t1.reqDone d).gapDone d 1 else t1)

/-- DEADLINE_MISSED (R418): the hub counter has passed a running job's deadline: raised once; the job runs on. -/
def execDeadlineMissed (job : BitVec 48) (s : State) : Host.Outcome State Fault Refusal :=
  .next <|
    match s.job? job.toNat with
    | some j =>
      if j.live && j.deadline != 0 && decide (j.deadline < s.time) && !j.missed then
        (s.updJob j.id fun k => { k with missed := true }).raise
          { code := Ev.DEADLINE_MISSED, unit := Unit.POWER, job := j.id }
      else s
    | none => s

end Sys2Proof.Machine
end

