-- ==== Sys2Proof/Machine/Mailbox.lean ====
section
/-! DEFINITION. Mailbox channels (R323–R325). The staging buffer and the held message of channel m are bytes 64m to
64m + 63 of `mbxStage` and `mbxSlot`. -/

namespace Sys2Proof.Machine

/-- A host MID (R16). -/
def isHostMid (mid : Nat) : Bool := 0x100 ≤ mid && mid ≤ 0x13F

/-- R323: a channel that carries messages. -/
def State.mbxLive (s : State) (m : Nat) : Bool :=
  s.on (R.MBX_BIND_EN m) && s.rd (R.MBX_BIND_SENDER m) != 0 && s.rd (R.MBX_BIND_RECEIVER m) != 0

/-- R324: the MID that a host access to a mailbox page carries: whichever end of the channel is a host's; 0 where neither is. -/
def State.mbxHost (s : State) (m : Nat) : Nat :=
  if isHostMid (s.rd (R.MBX_BIND_SENDER m)) then s.rd (R.MBX_BIND_SENDER m)
  else if isHostMid (s.rd (R.MBX_BIND_RECEIVER m)) then s.rd (R.MBX_BIND_RECEIVER m) else 0

/-- R324: an access to a channel by a MID that is not the end that it needs is ignored and raises RANGE, whether or not the
channel carries messages; a host access to a channel without a host end is ignored alone. -/
def State.mbxDeny (s : State) (mid m : Nat) : State :=
  if isHostMid mid && s.mbxHost m = 0 then s else s.raiseRange 8 Unit.HOST

/-- R324: an end of a channel told: a host end by its vector, an on-die end by its mailbox interrupt. -/
def State.mbxTell (s : State) (m mid : Nat) : State :=
  if isHostMid mid then s.sendMsix (s.rd (R.MBX_BIND_VEC m)) else { s with irqs := s.irqs ++ [mid] }

/-- The 64 bytes of a channel in a mailbox store. -/
def mbxBytes (st : NMap Byte) (m : Nat) : List Byte := mapBytes st (64 * m) 64

/-- R324: the slot of a channel filled with a message and its receiver told. -/
def State.mbxFill (s : State) (m : Nat) (msg : List Byte) : State :=
  let s1 := { s with mbxSlot := mapPutBytes s.mbxSlot (64 * m) (fit 64 msg) }
  let s2 := (s1.wr R.MBX_STATUS_FULL (setBit (s.rd R.MBX_STATUS_FULL) m)).wr R.MBX_DB_DB (setBit (s.rd R.MBX_DB_DB) m)
  if bitOf (s.rd R.MBX_MASK_MASK) m then s2 else s2.mbxTell m (s.rd (R.MBX_BIND_RECEIVER m))

/-- R324: the slot of a channel emptied. -/
def State.mbxEmpty (s : State) (m : Nat) : State :=
  ({ s with mbxSlot := mapPutBytes s.mbxSlot (64 * m) (zeros 64) }.wr R.MBX_STATUS_FULL
    (clearBit (s.rd R.MBX_STATUS_FULL) m)).wr R.MBX_DB_DB (clearBit (s.rd R.MBX_DB_DB) m)

/-- R309, R325: slot and staging buffer of a channel emptied. -/
def State.mbxClear (s : State) (m : Nat) : State :=
  { s.mbxEmpty m with mbxStage := mapPutBytes s.mbxStage (64 * m) (zeros 64) }

/-- MBX_SEND (R324, R325): the sender's write of 1 to SEND. -/
def execMbxSend (mid : BitVec 12) (m : Fin 32) (s : State) : Host.Outcome State Fault Refusal :=
  .next <|
    if isHostMid mid.toNat && !s.hostUp then s
    else if mid = 0 || mid.toNat != s.rd (R.MBX_BIND_SENDER m) then s.mbxDeny mid.toNat m
    else if !s.mbxLive m then s
    else if bitOf (s.rd R.MBX_STATUS_FULL) m then
      (s.wr R.MBX_STATUS_REFUSED (setBit (s.rd R.MBX_STATUS_REFUSED) m)).raiseRange 8 Unit.HOST
    else s.mbxFill m (mbxBytes s.mbxStage m)

/-- MBX_DB_CLEAR (R324): the receiver's write of 1 to its doorbell bit empties the slot and interrupts the sender. -/
def execMbxDbClear (mid : BitVec 12) (m : Fin 32) (s : State) : Host.Outcome State Fault Refusal :=
  .next <|
    if isHostMid mid.toNat && !s.hostUp then s
    else if mid = 0 || mid.toNat != s.rd (R.MBX_BIND_RECEIVER m) then s.mbxDeny mid.toNat m
    else if !s.mbxLive m then s
    else if bitOf (s.rd R.MBX_DB_DB) m then (s.mbxEmpty m).mbxTell m (s.rd (R.MBX_BIND_SENDER m))
    else s

end Sys2Proof.Machine
end

