-- ==== Sys2Proof/Machine/Pki.lean ====
section
/-! DEFINITION. The public-key arithmetic that the security processor composes (R397–R399): RSASSA-PSS with SHA-256 over
RSA-3072 (PKCS#1: numbers most significant byte first), and ECDH on P-256. -/

namespace Sys2Proof.Machine

/-- R398: the result codes of a big-number service. -/
abbrev Bn.OK : Nat := 0
abbrev Bn.ZERO : Nat := 1
abbrev Bn.RANGE : Nat := 2
abbrev Bn.OFFCURVE : Nat := 3
abbrev Bn.INVARIANT : Nat := 4
abbrev Bn.BADSIG : Nat := 5

/-- MGF1 with SHA-256: n bytes. -/
def mgf1 (seed : List Byte) (n : Nat) : List Byte :=
  ((List.range (ceilDiv n 32)).flatMap fun i => sha256 (seed ++ beBytes 4 i)).take n

/-- The PSS encoding of a message checked: 384 bytes, salt of 32. -/
def pssOk (em msg : List Byte) : Bool :=
  let h := slice em 351 32
  let db0 := xorB (em.take 351) (mgf1 h 351)
  let db := BitVec.ofNat 8 ((db0.headD 0).toNat % 128) :: db0.drop 1
  em.length = 384 && em.getD 383 0 == 0xBC && decide ((em.headD 0).toNat < 128) && db.take 318 == zeros 318 &&
    db.getD 318 0 == 1 && sha256 (zeros 8 ++ sha256 msg ++ db.drop 319) == h

/-- R397, R398: an RSA-3072 PSS verification with exponent 65,537: its result code. -/
def rsaVerify (modulus sig msg : List Byte) : Nat :=
  let n := beNat modulus
  let x := beNat sig
  if x = 0 then Bn.ZERO
  else if n ≤ x then Bn.RANGE
  else if pssOk (beBytes 384 (powMod n x 65537)) msg then Bn.OK else Bn.BADSIG

/-! ### P-256 -/

/-- The field prime. -/
abbrev ecP : Nat := 0xffffffff00000001000000000000000000000000ffffffffffffffffffffffff

/-- The curve's b. -/
abbrev ecB : Nat := 0x5ac635d8aa3a93e7b3ebbd55769886bc651d06b0cc53b0f63bce3c3e27d2604b

/-- The order of the base point. -/
abbrev ecN : Nat := 0xffffffff00000000ffffffffffffffffbce6faada7179e84f3b9cac2fc632551

/-- The base point. -/
def ecG : Nat × Nat :=
  (0x6b17d1f2e12c4247f8bce6e563a440f277037d812deb33a0f4a13945d898c296,
   0x4fe342e2fe1a7f9b8ee7eb4a7c0f9e162bce33576b315ececbb6406837bf51f5)

/-- A difference in the field. -/
def ecSub (a b : Nat) : Nat := (a + ecP - b % ecP) % ecP

/-- A point with coordinates X / Z² and Y / Z³; Z = 0 is the point at infinity. -/
structure Jac where
  x : Nat
  y : Nat
  z : Nat
  deriving DecidableEq, Repr

/-- A point doubled. -/
def Jac.dbl (p : Jac) : Jac :=
  if p.z = 0 || p.y = 0 then ⟨1, 1, 0⟩
  else
    let yy := p.y * p.y % ecP
    let s := 4 * p.x * yy % ecP
    let zz := p.z * p.z % ecP
    let m := 3 * (ecSub p.x zz * ((p.x + zz) % ecP)) % ecP
    let x' := ecSub (m * m % ecP) (2 * s)
    ⟨x', ecSub (m * ecSub s x' % ecP) (8 * (yy * yy % ecP)), 2 * p.y * p.z % ecP⟩

/-- Two points added. -/
def Jac.add (p q : Jac) : Jac :=
  if p.z = 0 then q
  else if q.z = 0 then p
  else
    let z1 := p.z * p.z % ecP
    let z2 := q.z * q.z % ecP
    let u1 := p.x * z2 % ecP
    let u2 := q.x * z1 % ecP
    let s1 := p.y * (z2 * q.z % ecP) % ecP
    let s2 := q.y * (z1 * p.z % ecP) % ecP
    if u1 = u2 then (if s1 = s2 then p.dbl else ⟨1, 1, 0⟩)
    else
      let h := ecSub u2 u1
      let r := ecSub s2 s1
      let h2 := h * h % ecP
      let h3 := h2 * h % ecP
      let v := u1 * h2 % ecP
      let x' := ecSub (ecSub (r * r % ecP) h3) (2 * v)
      ⟨x', ecSub (r * ecSub v x' % ecP) (s1 * h3 % ecP), p.z * q.z % ecP * h % ecP⟩

/-- A multiple of a point, over the bits of the scalar from the highest (fuel: the bits). -/
def Jac.mulF (p : Jac) (k : Nat) : Nat → Jac → Jac
  | 0, acc => acc
  | i + 1, acc => Jac.mulF p k i (if bitOf k i then acc.dbl.add p else acc.dbl)

/-- k times a point, as coordinates; none for the point at infinity. -/
def ecMul (k : Nat) (pt : Nat × Nat) : Option (Nat × Nat) :=
  let r := Jac.mulF ⟨pt.1, pt.2, 1⟩ k 256 ⟨1, 1, 0⟩
  if r.z = 0 then none
  else
    let zi := invMod ecP r.z
    let zi2 := zi * zi % ecP
    some (r.x * zi2 % ecP, r.y * (zi2 * zi % ecP) % ecP)

/-- A pair of coordinates below p that meet the curve's equation. -/
def onCurve (pt : Nat × Nat) : Bool :=
  decide (pt.1 < ecP) && decide (pt.2 < ecP) &&
    pt.2 * pt.2 % ecP = (pt.1 * pt.1 % ecP * pt.1 + ecSub ecB (3 * pt.1)) % ecP

/-- A public key x ‖ y of 64 bytes, most significant byte first. -/
def ecPoint (b : List Byte) : Nat × Nat := (beNat (slice b 0 32), beNat (slice b 32 32))

/-- The 64 bytes of a scalar's public key. -/
def ecPub (k : Nat) : List Byte :=
  match ecMul k ecG with
  | some q => beBytes 32 q.1 ++ beBytes 32 q.2
  | none => zeros 64

/-- R397–R399: ECDH with checks: the result code and the 32 bytes of the x-coordinate, zero where the code is not OK. -/
def ecdh (k : Nat) (pub : List Byte) : Nat × List Byte :=
  if k = 0 then (Bn.ZERO, zeros 32)
  else if ecN ≤ k then (Bn.RANGE, zeros 32)
  else if !onCurve (ecPoint pub) then (Bn.OFFCURVE, zeros 32)
  else
    match ecMul k (ecPoint pub) with
    | some q => if onCurve q then (Bn.OK, beBytes 32 q.1) else (Bn.INVARIANT, zeros 32)
    | none => (Bn.INVARIANT, zeros 32)

end Sys2Proof.Machine
end

