-- ==== Sys2Proof/Machine/Security.lean ====
section
/-! DEFINITION. The security processor's shared operations (R369–R399): draws, measurements, verification and
signatures, refusals, and the request slot of mailbox channels 0 and 1. -/

namespace Sys2Proof.Machine

/-- The state with the security processor changed. -/
def State.updSec (s : State) (f : Sec → Sec) : State := { s with sec := f s.sec }

/-- SEC_LAST's sources (R400). -/
abbrev Src.INGEST : Nat := 1
abbrev Src.REQUEST : Nat := 2
abbrev Src.LOVAGE : Nat := 3
abbrev Src.KEYX : Nat := 4
abbrev Src.SPDM : Nat := 5
abbrev Src.TAP : Nat := 6

/-- R400: a refusal recorded in SEC_LAST. -/
def State.secLast (s : State) (code source tag : Nat) : State :=
  ((s.wr R.SEC_LAST_CODE code).wr R.SEC_LAST_SOURCE source).wr R.SEC_LAST_TAG tag

/-- R370: n random bytes; none once a health test has failed. -/
def State.draw (s : State) (n : Nat) : Option (List Byte × State) :=
  if s.on R.SEC_STATE_TRNG_FAIL then none
  else
    let (i, s1) := s.fresh
    some (fit n (Config.freeBytes i n), s1)

/-! ### Measurements (R375, R383) -/

/-- The 32 bytes of a measurement register. -/
def State.meas (s : State) (k : Nat) : List Byte := (List.range 4).flatMap fun j => leBytes 8 (s.rd (R.SEC_MEAS_W k j))

/-- A measurement register given its 32 bytes. -/
def State.setMeas (s : State) (k : Nat) (v : List Byte) : State :=
  (List.range 4).foldl (fun t j => t.wr (R.SEC_MEAS_W k j) (leAt v (8 * j) 8)) s

/-- R375: a measurement register extended. -/
def State.extend (s : State) (k : Nat) (v : List Byte) : State := s.setMeas k (sha256 (s.meas k ++ v))

/-! ### Lovage's services (R397–R399) -/

/-- R400: a service counted. -/
def State.call (s : State) : State := s.sat R.SEC_LOVAGE_CALLS 1

/-- R399: an end check that failed. -/
def State.invariant (s : State) : State :=
  ((s.sat R.SEC_LOVAGE_INVARIANT 1).secLast Ev.LOVAGE_FAULT Src.LOVAGE 0).raise { code := Ev.LOVAGE_FAULT, unit := Unit.SECURITY }

/-- R397: a signature verified. -/
def State.verify (s : State) (modulus sig msg : List Byte) : Bool × State := (rsaVerify modulus sig msg = Bn.OK, s.call)

/-- R397, R399: a message signed by one of the part's keys (1 AK, 2 RIK) and verified again; none where the end check fails.
What AK signs needs random bits, and a release reply is not among what R370 refuses without them. -/
def State.sign (s : State) (kind : Nat) (msg : List Byte) : Option (List Byte) × State :=
  if kind = 1 && s.on R.SEC_STATE_TRNG_FAIL then (none, s)
  else
    let (i, s0) := s.fresh
    let s1 := s0.call
    let key := s.sec.flash.keyNo
    let sig := fit 384 (Config.signature kind key msg i)
    if rsaVerify (Config.modulus kind key) sig msg = Bn.OK then (some sig, s1) else (none, s1.invariant)

/-- R397, R399: an ECDH: the shared x-coordinate, or none. -/
def State.agree (s : State) (k : Nat) (pub : List Byte) : Option (List Byte) × State :=
  let r := ecdh k pub
  if r.1 = Bn.OK then (some r.2, s.call)
  else if r.1 = Bn.INVARIANT then (none, s.call.invariant)
  else (none, s.call)

/-- The scalar that random bytes give: 1 to the order less 1. -/
def scalarOf (b : List Byte) : Nat := leNat b % (ecN - 1) + 1

/-- R379: the AK chain that the part presents. -/
def State.akChain (s : State) : List Byte := Config.akChain s.sec.flash.keyNo [s.meas 0, s.meas 1, s.meas 2, s.meas 3]

/-! ### Service requests (R384) -/

/-- The request in channel 0's slot, if it is of an operation and its reply has room on channel 1. -/
def State.request? (s : State) (op : Nat) : Option (List Byte) :=
  let b := mbxBytes s.mbxSlot 0
  if bitOf (s.rd R.MBX_STATUS_FULL) 0 && !bitOf (s.rd R.MBX_STATUS_FULL) 1 && leAt b 0 1 = op && s.on R.SEC_STATE_STAGE &&
    s.rd R.SEC_STATE_STAGE < 7 then some b else none

/-- R384: a request whose fields the rule allows. -/
def requestOk (b : List Byte) : Bool :=
  leAt b 1 3 = 1 && leAt b 8 8 % 64 = 0 && leAt b 0x14 44 = 0

/-- R384: the reply posted on channel 1 and channel 0's slot emptied. A refusal is recorded and raised. -/
def State.reply (s : State) (b : List Byte) (code : Nat) : State :=
  let msg := leBytes 4 (leAt b 0 1) ++ slice b 4 4 ++ leBytes 2 code
  let s1 := if code = 0 then s
    else (s.secLast code Src.REQUEST (leAt b 4 4)).raise { code := code, unit := Unit.SECURITY }
  ((s1.mbxEmpty 0).mbxTell 0 (s.rd (R.MBX_BIND_SENDER 0))).mbxFill 1 (fit 64 msg)

/-- The package that a request names: the host's bytes at its address, of its length. -/
def packageOf (b pkg : List Byte) : List Byte := pkg.take (leAt b 0x10 4)

/-- R369: the part-wide space holds the lineage table and the security region. -/
def State.regionFits (s : State) : Bool := decide (2 ^ 30 ≤ s.partChans.length * s.partSlots * 256)

/-- R380: the installation configuration applied. -/
def State.inst (s : State) : Config.Inst := s.sec.inst.getD default

end Sys2Proof.Machine
end

