-- ==== Sys2Proof/Machine/SpadTest.lean ====
section
/-! DEFINITION. Bank power and the scratchpad test window (R258, R260, R261). -/

namespace Sys2Proof.Machine

/-- The valid scratchpad entries of a die whose span includes a bank (R261). -/
def State.spanning (s : State) (d bank : Nat) : List Nat :=
  ((List.range 256).map (d * 256 + ·)).filter fun h =>
    let i := hIdx h
    s.on (R.SPAD_HTAB0_V d i) && s.hSpad h && decide (s.rd (R.SPAD_HTAB0_BANK_LO d i) ≤ bank) &&
      decide (bank < s.rd (R.SPAD_HTAB0_BANK_LO d i) + s.rd (R.SPAD_HTAB0_BANK_CNT d i))

/-- An admitted job names a handle whose span includes a bank (R260). -/
def State.bankNamed (s : State) (d bank : Nat) : Bool := (s.spanning d bank).any s.namedByJob

/-- A bank's contents, error marks and test marks cleared. -/
def State.clearBank (s : State) (d bank : Nat) : State :=
  s.updDie d fun x =>
    { x with
      spad := x.spad.filter fun p => p.1 / (65536 * 128) ≠ bank
      spadErr := x.spadErr.filter fun p => p.1 / 65536 ≠ bank
      spadChk := x.spadChk.filter fun p => p.1 / 65536 ≠ bank
      dirty := clearBit x.dirty bank }

/-- A scrub of a bank begun (R260). -/
def State.startScrub (s : State) (d bank : Nat) : State :=
  (s.updDie d fun x => { x with scrubbing := setBit x.scrubbing bank }).wr (R.SPAD_STATUS_SCRUB_BUSY d) 1

/-- SPAD_STATUS.SCRUB_BUSY: some bank is being scrubbed. -/
def State.showScrub (s : State) (d : Nat) : State := if (s.die d).scrubbing = 0 then s.wr (R.SPAD_STATUS_SCRUB_BUSY d) 0 else s

/-- R260, R261: a bank powered up: it is scrubbed, SPAD_WAKES advances and every entry that spans it is STALE. -/
def State.bankUp (s : State) (d bank : Nat) : State :=
  let s1 := ((s.wr (R.SPAD_PWR_ON d) (setBit (s.rd (R.SPAD_PWR_ON d)) bank)).sat (R.SPAD_WAKES_COUNT d) 1).startScrub d bank
  (s1.spanning d bank).foldl (fun t h => t.setStale h 1) s1

/-- R260: a bank powered down: its contents are lost. A bank that an admitted job's handle spans stays powered. -/
def State.bankDown (s : State) (d bank : Nat) : State :=
  if s.bankNamed d bank then s
  else (((s.wr (R.SPAD_PWR_ON d) (clearBit (s.rd (R.SPAD_PWR_ON d)) bank)).updDie d fun x =>
    { x with scrubbing := clearBit x.scrubbing bank }).clearBank d bank).showScrub d

/-- SPAD_PWR_WRITE (R260): written by the management cores only. -/
def execSpadPwrWrite (mid : BitVec 12) (d : DieId) (value : Word64) (s : State) : Host.Outcome State Fault Refusal :=
  .next <|
    if !s.present d then s
    else if mid.toNat != 2 && mid.toNat != 3 then (s.spadCode d Ev.RANGE).raiseRange d Unit.SPAD
    else (List.range 64).foldl (fun t b =>
      let was := bitOf (t.rd (R.SPAD_PWR_ON d)) b
      let now := bitOf value.toNat b
      if now && !was then t.bankUp d b else if was && !now then t.bankDown d b else t) s

/-- BANK_SCRUB_DONE (R260): a scrub ends: the bank reads zero and may be bound again. -/
def execBankScrubDone (d : DieId) (bank : Fin 64) (s : State) : Host.Outcome State Fault Refusal :=
  .next <|
    if bitOf (s.die d).scrubbing bank then
      ((s.clearBank d bank).updDie d fun x => { x with scrubbing := clearBit x.scrubbing bank }).showScrub d
    else s

/-- R258: the test window accepts a request: from the security processor or the debug port, on a powered bank that no
bound entry covers. -/
def State.twinOk (s : State) (mid d bank : Nat) : Bool :=
  (mid = 1 || mid = 0x200) && s.present d && bitOf (s.rd (R.SPAD_PWR_ON d)) bank &&
    !((s.spanning d bank).any s.hBound)

/-- SPAD_TWIN_CTL's request fields and outcome written. -/
def State.twinCtl (s : State) (d bank row op done refused : Nat) : State :=
  ((((s.wr (R.SPAD_TWIN_CTL_BANK d) bank).wr (R.SPAD_TWIN_CTL_ROW d) row).wr (R.SPAD_TWIN_CTL_OP d) op).wr
    (R.SPAD_TWIN_CTL_DONE d) done).wr (R.SPAD_TWIN_CTL_REFUSED d) refused

/-- R258: a request refused: REFUSED is set and nothing else is done; a MID that may not write the window raises RANGE
as well (R472). -/
def State.twinRefuse (s : State) (mid d : Nat) : State :=
  let s1 := (s.wr (R.SPAD_TWIN_CTL_REFUSED d) 1).wr (R.SPAD_TWIN_CTL_DONE d) 0
  if mid = 1 || mid = 0x200 then s1 else (s1.spadCode d Ev.RANGE).raiseRange d Unit.SPAD

/-- 128 bytes put in SPAD_TWIN_DATA. -/
def State.setTwinData (s : State) (d : Nat) (bs : List Byte) : State :=
  (List.range 16).foldl (fun t i => t.wr (R.SPAD_TWIN_DATA_W d i) (leAt bs (8 * i) 8)) s

/-- The 128 bytes of SPAD_TWIN_DATA. -/
def State.twinData (s : State) (d : Nat) : List Byte :=
  (List.range 16).flatMap fun i => leBytes 8 (s.rd (R.SPAD_TWIN_DATA_W d i))

/-- The check bits of SPAD_TWIN_CHECK. -/
def State.twinCheck (s : State) (d : Nat) : Nat :=
  s.rd (R.SPAD_TWIN_CHECK_W d 0) + s.rd (R.SPAD_TWIN_CHECK_W d 1) * 2 ^ 64

/-- RAW_RD (R258): the stored data and check bits of a row, without correction. -/
def execRawRd (mid : BitVec 12) (d : DieId) (bank : Fin 64) (row : BitVec 16) (s : State) :
    Host.Outcome State Fault Refusal :=
  .next <|
    if s.twinOk mid.toNat d bank then
      let unit := bank.val * 65536 + row.toNat
      let durable := bitOf (s.rd (R.SPAD_CLASS_DURABLE d)) bank
      let stored := mapBytes (s.die d).spad (unit * 128) 128
      let e := mapGet 0 (s.die d).spadErr unit
      let chk := (mapFind (s.die d).spadChk unit).getD (rowCheck durable stored)
      let s1 := s.setTwinData d (if e = 0 then stored else fit 128 (Config.upsetRow e stored))
      ((s1.wr (R.SPAD_TWIN_CHECK_W d 0) chk).wr (R.SPAD_TWIN_CHECK_W d 1) (chk / 2 ^ 64)).twinCtl d bank row.toNat 1 1 0
    else s.twinRefuse mid.toNat d

/-- RAW_WR (R258): both registers stored in the row exactly as given, of a durable row its 80 check bits (R264); the bank
is dirty. -/
def execRawWr (mid : BitVec 12) (d : DieId) (bank : Fin 64) (row : BitVec 16) (s : State) :
    Host.Outcome State Fault Refusal :=
  .next <|
    if s.twinOk mid.toNat d bank then
      let unit := bank.val * 65536 + row.toNat
      let bs := s.twinData d
      let chk := if bitOf (s.rd (R.SPAD_CLASS_DURABLE d)) bank then s.twinCheck d % 2 ^ 80 else s.twinCheck d
      (s.updDie d fun x =>
        { x with
          spad := mapPutBytes x.spad (unit * 128) bs
          spadErr := mapDel x.spadErr unit
          spadChk := mapPut x.spadChk unit chk
          dirty := setBit x.dirty bank }).twinCtl d bank row.toNat 2 1 0
    else s.twinRefuse mid.toNat d

/-- DEC_RD (R258): the row read through the decoder as an ordinary read: correction, write-back, counters and events.
The bytes it delivers stand in SPAD_TWIN_DATA, zero for an uncorrectable row (DEDUCED, log 22). -/
def execDecRd (mid : BitVec 12) (d : DieId) (bank : Fin 64) (row : BitVec 16) (s : State) :
    Host.Outcome State Fault Refusal :=
  .next <|
    if s.twinOk mid.toNat d bank then
      let unit := bank.val * 65536 + row.toNat
      let p : Place := ⟨d, true, unit, unit * 128⟩
      let w : Who := { mid := mid.toNat }
      let s1 := match s.errAt p with
        | 0 => s.setTwinData d (mapBytes (s.die d).spad (unit * 128) 128)
        | 1 =>
          let t := s.eccCe p w
          t.setTwinData d (mapBytes (t.die d).spad (unit * 128) 128)
        | _ => (s.eccUe p w).setTwinData d (zeros 128)
      s1.twinCtl d bank row.toNat 3 1 0
    else s.twinRefuse mid.toNat d

end Sys2Proof.Machine
end

