-- ==== Sys2Proof/Machine/Dill.lean ====
section
/-! DEFINITION. The key spool (Dill): key reference descriptors (R143), key block headers (R138), the sequence and the
header checks of both contexts (R144–R146, R168), a-half regeneration (R141), and the rows of a key as its consumer
takes them (R137, R148, R160, R163). -/

namespace Sys2Proof.Machine

/-- R143: a key reference descriptor. -/
structure KeyRef where
  site : Nat
  handle : Nat
  kind : Nat
  ctx : Nat
  level : Nat
  dcount : Nat
  deriving DecidableEq, Repr

/-- R143: a key reference descriptor read from its 16 bytes. -/
def parseKeyRef (b : List Byte) : KeyRef :=
  let w := leAt b 0 8
  { site := bits w 0 32, handle := bits w 32 16, kind := bits w 48 4, ctx := bits w 52 1, level := bits w 56 7,
    dcount := bits (leAt b 8 8) 0 4 }

/-- R138: a key block header. -/
structure KeyHdr where
  keyset : Nat
  kind : Nat
  ver : Nat
  logn : Nat
  chain : Nat
  lo : Nat
  hi : Nat
  digit : Nat
  dmax : Nat
  param : Nat
  seed : List Byte
  deriving DecidableEq, Repr

/-- R138: a key block header read from its 64 bytes. -/
def parseHdr (b : List Byte) : KeyHdr :=
  let w := leAt b 8 8
  { keyset := leAt b 0 8, kind := bits w 0 4, ver := bits w 4 4, logn := bits w 8 5, chain := bits w 16 8,
    lo := bits w 24 7, hi := bits w 32 7, digit := bits w 40 3, dmax := bits w 44 4, param := leAt b 0x10 4,
    seed := slice b 0x20 32 }

/-- R5: a header with a reserved field that is not zero, or another version, is malformed. The PARAM of a BOOT
or LWEKS key has reserved bits of its own (R160, R163). -/
def hdrMalformed (b : List Byte) : Bool :=
  let w := leAt b 8 8
  bits w 13 3 != 0 || bits w 31 1 != 0 || bits w 39 1 != 0 || bits w 43 1 != 0 || bits w 48 16 != 0 ||
    leAt b 0x14 4 != 0 || leAt b 0x18 8 != 0 || (parseHdr b).ver != 1 ||
    ((parseHdr b).kind = 3 && bits (leAt b 0x10 4) 17 15 != 0) ||
    ((parseHdr b).kind = 4 && bits (leAt b 0x10 4) 21 11 != 0)

/-- The fields other than DIGIT and SEED (R145 check 10). -/
def hdrCommon (b : List Byte) : List Nat :=
  [leAt b 0 8, setBits (leAt b 8 8) 40 3 0, leAt b 0x10 8, leAt b 0x18 8]

/-- A context of Dill. -/
def State.dillCtx (s : State) (d ctx : Nat) : DillCtx := ((s.die d).dill[ctx]?).getD {}

/-- The handle of a context's key order. -/
def State.koHandle (s : State) (d ctx : Nat) : Nat :=
  if ctx = 0 then s.rd (R.DILL_KOBASE_HANDLE0 d) else s.rd (R.DILL_KOBASE_HANDLE1 d)

/-- The next entry of a context, if its order has one left. -/
def State.keyEntry (s : State) (d ctx : Nat) : Option KeyRef :=
  let e := s.koNext d ctx
  if e < s.koCount d ctx then some (parseKeyRef (s.peek (s.koHandle d ctx) (16 * e) 16)) else none

/-- What a consuming operation requires of its key: the entry named, the consumer level, the kind, and the tests of
checks 4 to 9 on a header. -/
structure KeyWant where
  keyent : Nat
  site : Nat
  level : Nat
  kind : Nat
  keyset : Nat
  size : KeyHdr → Bool
  chain : Nat
  level' : KeyHdr → Bool
  param : KeyHdr → Bool
  digits : KeyRef → KeyHdr → Bool

/-- The cause of the first check that fails, with its digit; `none` when every check passes (R144, R145, R168). -/
def State.keyCause (s : State) (d ctx : Nat) (w : KeyWant) : Option (Nat × Nat) :=
  let x := s.dillCtx d ctx
  match s.keyEntry d ctx with
  | none => some (9, 0)
  | some e =>
    let hs := x.snap.map parseHdr
    let bad (c : Nat) (p : Nat → Bool) : Option (Nat × Nat) := (firstIdx p (List.range x.snap.length)).map fun i => (c, i)
    let h (i : Nat) : KeyHdr := hs.getD i (parseHdr [])
    if w.keyent != s.koNext d ctx || e.site != w.site || e.level != w.level then some (9, 0)
    else if x.ueSeen then some (0xA, x.ueSlot)
    else (bad 0xB fun i => hdrMalformed (x.snap.getD i [])) |>.orElse fun _ =>
      (bad 5 fun i => (h i).kind != e.kind || (h i).kind != w.kind) |>.orElse fun _ =>
      (bad 1 fun i => (h i).keyset != w.keyset) |>.orElse fun _ =>
      (bad 2 fun i => !w.size (h i)) |>.orElse fun _ =>
      (bad 3 fun i => (h i).chain != w.chain) |>.orElse fun _ =>
      (bad 4 fun i => !w.level' (h i)) |>.orElse fun _ =>
      (bad 6 fun i => !w.param (h i)) |>.orElse fun _ =>
      (bad 7 fun i => !w.digits e (h i) || (h i).digit != i) |>.orElse fun _ =>
      (bad 8 fun i => hdrCommon (x.snap.getD i []) != hdrCommon (x.snap.getD 0 []))

/-- R146: the check of a key made: the code of the fault, if any, with DILL_MISMATCH and DILL_STATUS written. -/
def State.keyCheck (s : State) (d ctx : Nat) (w : KeyWant) : Option Nat × State :=
  match s.keyCause d ctx w with
  | none => (none, s)
  | some (c, g) =>
    let code := if c = 0xB then Ev.RANGE else Ev.KEYSET_MISMATCH
    let s1 := (((s.wr (R.DILL_MISMATCH_CAUSE d) c).wr (R.DILL_MISMATCH_CTX d) ctx).wr (R.DILL_MISMATCH_DIGIT d) g).wr
      (R.DILL_MISMATCH_SITE d) w.site
    (some code, (s1.wr (R.DILL_STATUS_LAST_CODE d) code).wr (R.DILL_STATUS_LAST_SITE d) w.site)

/-! ### Regenerating a-halves (R141) -/

/-- The 16-byte counter block of draw n. -/
def aCounter (limb block n digit : Nat) : List Byte :=
  leBytes 4 limb ++ leBytes 4 block ++ leBytes 4 n ++ leBytes 1 digit ++ leBytes 1 0x41 ++ zeros 2

/-- A regenerated row: its residues, the blocks drawn and the candidates rejected. -/
structure ARow where
  row : List Nat
  draws : Nat
  rejects : Nat
  deriving DecidableEq, Repr

/-- The candidates of one block taken in order until the row is complete. -/
def takeCands (q : Nat) : List Nat → ARow → ARow
  | [], r => r
  | x :: xs, r =>
    if r.row.length = 512 then r
    else if x < q then takeCands q xs { r with row := r.row ++ [x] }
    else takeCands q xs { r with rejects := r.rejects + 1 }

/-- Blocks drawn from number n on until the row is complete. The counter DRAW has 32 bits, which bounds the draws. -/
def drawRow (q limb block digit : Nat) (seed : List Byte) : Nat → Nat → ARow → ARow
  | 0, _, r => r
  | f + 1, n, r =>
    if r.row.length = 512 then r
    else
      let b := q.log2 + 1
      let out := aes256 seed (aCounter limb block n digit)
      let cands := (List.range 4).map fun t => leAt out (4 * t) 4 % 2 ^ b
      drawRow q limb block digit seed f (n + 1) (takeCands q cands { r with draws := r.draws + 1 })

/-- R141: the a-half row of a stored limb, block and digit. -/
def aHalf (seed : List Byte) (q limb block digit : Nat) : ARow :=
  drawRow q limb block digit seed 4294967296 0 ⟨[], 0, 0⟩

/-! ### Rows in the order of their consumer -/

/-- A key row's place: stored limb, block, digit and the prime of its limb. -/
structure RowAt where
  limb : Nat
  block : Nat
  digit : Nat
  q : Nat
  deriving DecidableEq, Repr

/-- R137: the byte offset of a b-half row, with B blocks of 512 and DMAX digits. -/
def rowOff (B dmax : Nat) (r : RowAt) : Nat := 0x1000 + ((r.limb * B + r.block) * dmax + r.digit) * 2048

/-- R148: the rows of a context-0 entry at a level in the order of R94. -/
def rows0 (c : Chain) (level hi dcount : Nat) : List RowAt :=
  (List.range (level + c.K)).flatMap fun i => (List.range (c.N / 512)).flatMap fun k =>
    (List.range dcount).map fun j =>
      { limb := if i < level then i else hi + (i - level), block := k, digit := j, q := c.prime (c.ext level i) }

/-- R160, R163: the rows of a context-1 key: coordinates ascending, blocks, digit slots. -/
def rows1 (q coords blocks dmax : Nat) : List RowAt :=
  (List.range coords).flatMap fun i => (List.range blocks).flatMap fun k => (List.range dmax).map fun j =>
    { limb := i, block := k, digit := j, q := q }

/-- A row as its consumer takes it: the b-half from Dill's buffer where it was fetched ahead, else from memory, and the
a-half from its seed, with the counters of Dill. A b-half that cannot be corrected is zero (R147). -/
def State.keyRow (s : State) (d ctx h B dmax : Nat) (held : Option DillRow) (r : RowAt) :
    State × List Nat × List Nat × Bool :=
  let w : Who := { mid := coreMid d 7, job := s.jobIdOn d }
  let g : Got := match held with
    | some k => ⟨s, k.bytes, k.ue⟩
    | none => s.read h (rowOff B dmax r) 2048 w
  let a := aHalf (((s.dillCtx d ctx).snap.map parseHdr).getD r.digit (parseHdr [])).seed r.q r.limb r.block r.digit
  (((g.st.inc (R.DILL_ROWS_COUNT d) 2).inc (R.DILL_DRAWS_COUNT d) a.draws).inc (R.DILL_REJECTS_COUNT d) a.rejects,
    wordsOf g.bytes, a.row, g.ue)

/-- The b-half rows that a context holds for an entry: those of the entry that it serves, then those fetched before it
was served. -/
def DillCtx.held (x : DillCtx) (e : Nat) : List DillRow := x.rows ++ x.ahead.filter fun r => r.entry = e

/-- Every row of an entry, in order, as (b, a) pairs; the flag tells of a b-half that could not be corrected. -/
def State.keyRows (s : State) (d ctx h B dmax : Nat) (rs : List RowAt) : State × List (List Nat × List Nat) × Bool :=
  let held := (s.dillCtx d ctx).held (s.koNext d ctx)
  rs.foldl (fun (acc : State × List (List Nat × List Nat) × Bool) r =>
    let (t, b, a, u) := acc.1.keyRow d ctx h B dmax held[acc.2.1.length]? r
    (t, acc.2.1 ++ [(b, a)], acc.2.2 || u)) (s, [], false)

/-- R145: the first header slot of an entry that cannot be corrected. -/
def State.badSlot (s : State) (e : KeyRef) : Nat :=
  (firstIdx (fun i => s.errAt (s.place e.handle (64 * i)) = 2) (List.range (min e.dcount 8))).getD 0

/-- R151: Dill serves the entry that its context is at again, from its first row and by the same snapshot: the rows it holds
of it are discarded, and the restart is counted. -/
def State.serveAgain (s : State) (d ctx : Nat) : State :=
  let x := s.dillCtx d ctx
  if x.active then
    let z : DillCtx := { x with rows := [], buffered := 0, fetched := 0,
                                ahead := x.ahead.filter fun r => decide (s.koNext d ctx < r.entry) }
    (s.updDie d fun y => { y with dill := y.dill.setIfInBounds ctx z }).sat (R.DILL_RESTARTS_COUNT d) 1
  else s

/-- DILL_ENTRY_SNAPSHOT (R145): the next entry's header slots 0 to DCOUNT − 1 read and kept. A region that is on another
die is not read (R150). -/
def execDillEntrySnapshot (d : DieId) (ctx : Fin 2) (ups : List Upset) (s : State) : Host.Outcome State Fault Refusal :=
  let s := s.plant ups
  .next <|
    match s.keyEntry d ctx with
    | some e =>
      if (s.dillCtx d ctx).active || !s.handleOk e.handle || s.accessWaits e.handle 0 (64 * min e.dcount 8) then s
      else
        let w : Who := { mid := coreMid d 7, site := e.site, job := s.jobIdOn d }
        let got := s.read e.handle 0 (64 * min e.dcount 8) w
        got.st.updDie d fun x => { x with dill := x.dill.setIfInBounds ctx.val (
          { active := true, snap := chunks 64 got.bytes, ahead := (s.dillCtx d ctx).ahead, ueSeen := got.ue,
            ueSlot := s.badSlot e } : DillCtx) }
    | none => s

/-- The rows that an entry streams by its first header, with the blocks and digits of its region. -/
def State.rowsBy (s : State) (ctx : Nat) (e : KeyRef) (h : KeyHdr) : Nat × Nat × List RowAt :=
  let c := s.chainOf h.chain
  if ctx = 0 then (c.N / 512, h.dmax, rows0 c e.level h.hi e.dcount)
  else if h.kind = 3 then
    let B := 2 ^ h.logn / 512
    (B, h.dmax, rows1 (c.prime 0) (bits h.param 0 13) B h.dmax)
  else (0, h.dmax, [])

/-- The rows that the entry in progress streams. -/
def State.entryRows (s : State) (d ctx : Nat) (e : KeyRef) : Nat × Nat × List RowAt :=
  s.rowsBy ctx e (parseHdr ((s.dillCtx d ctx).snap.getD 0 []))

/-- A transfer of b-half rows of an entry read ahead: the state after the reads, and the rows. -/
def State.fetchRows (s : State) (d i B dmax : Nat) (e : KeyRef) (rs : List RowAt) : State × List DillRow :=
  let w : Who := { mid := coreMid d 7, site := e.site, job := s.jobIdOn d }
  rs.foldl (fun (acc : State × List DillRow) r =>
    let g := acc.1.read e.handle (rowOff B dmax r) 2048 w
    (g.st, acc.2 ++ [⟨i, g.bytes, g.ue⟩])) (s, [])

/-- The next later entry of a context with rows that are not fetched, its index, what it streams, and its next rows: Dill
fills its buffer across entry boundaries (R149). Its first header is read from the region for that (DEDUCED, log 136). -/
def State.laterRows (s : State) (d ctx : Nat) : Option (Nat × KeyRef × Nat × Nat × List RowAt) :=
  let x := s.dillCtx d ctx
  let e0 := s.koNext d ctx
  ((List.range (s.koCount d ctx - e0 - 1)).map fun k =>
    let i := e0 + 1 + k
    let e := parseKeyRef (s.peek (s.koHandle d ctx) (16 * i) 16)
    let (B, dmax, rs) := s.rowsBy ctx e (parseHdr (s.peek e.handle 0 64))
    (i, e, B, dmax, (rs.drop ((x.ahead.filter fun r => r.entry = i).length)).take e.dcount)).find? fun p =>
      s.handleOk p.2.1.handle && !p.2.2.2.2.isEmpty

/-- DILL_ROW_FETCH (R149): one transfer of DCOUNT b-half rows of the next stored limb and block read ahead and their
a-halves regenerated, while the buffer of 256 rows has room: of the entry that the context serves, and once those are all
there, of the entries after it. Rows that were fetched before the entry was served are taken as they are. -/
def execDillRowFetch (d : DieId) (ctx : Fin 2) (ups : List Upset) (s : State) : Host.Outcome State Fault Refusal :=
  let s := s.plant ups
  .next <|
    match s.keyEntry d ctx with
    | some e =>
      let x := s.dillCtx d ctx
      let i := s.koNext d ctx
      let (B, dmax, rs) := s.entryRows d ctx e
      let next := (rs.drop (x.fetched / 2)).take e.dcount
      let waits (h B dmax : Nat) (l : List RowAt) : Bool := l.any fun r => s.accessWaits h (rowOff B dmax r) 2048
      if !x.active then s
      else if !next.isEmpty then
        if decide (256 < x.buffered + 2 * e.dcount) || waits e.handle B dmax next then s
        else
          let mine := x.ahead.filter fun r => r.entry = i
          let (t, rows) := if mine.length < next.length then s.fetchRows d i B dmax e next else (s, mine.take next.length)
          let x1 := t.dillCtx d ctx
          t.updDie d fun y => { y with dill := y.dill.setIfInBounds ctx.val (
            { x1 with buffered := x.buffered + 2 * next.length, fetched := x.fetched + 2 * next.length, rows := x.rows ++ rows,
                      ahead := (mine.drop next.length) ++ x.ahead.filter fun r => r.entry != i } : DillCtx) }
      else match s.laterRows d ctx with
        | some (k, e', B', dmax', rs') =>
          if decide (256 < x.buffered + 2 * (x.ahead.length + rs'.length)) || waits e'.handle B' dmax' rs' then s
          else
            let (t, rows) := s.fetchRows d k B' dmax' e' rs'
            let x1 := t.dillCtx d ctx
            t.updDie d fun y => { y with dill := y.dill.setIfInBounds ctx.val (
              { x1 with ahead := x.ahead ++ rows } : DillCtx) }
        | none => s
    | none => s

end Sys2Proof.Machine
end

