-- ==== Sys2Proof/Machine/Basil.lean ====
section
/-! DEFINITION. The macro operations of Basil (R77–R111, R193): NTT, INTT, BCONV, KSIP, GEMM, SEAL and TRREL, each as a
row of checks, sizes and exact results. -/

namespace Sys2Proof.Machine

/-! ### Helpers that macro operations share -/

/-- R190: the queue fields in use are exactly those of the operation's table row. -/
def Issued.qvIs (op : Issued) (a b c x y : Bool) : Bool :=
  op.qv 0 == a && op.qv 1 == b && op.qv 2 == c && op.qv 3 == x && op.qv 4 == y

/-- R190: arguments that the operation does not use are zero. -/
def Issued.argsZero (op : Issued) (is : List Nat) : Bool := is.all fun i => op.arg i = 0

/-- The entries that carry n bytes. -/
def entriesOf (n : Nat) : Nat := ceilDiv n 2048

/-- R49: no descriptor is named. -/
def Issued.noDesc (op : Issued) : Bool :=
  op.din 0 = noRef && op.din 1 = noRef && op.dout 0 = noRef && op.dout 1 = noRef

/-- An operation that forms no descriptor of its own. -/
def noOuts (_ : Ctx) : List Desc := []

/-- R100, R112: the encoded shape equals CDn.BASIL_SHAPE, and a QUAD shape has TK and TN of at most 0b011. -/
def Ctx.shapeMatches (c : Ctx) : Bool :=
  (!c.s.on (R.BASIL_SHAPE_QUAD c.d) || (decide (c.s.rd (R.BASIL_SHAPE_TK c.d) ≤ 3) && decide (c.s.rd (R.BASIL_SHAPE_TN c.d) ≤ 3))) &&
    c.s.rd (R.BASIL_SHAPE_TK c.d) = c.op.tk && c.s.rd (R.BASIL_SHAPE_TN c.d) = c.op.tn &&
    c.s.on (R.BASIL_SHAPE_QUAD c.d) == c.op.quad

/-- The stationary rows and output columns of the encoded shape. -/
def Issued.rowsTK (op : Issued) : Nat := 64 * (op.tk + 1)
def Issued.colsTN (op : Issued) : Nat := 64 * (op.tn + 1)

/-! ### Transforms (R85–R90, R483) -/

/-- What a transform acts on: its chain, members, and the extended limb of each limb task in the order of R88. -/
structure Tasks where
  chain : Chain
  lvl : Nat
  first : Nat
  nl : Nat
  M : Nat
  count : Nat
  deriving DecidableEq, Repr

/-- R193: the transform is encoded in limb-tensor form. -/
def Issued.limbForm (op : Issued) : Bool := op.arg 1 != 0 || op.arg 2 != 0

/-- The limb tasks of a transform: those its encoding names (R483), or every limb of its ciphertext (R88). -/
def Ctx.tasks (c : Ctx) : Option Tasks :=
  if c.op.limbForm then
    (c.s.chain? (bits (c.op.arg 1) 0 8)).map fun ch =>
      { chain := ch, lvl := bits (c.op.arg 2) 8 7, first := bits (c.op.arg 2) 0 7, nl := bits (c.op.arg 2) 16 7,
        M := bits (c.op.arg 2) 24 5 + 1, count := bits (c.op.arg 1) 8 16 }
  else
    match (if c.op.txn = 0 then c.x0 else c.geo) with
    | some x =>
      some { chain := c.s.chainOf x.chain, lvl := x.level, first := 0, nl := x.level + x.special, M := x.M,
             count := x.polys * (x.level + x.special) * x.M }
    | none => none

/-- R483: extended limb of limb task t. -/
def Tasks.ext (k : Tasks) (t : Nat) : Nat := k.first + t / k.M % k.nl

/-- R483: the index in the chain of the prime of limb task t. -/
def Tasks.primeIdx (k : Tasks) (t : Nat) : Nat := k.chain.ext k.lvl (k.ext t)

/-- R483: the run lies in the chain. -/
def Tasks.ok (k : Tasks) : Bool :=
  1 ≤ k.lvl && k.lvl ≤ k.chain.L && 1 ≤ k.nl && k.first + k.nl ≤ k.lvl + k.chain.K && 1 ≤ k.M && k.M ≤ 32 &&
    1 ≤ k.count && k.count % (k.nl * k.M) = 0

/-- R87: the byte offset of a chain's seed table; 0 where it has none. -/
def Ctx.seedTable (c : Ctx) (id : Nat) : Nat :=
  let h := c.s.rd (R.BASIL_TSEED_HANDLE c.d)
  if c.s.handleOk h then leNat (c.s.peek h (8 * id) 8) else 0

/-- R87: seed vectors v to v + n − 1 of prime i, read through the code. -/
def State.seeds (s : State) (d table i v n : Nat) (w : Who) : State × List (List Nat) × Bool :=
  (List.range n).foldl (fun (acc : State × List (List Nat) × Bool) k =>
    let g := acc.1.engineRead (s.rd (R.BASIL_TSEED_HANDLE d)) (table + (9 * i + v + k) * 2048) 2048 w
    (g.st, acc.2.1 ++ [wordsOf g.bytes], acc.2.2 || g.ue)) (s, [], false)

/-- R87: row r of a constant matrix, element j: the seed times the ratio r times. -/
def genRow (q : Nat) (seed ratio : Nat → Nat) (r j : Nat) : Nat := seed j % q * powMod q (ratio j) r % q

/-- R85: pass 1 of the forward transform from the seed vectors. -/
def fwdPass1 (q N1 N2 : Nat) (v : Nat → Nat → Nat) (x : Nat → Nat) (k1 n2 : Nat) : Nat :=
  sumTo N1 (fun n1 => genRow q (v 0) (v 1) k1 n1 * x (N2 * n1 + n2)) % q

/-- R85: the forward transform's value at position N2 × k1 + k2 from the seed vectors. -/
def fwdAt (q N1 N2 : Nat) (v : Nat → Nat → Nat) (x : Nat → Nat) (k1 k2 : Nat) : Nat :=
  sumTo N2 (fun n2 =>
    fwdPass1 q N1 N2 v x k1 n2 * genRow q (v 2) (v 3) k1 n2 % q * powMod q (v 4 k2) n2) % q

/-- R86: pass 1 of the inverse transform from the seed vectors. -/
def invPass1 (q N2 : Nat) (v : Nat → Nat → Nat) (z : Nat → Nat) (k1 n2 : Nat) : Nat :=
  sumTo N2 (fun k2 => z (N2 * k1 + k2) * powMod q (v 5 n2) k2) % q

/-- R86: the coefficient at position N2 × n1 + n2 from the seed vectors. -/
def invAt (q N1 N2 : Nat) (v : Nat → Nat → Nat) (z : Nat → Nat) (n1 n2 : Nat) : Nat :=
  sumTo N1 (fun k1 =>
    invPass1 q N2 v z k1 n2 * genRow q (v 6) (v 7) k1 n2 % q * powMod q (v 8 k1) n1) % q

/-- One limb transformed, positions ascending, from the nine seed vectors. -/
def limbTransform (inverse : Bool) (q N1 N2 : Nat) (seeds : List (List Nat)) (x : List Nat) : List Nat :=
  let v (i j : Nat) : Nat := (seeds.getD i []).getD j 0
  let f (n : Nat) : Nat := x.getD n 0 % q
  (List.range (N1 * N2)).map fun p =>
    if inverse then invAt q N1 N2 v f (p / N2) (p % N2) else fwdAt q N1 N2 v f (p / N2) (p % N2)

/-- The rows of pass 1 of a limb, as the staging buffer holds them (R89). -/
def stagedRows (inverse : Bool) (q N1 N2 : Nat) (seeds : List (List Nat)) (x : List Nat) : List Nat :=
  let v (i j : Nat) : Nat := (seeds.getD i []).getD j 0
  let f (n : Nat) : Nat := x.getD n 0 % q
  (List.range (N1 * N2)).map fun p =>
    if inverse then invPass1 q N2 v f (p / N2) (p % N2) else fwdPass1 q N1 N2 v f (p / N2) (p % N2)

/-- R89: the staging handle of a transform: unused below LOGN 17; transient and N × 4 bytes long from there. -/
def Ctx.stagingOk (c : Ctx) (logn : Nat) : Bool :=
  let h := bits (c.op.arg 0) 0 16
  bits (c.op.arg 0) 16 16 = 0 &&
    if logn ≤ 16 then h = nullHandle else c.s.handleOk h && c.s.hLoc h = 0 && decide (2 ^ logn * 4 ≤ c.s.hLen h)

/-- R100: the configuration and the shape of a transform. -/
def Ctx.transformShape (c : Ctx) : Bool :=
  match c.tasks with
  | some k =>
    c.shapeMatches &&
      (if k.chain.logn ≤ 16 then c.op.cfg = 1 && c.op.tk = 3 && c.op.tn = 3 && c.op.quad
       else c.op.cfg = 0 && c.op.tk = 7 && c.op.tn = 7 && !c.op.quad)
  | none => true

/-- R106, R40, R483: step 1 of a transform. The ciphertext that its DIN0 names is in the form that it takes, inside a
transaction as outside. -/
def Ctx.transformOk (c : Ctx) (inverse : Bool) : Bool :=
  match c.tasks with
  | none => false
  | some k =>
    c.op.qvIs true false false true false && k.ok && c.stagingOk k.chain.logn && c.seedTable k.chain.id != 0 &&
      bits (c.op.arg 1) 24 8 = 0 && bits (c.op.arg 2) 7 1 = 0 && bits (c.op.arg 2) 15 1 = 0 &&
      bits (c.op.arg 2) 23 1 = 0 && bits (c.op.arg 2) 29 3 = 0 && refPresent (c.op.dout 1) = false &&
      (match c.x0 with
        | some x => x.type != 4 && x.form = b2n inverse && x.special = 0
        | none => c.op.limbForm || c.op.txn != 0) &&
      (c.op.limbForm || c.op.txn != 0 || (match c.x0 with
        | some x => c.outHandlesOk 0 x.polys (x.type = 2)
        | none => false))

/-- The transform of every limb task in the order of R88. -/
def Ctx.transform (c : Ctx) (inverse : Bool) (bs : List Byte) : Work :=
  match c.tasks with
  | none => { st := c.s, outs := [] }
  | some k =>
    let N1 := n1Of k.chain.logn
    let N2 := n2Of k.chain.logn
    let table := c.seedTable k.chain.id
    let limbs := (chunks k.chain.N (wordsOf bs))
    let run := (List.range k.count).foldl (fun (acc : State × List (List Nat) × Bool × List Nat) t =>
      let i := k.primeIdx t
      let q := k.chain.prime i
      let sd := acc.1.seeds c.d table i 0 9 c.who
      let x := limbs.getD t []
      (sd.1, acc.2.1 ++ [limbTransform inverse q N1 N2 sd.2.1 x], acc.2.2.1 || sd.2.2,
        stagedRows inverse q N1 N2 sd.2.1 x)) (c.s, [], false, [])
    let h := bits (c.op.arg 0) 0 16
    let staged := decide (17 ≤ k.chain.logn)
    { st := if staged then run.1.write h 0 (bytesOf run.2.2.2) else run.1, outs := [bytesOf run.2.1.flatten],
      flags := b2n run.2.2.1 * 2 ^ Poison.DATA, aux := if staged then [h] else [] }

/-- R128: the INTT that opens a transaction brings the top limbs of a rescale to coefficient form: its run is the top
one or two limbs, and the next Parsley operation of the transaction, issued or yet to be issued, is RSDELTA (DEDUCED,
log 30). -/
def Ctx.opensRescale (c : Ctx) : Bool :=
  match c.x0, c.tasks with
  | some x, some k =>
    let (img, die) := c.s.imageOn c.d
    let g := (c.s.die c.d).group 2
    let ahead := ((List.range (issueCount img die 2 - g.issued)).map fun i => issueRecord img die 2 (g.issued + i)).map fun r =>
      ({ ticket := 0, fine := false, word := leAt r 0 16, pblock := r.drop 16, gblock := [], k1 := [], k2 := [], epochs := [],
         site := 0, core := 0 } : Issued)
    let next := ((g.fifo.filter fun o => !o.fine) ++ ahead).find? fun o => o.txn != 0 && o.txid = c.op.txid
    c.op.txn = 1 && c.op.opc = 0x02 && c.op.limbForm && k.lvl = x.level && k.first + k.nl = k.lvl && k.nl ≤ 2 &&
      (next.map (·.opc)) = some 0x30
  | _, _ => false

/-- R42, R128: the level of a rescale's opening INTT is exhausted. -/
def Ctx.inttExhausted (c : Ctx) : Bool :=
  match c.x0, c.tasks with
  | some x, some k => c.opensRescale && decide (x.level ≤ k.nl)
  | _, _ => false

/-- NTT and INTT as table rows. -/
def transformSpec (opc : Nat) (inverse : Bool) : OpSpec where
  opc := opc
  group := 0
  forms := fun c => c.op.txn = 0 && !c.op.limbForm
  ledg := fun _ => 1
  check := fun c => c.transformOk inverse
  shapeOk := Ctx.transformShape
  exhausted := fun c => inverse && c.inttExhausted
  shape := fun c => c.tasks.map fun k =>
    let n := entriesOf (k.count * k.chain.N * 4)
    ⟨[n, 0, 0], [n, 0], transformSteps k.chain.logn k.count inverse⟩
  work := fun c i => c.transform inverse i.a
  outs := fun c => match c.x0 with
    | some x => [{ x with form := 1 - b2n inverse }]
    | none => []

/-- NTT (R85). -/
def execNtt (d : DieId) (ups : List Upset) (s : State) : Host.Outcome State Fault Refusal :=
  .next ((s.plant ups).runMacro d (transformSpec 0x01 false))

/-- INTT (R86). -/
def execIntt (d : DieId) (ups : List Upset) (s : State) : Host.Outcome State Fault Refusal :=
  .next ((s.plant ups).runMacro d (transformSpec 0x02 true))

/-! ### Base conversion (R91, R92) -/

def Issued.bcA (op : Issued) : Nat := bits (op.arg 1) 0 8
def Issued.bcU (op : Issued) : Nat := bits (op.arg 1) 8 8
def Issued.bcChain (op : Issued) : Nat := bits (op.arg 1) 16 6
def Issued.bcOff (op : Issued) : Nat := bits (op.arg 0) 16 16 * 64

/-- R92: the members of a base conversion of B block tasks. -/
def Ctx.bcM (c : Ctx) : Nat := c.op.arg 2 * 256 / (c.s.chainOf c.op.bcChain).N

/-- R221: the words of a conversion table, and its limb indices, read through the code. -/
def State.convTable (s : State) (h off A U : Nat) (w : Who) : State × List Nat × List Nat × Bool :=
  let n := A + U * A
  let g := s.engineRead h off (4 * n + (A + U)) w
  (g.st, wordsOf (g.bytes.take (4 * n)), (g.bytes.drop (4 * n)).map (·.toNat), g.ue)

/-- R91: the extended limb indices of a conversion as its table's bytes hold them: the A sources, then the U targets. -/
def Ctx.bcLimbs (c : Ctx) : List Nat :=
  (c.s.peek (bits (c.op.arg 0) 0 16) (c.op.bcOff + 4 * (c.op.bcA + c.op.bcU * c.op.bcA)) (c.op.bcA + c.op.bcU)).map (·.toNat)

/-- R39: a base conversion is a mod-down's: its sources are the special limbs. -/
def Ctx.isModDown (c : Ctx) : Bool :=
  let ch := c.s.chainOf c.op.bcChain
  c.op.bcA = ch.K && (c.bcLimbs.take c.op.bcA).all fun i => decide (ch.L ≤ i)

/-- R39, R40: a transaction's rows carry the special limbs, and a mod-down requires them. -/
def Ctx.specialOk (c : Ctx) : Bool :=
  match c.txn with
  | some t => !c.isModDown || t.special = (c.s.chainOf c.op.bcChain).K
  | none => true

/-- R39: the SPECIAL of a transaction's rows after a base conversion: K after one that writes special limbs, 0 after a
mod-down. -/
def Ctx.bcSpecial (c : Ctx) : Option Nat :=
  let ch := c.s.chainOf c.op.bcChain
  if c.isModDown then some 0
  else if (c.bcLimbs.drop c.op.bcA).any fun i => decide (ch.L ≤ i) then some ch.K else none

/-- R91, R92, R106: step 1 of BCONV. -/
def Ctx.bconvOk (c : Ctx) : Bool :=
  let h := bits (c.op.arg 0) 0 16
  let A := c.op.bcA
  let U := c.op.bcU
  match c.s.chain? c.op.bcChain with
  | none => false
  | some ch =>
    c.op.qvIs true false false true false && bits (c.op.arg 1) 22 10 = 0 && 1 ≤ A && 1 ≤ U && U ≤ 112 &&
      1 ≤ c.op.arg 2 && c.op.arg 2 % (ch.N / 256) = 0 && c.bcM ≤ 32 && c.s.handleOk h &&
      decide (c.op.bcOff + ceilDiv (4 * (A + U * A) + A + U) 64 * 64 ≤ c.s.hLen h) &&
      (match c.x0 with
       | some x => x.form = 0
       | none => true) && c.specialOk &&
      (match c.txnDesc with
       | some x => x.M = c.bcM && x.chain = c.op.bcChain
       | none => c.op.txn = 0 || (match c.x0 with
         | some x => x.M = c.bcM && x.chain = c.op.bcChain
         | none => false))

/-- R91: the U output limbs from the A source limbs of M members, member-minor. -/
def bconvOut (N M : Nat) (src tgt invs : List Nat) (row : Nat → List Nat) (x : Nat → Nat) : List Nat :=
  (List.range tgt.length).flatMap fun u => (List.range M).flatMap fun m => (List.range N).map fun p =>
    bconvAt (tgt.getD u 1) ((List.range src.length).map fun j => x ((j * M + m) * N + p)) src invs (row u)

/-- BCONV computed. -/
def Ctx.bconv (c : Ctx) (bs : List Byte) : Work :=
  let ch := c.s.chainOf c.op.bcChain
  let A := c.op.bcA
  let U := c.op.bcU
  let (s1, ws, ix, ue) := c.s.convTable (bits (c.op.arg 0) 0 16) c.op.bcOff A U c.who
  let xs := (wordsOf bs).toArray
  let primes := ix.map ch.prime
  { st := s1, flags := b2n ue * 2 ^ Poison.DATA,
    outs := [bytesOf (bconvOut ch.N c.bcM (primes.take A) ((primes.drop A).take U) (ws.take A)
      (fun u => (ws.drop (A + u * A)).take A) (fun i => xs.getD i 0))] }

/-- BCONV as a table row. -/
def bconvSpec : OpSpec where
  opc := 0x03
  group := 0
  forms := fun _ => false
  ledg := fun _ => 0
  check := Ctx.bconvOk
  constOnly := fun c => c.s.hAttr (bits (c.op.arg 0) 0 16) Attr.CONST
  special := Ctx.bcSpecial
  shapeOk := fun c => c.shapeMatches && c.op.cfg = 2 && c.op.quad && decide (c.op.bcA ≤ c.op.rowsTK) && c.op.tk ≤ 3 && c.op.tn ≤ 3
  shape := fun c =>
    let N := (c.s.chainOf c.op.bcChain).N
    some ⟨[entriesOf (c.op.bcA * c.bcM * N * 4), 0, 0], [entriesOf (c.op.bcU * c.bcM * N * 4), 0],
      bconvSteps c.op.bcA c.op.bcU (c.op.arg 2)⟩
  work := fun c i => c.bconv i.a
  outs := noOuts

/-- BCONV (R91). -/
def execBconv (d : DieId) (ups : List Upset) (s : State) : Host.Outcome State Fault Refusal :=
  .next ((s.plant ups).runMacro d bconvSpec)

/-! ### The key-switch inner product (R93, R94) -/

/-- R94, R106: step 1 of KSIP. -/
def Ctx.ksipOk (c : Ctx) : Bool :=
  match c.geo with
  | some x =>
    (match c.x0 with
     | some y => y.form = 1
     | none => true) &&
    c.op.txn != 0 && c.op.qvIs true false false true true && x.type != 4 && x.type != 2 && x.M ≤ 32 &&
      bits (c.op.arg 0) 4 28 = 0 && c.op.arg 0 = c.chain.digits x.level && c.op.arg 0 ≤ c.chain.dnum && c.op.argsZero [1, 2]
  | none => false

/-- R145: what the header check of KSIP compares. -/
def Ctx.ksipWant (c : Ctx) (x : Desc) : KeyWant :=
  { keyent := c.op.keyent, site := c.op.site, level := x.level, kind := if c.galois = 0 then 1 else 2,
    keyset := x.keyset, size := fun h => h.logn = x.logn, chain := x.chain,
    level' := fun h => h.lo ≤ x.level && x.level ≤ h.hi, param := fun h => h.kind != 2 || h.param = c.galois,
    digits := fun e h => e.dcount ≤ h.dmax && e.dcount = c.op.arg 0 }

/-- R93, R94: the two output rows of one block: member digits and key rows, digit by digit. -/
def ksipBlock (r M : Nat) (digits : List (List Nat)) (keys : List (List Nat × List Nat)) : List (List Nat) × List (List Nat) :=
  let D := keys.length
  let out (half : List Nat × List Nat → List Nat) (m : Nat) : List Nat := (List.range 512).map fun p =>
    ksipAt r ((List.range D).map fun j => (digits.getD (j * M + m) []).getD p 0) (keys.map fun k => (half k).getD p 0)
  ((List.range M).map (out (·.1)), (List.range M).map (out (·.2)))

/-- KSIP computed: blocks in the order of R94. -/
def Ctx.ksip (c : Ctx) (bs : List Byte) : Work :=
  match c.geo, c.s.keyEntry c.d 0 with
  | some x, some e =>
    let h := parseHdr ((c.s.dillCtx c.d 0).snap.getD 0 [])
    let rs := rows0 c.chain x.level h.hi e.dcount
    let (s1, keys, ue) := c.s.keyRows c.d 0 e.handle (x.N / 512) h.dmax rs
    let D := e.dcount
    let M := x.M
    let dig := chunks (D * M) (chunks 512 (wordsOf bs))
    let kb := chunks D keys
    let primes := (chunks D rs).map fun l => ((l.head?).map (·.q)).getD 1
    let outs := (List.range kb.length).map fun i => ksipBlock (primes.getD i 1) M (dig.getD i []) (kb.getD i [])
    { st := s1, flags := b2n ue * 2 ^ Poison.DATA,
      outs := [bytesOf (outs.flatMap (·.1)).flatten, bytesOf (outs.flatMap (·.2)).flatten] }
  | _, _ => { st := c.s, outs := [] }

/-- KSIP as a table row. -/
def ksipSpec : OpSpec where
  opc := 0x04
  group := 0
  forms := fun _ => false
  ledg := fun _ => 0
  keyCtx := some 0
  special := fun c => some c.chain.K
  check := Ctx.ksipOk
  shapeOk := fun c => c.shapeMatches && c.op.cfg = 0 && c.op.tk = 7 && c.op.tn = 7 && !c.op.quad
  key := fun c => match c.geo with
    | some x => c.s.keyCheck c.d 0 (c.ksipWant x)
    | none => (none, c.s)
  shape := fun c => c.geo.map fun x =>
    let n := (x.level + c.chain.K) * (x.N / 512) * x.M
    ⟨[n * c.op.arg 0, 0, 0], [n, n], ksipSteps (x.level + c.chain.K) x.N x.M (c.op.arg 0)⟩
  work := fun c i => c.ksip i.a
  outs := noOuts

/-- KSIP (R93). -/
def execKsip (d : DieId) (ups : List Upset) (s : State) : Host.Outcome State Fault Refusal :=
  .next ((s.plant ups).runMacro d ksipSpec)

/-! ### Matrix products (R95, R96, R101–R105, R195) -/

/-- R195: a GEMM block. -/
structure GBlock where
  M : Nat
  N : Nat
  K : Nat
  fa : Nat
  fb : Nat
  fc : Nat
  blk : Nat
  pro : Nat
  epi : Bool
  limb : Nat
  chain : Nat
  rsv : Bool
  invk : Nat
  eps : Nat
  avec : Nat
  bvec : Nat
  psite : Nat
  coef : List Nat
  deriving DecidableEq, Repr

def parseG (b : List Byte) : GBlock :=
  let w := leAt b 0xC 4
  { M := leAt b 0 4, N := leAt b 4 4, K := leAt b 8 4, fa := bits w 0 3, fb := bits w 3 3, fc := bits w 6 3,
    blk := bits w 9 3, pro := bits w 12 2, epi := bitOf w 14, limb := bits w 15 7, chain := bits w 22 6,
    rsv := bits w 28 4 != 0 || leAt b 0x30 16 != 0, invk := leAt b 0x10 4, eps := leAt b 0x14 4, avec := leAt b 0x18 2,
    bvec := leAt b 0x1A 2, psite := leAt b 0x1C 4, coef := (List.range 4).map fun i => leAt b (0x20 + 4 * i) 4 }

/-- The block of the operation. -/
def Issued.gb (op : Issued) : GBlock := parseG op.gblock

/-- The partial-sum and the statistics handle. -/
def Issued.psum (op : Issued) : Nat := bits (op.arg 0) 0 16
def Issued.stats (op : Issued) : Nat := bits (op.arg 0) 16 16

/-- R79: reduction indices per stationary row. -/
def Issued.P (op : Issued) : Nat := if op.opn then 32 / fmtBits op.gb.fa else 1

/-- The n-tiles and the k-tiles of a product. -/
def Issued.nTiles (op : Issued) : Nat := ceilDiv op.gb.N op.colsTN
def Issued.kTiles (op : Issued) : Nat := ceilDiv op.gb.K (op.rowsTK * op.P)

/-- R59: the pairs of operand formats. -/
def pairOk (a b : Nat) : Bool :=
  (a = 1 && b = 1) || (a = 2 && b = 2) || ((a = 3 || a = 4) && (b = 3 || b = 4)) || (a = 5 && b = 5) || (a = 6 && b = 6)

/-- R104: a statistics buffer of n rows. -/
def State.statsOk (s : State) (h n : Nat) : Bool := s.handleOk h && decide (64 + 16 * n ≤ s.hLen h)

/-- A prologue vector of K words. -/
def State.vecOk (s : State) (h K : Nat) : Bool := s.handleOk h && decide (4 * K ≤ s.hLen h)

/-- An operand descriptor of a product agrees with the block (R59). -/
def gemmDesc (t : Option TDesc) (opn : Bool) (f blk n0 n1 : Nat) : Bool :=
  match t with
  | none => blk = 0
  | some t => t.mod == !opn && (!opn || (t.fmt = f && t.blk = blk)) && t.n0 = n0 && t.n1 * t.n2 * t.n3 = n1

/-- R59, R95, R101, R106, R194: step 1 of GEMM. -/
def Ctx.gemmOk (c : Ctx) : Bool :=
  let g := c.op.gb
  let caps := c.s.on (R.BASIL_CFG_OPEN_EN c.d) &&
    (g.fa != 1 && g.fa != 2 || c.s.on (R.BASIL_CAPS_F16 c.d)) && (g.fa = 1 || g.fa = 2 || g.fa = 6 || c.s.on (R.BASIL_CAPS_F8 c.d)) &&
    (g.fa != 6 || c.s.on (R.BASIL_CAPS_F4 c.d))
  let tb := (c.tOut 0).map (·.blk)
  c.op.qvIs true true g.epi true false && !g.rsv && c.op.argsZero [2] && 1 ≤ g.M && 1 ≤ g.N && 1 ≤ g.K &&
    (if c.op.opn then
      caps && pairOk g.fa g.fb && fmtOk g.fa g.blk && fmtOk g.fb g.blk && fmtOk g.fc (tb.getD 0) && g.limb = 0 && g.chain = 0
     else
      g.fa = 0 && g.fb = 0 && g.fc = 0 && g.blk = 0 && g.pro ≤ 1 && c.op.stats = nullHandle &&
        (match c.s.chain? g.chain with
         | some ch => g.limb < ch.L + ch.K
         | none => false)) &&
    gemmDesc c.t0 c.op.opn g.fa g.blk g.K g.M && gemmDesc c.t1 c.op.opn g.fb g.blk g.K g.N &&
    gemmDesc (c.tOut 0) c.op.opn g.fc (tb.getD 0) g.N g.M && !refPresent (c.op.dout 1) &&
    (if g.pro = 1 then c.s.vecOk g.avec g.K && c.s.vecOk g.bvec g.K else g.avec = nullHandle && g.bvec = nullHandle) &&
    (g.pro = 2 || g.coef.all (· = 0)) && (g.pro = 3 || g.psite = 0) &&
    (if g.pro = 3 then c.s.statsOk c.op.stats g.M else
      (if c.op.stats = nullHandle then g.invk = 0 && g.eps = 0 else c.s.statsOk c.op.stats g.M)) &&
    (if c.op.kTiles ≤ 1 then c.op.psum = nullHandle || c.s.handleOk c.op.psum
     else c.s.handleOk c.op.psum && decide (g.M * min g.N c.op.colsTN * 4 ≤ c.s.hLen c.op.psum))

/-- R105: the seal that a row-statistic prologue awaits. -/
def Ctx.sealReady (c : Ctx) : Bool :=
  let g := c.op.gb
  if c.op.opn && g.pro = 3 && c.s.statsOk c.op.stats g.M then
    let w := leNat (c.s.peek c.op.stats 0 8)
    bitOf w 63 && bits w 0 32 = g.psite
  else true

/-- R97: the element codes that a word packs. -/
def unpackWord (f w : Nat) : List Nat :=
  let b := fmtBits f
  (List.range (32 / b)).map fun i => bits w (i * b) b

/-- One operand row of the product: for tile nt (of B) or row r, the codes along the reduction, from the words of its
tiles in order. `at` gives the word of k-tile kt and array row j. -/
def gatherCodes (opn : Bool) (f K TK kTiles : Nat) (word : Nat → Nat → Nat) : List Nat :=
  let ws := (List.range kTiles).flatMap fun kt => (List.range TK).map fun j => word kt j
  (if opn then ws.flatMap (unpackWord f) else ws).take K

/-- The values of a row of codes with its block scales. -/
def rowValues (f blk : Nat) (codes scales : List Nat) : List FV :=
  (List.range codes.length).map fun i =>
    decScaled f blk (codes.getD i 0) (if blk = 0 then 0 else scales.getD (i / blkSize blk) 0)

/-- R64: the prologue of an OPEN product on the value at reduction index k of row r, as an FP32 code. The encoding of R195
carries four coefficients and no degree: Horner's rule starts from the third one, and a polynomial of lower degree has
zeros there (DESIGN CHOICE, log 137). -/
def openPrologue (g : GBlock) (a b : Nat → Nat) (rowA rowB : Nat) (x k : Nat) : Nat :=
  match g.pro with
  | 1 => fma32 (a k) x (b k)
  | 2 =>
    let c (i : Nat) : Nat := g.coef.getD i 0
    fma32 (fma32 (fma32 (c 3) x (c 2)) x (c 1)) x (c 0)
  | 3 => fma32 rowA x rowB
  | _ => x

/-- The leaves of an OPEN inner product: one per scale block of s elements. -/
def leavesOf (s : Nat) (a b : List FV) : List Nat := (chunks s (a.zip b)).map (leafValue 0)

/-- The words of a handle's vector, read through the code. -/
def State.readVec (s : State) (use : Bool) (h n : Nat) (w : Who) : State × List Nat × Bool :=
  if use then
    let g := s.engineRead h 0 (4 * n) w
    (g.st, wordsOf g.bytes, g.ue)
  else (s, [], false)

/-- The scale bytes of an operand's descriptor, by row. -/
def State.readScaleRows (s : State) (t : Option TDesc) (blk : Nat) (w : Who) : State × List (List Nat) × Bool :=
  match t with
  | some t =>
    if blk = 0 then (s, [], false)
    else
      let g := s.readScales t w
      (g.st, chunks t.blocks (g.bytes.map (·.toNat)), g.ue)
  | none => (s, [], false)

/-- R73: an element as it is stored is a zero: code 0 of INT8, either zero of a floating-point format. -/
def storedZero (f code : Nat) : Bool := if f = 5 then code = 0 else code % 2 ^ (fmtBits f - 1) = 0

/-- R73: the watch of an OPEN site whose output has a format and a block code: zeros, saturations and non-finite values added.
An element of a block NaN is no zero, whatever its code. -/
def State.watchOpen (s : State) (c : Ctx) (fmt blk : Nat) (xs : List Stored) : State :=
  if c.op.watch then
    let zero (x : Stored) : Bool := storedZero fmt x.code && !(blk != 0 && x.mark = 2)
    s.watch c.job c.op.site c.d c.g fun f =>
      [f.getD 0 0 + ((xs.filter zero).length : Int), f.getD 1 0 + ((xs.filter fun x => x.mark = 1).length : Int),
       f.getD 2 0 + ((xs.filter fun x => x.mark = 2).length : Int)]
  else s

/-- R67: the random word of an OPEN addition. -/
def Ctx.openWord (c : Ctx) (index pass : Nat) : Nat :=
  srWord (((c.s.jobOn c.d).map (·.seed)).getD []) c.op.site index pass

/-- R104: A_r and B_r from SUM_r and SUMSQ_r. -/
def sealRow (invk eps sum sumsq : Nat) : Nat × Nat :=
  let mean := mul32 sum invk
  let msq := mul32 sumsq invk
  let v := sub32 msq (mul32 mean mean)
  let var := if (dec32 v).isNan || (dec32 v).lt (.fin false 0 0) then 0 else v
  let A := rne32 (dec32 (add32 var eps)).rsqrt
  (A, rne32 ((dec32 mean).negate.mul (dec32 A)))

/-- R103, R104: the bytes of rows of statistics: SUM, SUMSQ, A and B. -/
def statRows (invk eps : Nat) (rows : List (Nat × Nat)) : List Byte :=
  rows.flatMap fun p => let (A, B) := sealRow invk eps p.1 p.2; bytesOf [p.1, p.2, A, B]

/-- R103: SEALED cleared in a statistics buffer, and its rows written. -/
def State.writeStats (s : State) (h : Nat) (rows : List Byte) : State :=
  (s.write h 0 (leBytes 8 (setBits (leNat (s.peek h 0 8)) 63 1 0))).write h 64 rows

/-- GEMM in MOD mode: C's residues, row by row within each n-tile, and the partial sums of the last n-tile. -/
def gemmMod (op : Issued) (q : Nat) (a b : Nat → List Nat) (res : Nat → Nat) : List Nat × List Nat :=
  let g := op.gb
  let TN := op.colsTN
  let cols (nt : Nat) : List Nat := (List.range (min TN (g.N - nt * TN))).map fun j => nt * TN + j
  let dot (k r col : Nat) : Nat := sumN (((a r).zip (b col)).take k |>.map fun p => p.1 * p.2) % q
  let out := (List.range op.nTiles).flatMap fun nt => (List.range g.M).flatMap fun r => (cols nt).map fun col => (r, col)
  let xs := (List.range out.length).map fun i =>
    let p := out.getD i (0, 0)
    let v := dot g.K p.1 p.2
    if g.epi then (v + res i) % q else v
  let last := (List.range g.M).flatMap fun r => (cols (op.nTiles - 1)).map fun col => dot ((op.kTiles - 1) * op.rowsTK) r col
  (xs, last)

/-- GEMM computed (R95): operand words tile by tile, k-tiles inner (log 29). The residual is decoded in C's format with no
block scale, also where C has one: R64 and R101 name no scale for it (DESIGN CHOICE, log 138). -/
def Ctx.gemm (c : Ctx) (i : Ins) : Work :=
  let g := c.op.gb
  let TK := c.op.rowsTK
  let TN := c.op.colsTN
  let kt := c.op.kTiles
  let A := (wordsOf i.a).toArray
  let B := (wordsOf i.b).toArray
  let wordA (r k j : Nat) : Nat := A.getD ((k * g.M + r) * TK + j) 0
  let wordB (col k j : Nat) : Nat := B.getD (((col / TN * kt + k) * TK + j) * TN + col % TN) 0
  let rowA (r : Nat) : List Nat := gatherCodes c.op.opn g.fa g.K TK kt (wordA r)
  let colB (col : Nat) : List Nat := gatherCodes c.op.opn g.fb g.K TK kt (wordB col)
  let (s1, av, u1) := c.s.readVec (g.pro = 1) g.avec g.K c.who
  let (s2, bv, u2) := s1.readVec (g.pro = 1) g.bvec g.K c.who
  let order : List (Nat × Nat) := (List.range c.op.nTiles).flatMap fun nt => (List.range g.M).flatMap fun r =>
    (List.range (min TN (g.N - nt * TN))).map fun j => (r, nt * TN + j)
  let aux := (if kt ≤ 1 then [] else [c.op.psum])
  if !c.op.opn then
    let q := (c.s.chainOf g.chain).prime g.limb
    let pa (r : Nat) : List Nat := (List.range g.K).map fun k =>
      let x := (rowA r).getD k 0
      if g.pro = 1 then (av.getD k 0 * x + bv.getD k 0) % q else x
    let resid := (wordsOf i.c).toArray
    let (xs, last) := gemmMod c.op q pa colB (fun n => resid.getD n 0)
    { st := if kt ≤ 1 then s2 else s2.write c.op.psum 0 (bytesOf last), outs := [bytesOf xs], aux := aux,
      auxData := if kt ≤ 1 then [] else [(c.op.psum, 0, bytesOf last)], flags := b2n (u1 || u2) * 2 ^ Poison.DATA }
  else
    let (s3, sa, u3) := s2.readScaleRows c.t0 g.blk c.who
    let (s4, sb, u4) := s3.readScaleRows c.t1 g.blk c.who
    let stat : Got := if g.pro = 3 then s4.engineRead c.op.stats 0 (64 + 16 * g.M) c.who else ⟨s4, [], false⟩
    let s5 := stat.st
    let sl := if g.blk = 0 then 1 else blkSize g.blk
    let va (r : Nat) : List FV :=
      let vs := rowValues g.fa g.blk (rowA r) (sa.getD r [])
      if g.pro = 0 then vs
      else (List.range vs.length).map fun k =>
        dec32 (openPrologue g (fun k => av.getD k 0) (fun k => bv.getD k 0) (leAt stat.bytes (64 + 16 * r + 8) 4)
          (leAt stat.bytes (64 + 16 * r + 12) 4) (rne32 (vs.getD k .nan)) k)
    let vb (col : Nat) : List FV := rowValues g.fb g.blk (colB col) (sb.getD col [])
    let red (K' r col : Nat) : Nat :=
      openReduce g.K sl (leavesOf sl ((va r).take K') ((vb col).take K')) (c.openWord (col + r * g.N))
    let cb := fmtBits g.fc
    let resid := (unpackElems cb (g.M * g.N) i.c).toArray
    let vals := (List.range order.length).map fun n =>
      let p := order.getD n (0, 0)
      let v := red g.K p.1 p.2
      if g.epi then add32 v (rne32 (decElem g.fc 0 (resid.getD n 0))) else v
    let valAt (r col : Nat) : Nat := match firstIdx (fun p => p == (r, col)) order with
      | some n => vals.getD n 0
      | none => 0
    let blkC := ((c.tOut 0).map (·.blk)).getD 0
    let stored : List (List Nat × List Stored) := (List.range g.M).map fun r => storeRow g.fc blkC ((List.range g.N).map fun col => dec32 (valAt r col))
    let codes := order.map fun p => ((stored.getD p.1 ([], [])).2.getD p.2 ⟨0, 0⟩).code
    let s6 := match c.tOut 0 with
      | some t => if blkC = 0 then s5 else s5.writeScales t (stored.flatMap fun (p : List Nat × List Stored) => p.1.map (BitVec.ofNat 8))
      | none => s5
    let sums := bytesOf ((List.range g.M).flatMap fun r =>
      ((order.filter fun (p : Nat × Nat) => p.1 = r && (c.op.nTiles - 1) * TN ≤ p.2).map fun (p : Nat × Nat) => red ((kt - 1) * TK * c.op.P) r p.2))
    let s7 := if kt ≤ 1 then s6 else s6.write c.op.psum 0 sums
    let produce := g.pro != 3 && c.op.stats != nullHandle
    let rows := (List.range g.M).map fun r =>
      let xs := (List.range g.N).map (valAt r)
      (openReduce g.N 1 xs (c.openWord (2 * r)), openReduce g.N 1 (xs.map fun x => mul32 x x) (c.openWord (2 * r + 1)))
    let stats := statRows g.invk g.eps rows
    let s8 := if produce then
        (s7.writeStats c.op.stats stats).updDie c.d fun x =>
          { x with statProd := mapPut x.statProd c.op.stats (c.op.site, g.invk, g.eps) }
      else s7
    { st := s8.watchOpen c g.fc blkC (stored.flatMap fun (p : List Nat × List Stored) => p.2), outs := [packElems cb codes],
      aux := aux ++ (if produce then [c.op.stats] else []), wrote := blkC != 0 && (c.tOut 0).isSome,
      auxData := (if kt ≤ 1 then [] else [(c.op.psum, 0, sums)]) ++ (if produce then [(c.op.stats, 64, stats)] else []),
      sealing := if produce then some (c.op.stats, c.op.site) else none, flags := b2n (u1 || u2 || u3 || u4 || stat.ue) * 2 ^ Poison.DATA }

/-- GEMM as a table row. -/
def gemmSpec : OpSpec where
  opc := 0x05
  group := 0
  forms := fun _ => false
  ledg := fun c => if c.op.opn then 0 else 3
  check := Ctx.gemmOk
  shapeOk := fun c => c.shapeMatches &&
    (if c.op.cfg = 0 then !c.op.quad else c.op.cfg = 2 && c.op.quad && c.op.tk ≤ 3 && c.op.tn ≤ 3)
  ready := Ctx.sealReady
  shape := fun c =>
    let g := c.op.gb
    let out := entriesOf (ceilDiv (g.M * g.N * (if c.op.opn then fmtBits g.fc else 32)) 8)
    some ⟨[entriesOf (c.op.kTiles * g.M * c.op.rowsTK * 4 * c.op.nTiles),
      entriesOf (c.op.nTiles * c.op.kTiles * c.op.rowsTK * c.op.colsTN * 4), if g.epi then out else 0], [out, 0],
      gemmSteps c.op.opn g.M g.N g.K c.op.rowsTK c.op.colsTN c.op.P⟩
  work := fun c i => c.gemm i
  outs := noOuts

/-- GEMM (R95). -/
def execGemm (d : DieId) (ups : List Upset) (s : State) : Host.Outcome State Fault Refusal :=
  .next ((s.plant ups).runMacro d gemmSpec)

/-! ### SEAL and TRREL (R99, R104) -/

/-- SEAL computed: A_r and B_r of every row from the sums in the buffer, with the constants of its producer. -/
def Ctx.sealWork (c : Ctx) : Work :=
  let h := c.op.psum
  let n := c.op.arg 1
  let g := c.s.engineRead h 64 (16 * n) c.who
  let (site, invk, eps) := mapGet (c.op.site, 0, 0) (c.s.die c.d).statProd h
  let rows := (List.range n).map fun r => (leAt g.bytes (16 * r) 4, leAt g.bytes (16 * r + 4) 4)
  { st := g.st.writeStats h (statRows invk eps rows), outs := [], aux := [h], auxData := [(h, 64, statRows invk eps rows)],
    sealing := some (h, site), flags := b2n g.ue * 2 ^ Poison.DATA }

/-- SEAL as a table row. -/
def sealSpec : OpSpec where
  opc := 0x06
  group := 0
  forms := fun _ => false
  ledg := fun _ => 0
  check := fun c => c.op.qvIs false false false false false && c.op.noDesc && bits (c.op.arg 0) 16 16 = 0 &&
    c.op.argsZero [2] && c.s.statsOk c.op.psum (c.op.arg 1)
  shapeOk := Ctx.shapeMatches
  shape := fun c => some ⟨[0, 0, 0], [0, 0], c.op.arg 1 / 8 + 16⟩
  work := fun c _ => c.sealWork
  outs := noOuts

/-- SEAL (R104). -/
def execSeal (d : DieId) (ups : List Upset) (s : State) : Host.Outcome State Fault Refusal :=
  .next ((s.plant ups).runMacro d sealSpec)

/-- R99: the in-use flags of the tile registers in a mask cleared. -/
def State.releaseTiles (s : State) (d mask : Nat) : State :=
  s.wr (R.BASIL_INUSE_INUSE d) ((List.range 48).foldl (fun x i => if bitOf mask i then clearBit x i else x)
    (s.rd (R.BASIL_INUSE_INUSE d)))

/-- R99: what a context save copies: the tile registers whose in-use flag is set, with their scales; never a window. -/
def State.savedTiles (s : State) (d : Nat) : NMap (List Word32) × NMap (List Byte) :=
  let used (t : Nat) : Bool := t < 48 && bitOf (s.rd (R.BASIL_INUSE_INUSE d)) t
  ((s.die d).tiles.filter fun p => used p.1, (s.die d).tileScales.filter fun p => used p.1)

/-- R99: a context restore: the registers that it writes get their flags, and all other flags are clear. -/
def State.restoreTiles (s : State) (d : Nat) (saved : NMap (List Word32) × NMap (List Byte)) : State :=
  (s.updDie d fun x =>
    { x with tiles := saved.1.foldl (fun m p => mapPut m p.1 p.2) x.tiles
             tileScales := saved.2.foldl (fun m p => mapPut m p.1 p.2) x.tileScales }).wr (R.BASIL_INUSE_INUSE d)
    (saved.1.foldl (fun w p => setBit w p.1) 0)

/-- TRREL as a table row. -/
def trrelSpec : OpSpec where
  opc := 0x07
  group := 0
  forms := fun _ => false
  ledg := fun _ => 0
  check := fun c => c.op.qvIs false false false false false && c.op.noDesc && bits (c.op.arg 1) 16 16 = 0 && c.op.argsZero [2]
  shapeOk := Ctx.shapeMatches
  shape := fun _ => some ⟨[0, 0, 0], [0, 0], 1⟩
  work := fun c _ => { st := c.s.releaseTiles c.d (c.op.arg 0 + bits (c.op.arg 1) 0 16 * 2 ^ 32), outs := [] }
  outs := noOuts

/-- TRREL (R99). -/
def execTrrel (d : DieId) (s : State) : Host.Outcome State Fault Refusal :=
  .next (s.runMacro d trrelSpec)

end Sys2Proof.Machine
end

