-- ==== Sys2Proof/Machine/Mint.lean ====
section
/-! DEFINITION. The macro operations of Mint (R113–R121): AUT and PERM. -/

namespace Sys2Proof.Machine

/-- R190, R193: the units that the operation names are one or both. -/
def Issued.unitsOk (op : Issued) : Bool := op.xf != 0

/-- The units named. -/
def Issued.units (op : Issued) : Nat := popcount 2 op.xf

/-- R116: the input position that output position p of a limb takes under the automorphism with element g. -/
def autSource (N1 N2 g p : Nat) : Nat :=
  let N := N1 * N2
  let k := evalIndex N1 N2 p
  let k' := ((2 * k + 1) * g % (2 * N) - 1) / 2
  N2 * (k' % N1) + k' / N1

/-- R116: one limb modulo q in evaluation form permuted; what it writes is reduced (R24). -/
def autLimb (q N1 N2 g : Nat) (x : List Nat) : List Nat :=
  (List.range (N1 * N2)).map fun p => x.getD (autSource N1 N2 g p) 0 % q

/-- The prime of limb task t (R88): the limb of its place among the members and limbs of its descriptor, or of the rows of its
transaction, which carry the special limbs after a mod-up (R39). -/
def Ctx.taskPrime (c : Ctx) (t : Nat) : Nat :=
  match c.geo with
  | some x =>
    let special := if c.op.txn = 0 || c.op.txn = 1 then x.special else (c.txn.map (·.special)).getD 0
    c.chain.prime (c.chain.ext x.level (t / x.M % (x.level + special)))
  | none => 0

/-- R120: the bank and the row of a limb store in which the residue at input position i lies. -/
def storePlace (i : Nat) : Nat × Nat := ((i + i / 512) % 512, i / 512)

/-- R115: the limb store that limb task t is loaded into, by unit and store: with both units, unit 0 takes the even tasks and
unit 1 the odd ones; a unit's tasks go to its two stores in turn. -/
def storeOf (xf t : Nat) : Nat :=
  if xf = 3 then t % 2 * 2 + t / 2 % 2 else (if xf = 2 then 2 else 0) + t % 2

/-- R115, R120: a limb task of up to 512 × 512 residues as its store holds it, row by row of 512 banks. -/
def storeWords (x : List Nat) : List Word32 :=
  let xs := x.toArray
  (List.range x.length).map fun k =>
    let r := k / 512
    BitVec.ofNat 32 (xs.getD (r * 512 + (k % 512 + 512 - r % 512) % 512) 0)

/-- R115: the limb tasks of an operation loaded one after another into the stores of the units that it names. -/
def State.loadStores (s : State) (d xf : Nat) (tasks : List (List Nat)) : State :=
  s.updDie d fun x => { x with limbStores :=
    (List.range tasks.length).foldl (fun m t => mapPut m (storeOf xf t) (storeWords (tasks.getD t []))) x.limbStores }

/-- The limb tasks of a Mint operation: inside a transaction those whose entries the graph gives it, where it gives
any; else those of the descriptor that fixes its sizes. -/
def Ctx.mintTasks (c : Ctx) : Option Nat :=
  c.geo.map fun x =>
    let n := if c.op.txn = 0 then 0 else (c.graphShape.need.getD 0 0) * 512 / x.N
    if n = 0 then x.polys * (x.level + x.special) * x.M else n

/-- R121: the steps of n limb tasks on u units, with `extra` conflict steps per task (of a pair of tasks on two units: DESIGN
CHOICE, log 142). -/
def mintSteps (N n u extra : Nat) : Nat := (N / 512) * (ceilDiv n u + 1) + 24 + ceilDiv n u * extra

/-- R116, R117: step 1 of AUT. -/
def Ctx.autOk (c : Ctx) : Bool :=
  match c.geo with
  | some x =>
    c.op.qvIs true false false true false && c.op.unitsOk && c.op.argsZero [1, 2] && c.op.arg 0 % 2 = 1 &&
      c.op.arg 0 < 2 * x.N && !c.op.opn && (c.x0.isNone || (x.form = 1 && x.special = 0)) &&
      (if c.op.txn = 0 then x.type = 2 && c.outHandlesOk 0 1 true else x.type != 2)
  | none => false

/-- AUT as a table row. -/
def autSpec : OpSpec where
  opc := 0x10
  group := 1
  forms := fun c => c.op.txn = 0
  ledg := fun _ => 1
  check := Ctx.autOk
  shape := fun c => match c.geo, c.mintTasks with
    | some x, some n =>
      let e := entriesOf (n * x.N * 4)
      some ⟨[e, 0, 0], [e, 0], mintSteps x.N n (max 1 c.op.units) 0⟩
    | _, _ => none
  work := fun c i => match c.geo with
    | some x =>
      let tasks := chunks x.N (wordsOf i.a)
      { st := c.s.loadStores c.d c.op.xf tasks, outs := [bytesOf ((List.range tasks.length).flatMap fun t =>
          autLimb (c.taskPrime t) (n1Of x.logn) (n2Of x.logn) (c.op.arg 0) (tasks.getD t []))] }
    | none => { st := c.s, outs := [] }
  outs := fun c => (c.x0.map fun x => [x]).getD []

/-- AUT (R116). -/
def execAut (d : DieId) (ups : List Upset) (s : State) : Host.Outcome State Fault Refusal :=
  .next ((s.plant ups).runMacro d autSpec)

/-! ### PERM (R118–R120) -/

/-- R118: a table word is valid for N positions. -/
def permWordOk (N w : Nat) : Bool := bits w 18 12 = 0 && bits w 0 18 < N && !(bitOf w 30 && bitOf w 31)

/-- R118: the words that one PERM task permutes: a limb, a tensor's innermost row, or as many as the table holds. -/
def Ctx.permN (c : Ctx) : Nat :=
  match c.geo, c.t0 with
  | some x, _ => x.N
  | none, some t => t.n0
  | none, none => c.s.hLen (bits (c.op.arg 0) 0 16) / 4

/-- PERM's tasks. -/
def Ctx.permTasks (c : Ctx) : Option Nat :=
  match c.geo, c.t0 with
  | some _, _ => c.mintTasks
  | none, some t => some t.rows
  | none, none => some (c.graphShape.need.getD 0 0 * 512 / max 1 c.permN)

/-- The words of the table as memory holds them. -/
def Ctx.permTable (c : Ctx) : List Nat := wordsOf (c.s.peek (bits (c.op.arg 0) 0 16) 0 (4 * c.permN))

/-- R118, R119, R40: step 1 of PERM; an invalid word among the first 512 stops it before its first write. MODE is MOD for limb
tasks and OPEN for 32-bit OPEN words (R189). -/
def Ctx.permOk (c : Ctx) : Bool :=
  let h := bits (c.op.arg 0) 0 16
  c.op.qvIs true false false true false && c.op.unitsOk && c.op.argsZero [1, 2] && bits (c.op.arg 0) 16 16 = 0 &&
    c.s.handleOk h && decide (4 * c.permN ≤ c.s.hLen h) && 1 ≤ c.permN &&
    (c.permTable.take 512).all (permWordOk c.permN) &&
    (match c.x0 with
     | some x => x.type != 4 && x.special = 0 && (c.op.txn != 0 || c.outHandlesOk 0 x.polys (x.type = 2))
     | none => true) && c.op.opn == c.geo.isNone &&
    (match c.t0 with
     | some t => c.geo.isNone && !t.mod && t.bits = 32
     | none => true)

/-- R118, R24: the value at an output position for a residue modulo q, or for an OPEN word. -/
def permValue (opn : Bool) (q w x : Nat) : Nat :=
  if bitOf w 30 then 0
  else if opn then (if bitOf w 31 then (if bitOf x 31 then clearBit x 31 else setBit x 31) else x)
  else if bitOf w 31 then (q - x % q) % q else x % q

/-- R120: the steps that bank conflicts add to one task. A ZERO word has no source, and a source that a group of 512 names
again counts again (DESIGN CHOICE, log 142). -/
def permConflicts (tab : List Nat) : Nat :=
  sumN ((chunks 512 tab).map fun g =>
    let banks := (g.filter fun w => !bitOf w 30).map fun w => (storePlace (bits w 0 18)).1
    maxN (banks.map fun b => (banks.filter (· = b)).length) - 1)

/-- PERM computed; an invalid word after the first write leaves the destination TORN (R119). With two units the tasks run in
pairs, and a pair's conflict steps count once (DESIGN CHOICE, log 142). -/
def Ctx.perm (c : Ctx) (bs : List Byte) : Work :=
  let h := bits (c.op.arg 0) 0 16
  let N := c.permN
  let g := c.s.engineRead h 0 (4 * N) c.who
  let tab := wordsOf g.bytes
  let n := (c.permTasks.getD 0)
  let extra := ceilDiv n (max 1 c.op.units) * permConflicts tab
  let tasks := chunks N (wordsOf bs)
  let out := (List.range tasks.length).flatMap fun t =>
    let x := tasks.getD t []
    tab.map fun w => permValue c.op.opn (c.taskPrime t) w (x.getD (bits w 0 18) 0)
  { st := (g.st.inc (R.MINT_CONFLICTS_COUNT c.d) extra).loadStores c.d c.op.xf tasks, outs := [bytesOf out], flags := b2n g.ue * 2 ^ Poison.DATA,
    torn := !tab.all (permWordOk N) }

/-- PERM as a table row. -/
def permSpec : OpSpec where
  opc := 0x11
  group := 1
  forms := fun c => c.op.txn = 0 && (c.x0.isSome || (c.b0.isNone && refPresent (c.op.din 0) && c.slotForms))
  ledg := fun c => if c.x0.isSome then 1 else 0
  check := Ctx.permOk
  constOnly := fun c => c.s.hAttr (bits (c.op.arg 0) 0 16) Attr.CONST
  shape := fun c => c.permTasks.map fun n =>
    let e := entriesOf (n * c.permN * 4)
    ⟨[e, 0, 0], [e, 0], mintSteps c.permN n (max 1 c.op.units) (permConflicts c.permTable)⟩
  work := fun c i => c.perm i.a
  outs := fun c => (c.x0.map fun x => [x]).getD []

/-- PERM (R118). -/
def execPerm (d : DieId) (ups : List Upset) (s : State) : Host.Outcome State Fault Refusal :=
  .next ((s.plant ups).runMacro d permSpec)

end Sys2Proof.Machine
end

