-- ==== Sys2Proof/Machine/Parsley.lean ====
section
/-! DEFINITION. The macro operations of Parsley on residues (R122–R131): VADD to VMAC, the ciphertext operations, the
rescale, the CKKS fold and MODRAISE. -/

namespace Sys2Proof.Machine

/-! ### Operand kinds (R123, R193) -/

def Issued.kind (op : Issued) (i : Nat) : Nat := bits (op.arg 0) (2 * i - 2) 2
def Issued.reg (op : Issued) (i : Nat) : Nat := bits (op.arg 0) (6 * i - 2) 6

/-- What R124 captured for operand i. -/
def Issued.consts (op : Issued) (i : Nat) : List Nat := if i = 1 then op.k1 else op.k2

/-- A tile register of a die. -/
def State.tileWords (s : State) (d t : Nat) : List Nat := (mapGet [] (s.die d).tiles t).map (·.toNat)

/-- R99: a tile register's in-use flag. -/
def State.tileUsed (s : State) (d t : Nat) : Bool := t < 48 && bitOf (s.rd (R.BASIL_INUSE_INUSE d)) t

/-- R123, R124, R190: operand i is encoded as its kind requires; `limbs` words of a LIMBVEC are needed. -/
def Ctx.operandOk (c : Ctx) (i limbs : Nat) (allowLimb : Bool) : Bool :=
  match c.op.kind i with
  | 0 => c.op.reg i = 0 && c.op.qv i
  | 1 => c.op.reg i < 32 && !c.op.qv i && c.op.consts i != []
  | 2 => allowLimb && c.op.reg i < 32 && !c.op.qv i && decide (limbs ≤ (c.op.consts i).length)
  | _ => !c.op.qv i && c.s.tileUsed c.d (c.op.reg i)

/-- The word of operand i at element e: `xs` its queue words, `limb` the index of the element's limb, `row` the words of
a row of a tile register. -/
def Ctx.operandAt (c : Ctx) (i : Nat) (xs : Array Nat) (tile : List Nat) (limb e : Nat) : Nat :=
  match c.op.kind i with
  | 0 => xs.getD e 0
  | 1 => (c.op.consts i).headD 0
  | 2 => (c.op.consts i).getD limb 0
  | _ => tile.getD (e % 512) 0

/-! ### VADD to VMAC -/

/-- R131: the modular function of an operation code 0x20 to 0x24. -/
def modFn (opc q a b c : Nat) : Nat :=
  match opc with
  | 0x20 => (a + b) % q
  | 0x21 => (a % q + q - b % q) % q
  | 0x22 => (q - a % q) % q
  | 0x23 => a * b % q
  | _ => (a * b + c) % q

def Issued.vChain (op : Issued) : Nat := bits (op.arg 2) 0 6
def Issued.vFirst (op : Issued) : Nat := bits (op.arg 2) 8 7

/-- The level at which extended limbs count: the descriptor's that fixes the sizes, else the chain's L. -/
def Ctx.vLevel (c : Ctx) : Nat := ((c.geo.map (·.level)).getD (c.s.chainOf c.op.vChain).L)

/-- The members over which limbs are laid (R88). -/
def Ctx.vM (c : Ctx) : Nat := ((c.geo.map (·.M)).getD 1)

/-- The limb of element e, counted from the first extended limb that the encoding names. -/
def Ctx.vLimb (c : Ctx) (e : Nat) : Nat := e / ((c.s.chainOf c.op.vChain).N * c.vM)

/-- R131, R193: step 1 of VADD to VMAC. -/
def Ctx.vecOk (c : Ctx) (nops : Nat) : Bool :=
  match c.s.chain? c.op.vChain with
  | none => false
  | some ch =>
    let E := c.op.arg 1
    let limbs := c.vLimb (E - 1) + 1
    c.op.qv 0 && c.op.qv 3 && !c.op.qv 4 && bits (c.op.arg 0) 16 16 = 0 && bits (c.op.arg 2) 6 2 = 0 &&
      bits (c.op.arg 2) 15 17 = 0 && 1 ≤ E && c.op.vFirst + limbs ≤ c.vLevel + ch.K &&
      (if 2 ≤ nops then c.operandOk 1 limbs true else c.op.kind 1 = 0 && c.op.reg 1 = 0 && !c.op.qv 1) &&
      (if 3 ≤ nops then c.operandOk 2 limbs true else c.op.kind 2 = 0 && c.op.reg 2 = 0 && !c.op.qv 2)

/-- VADD to VMAC computed. -/
def Ctx.vec (c : Ctx) (i : Ins) : Work :=
  let ch := c.s.chainOf c.op.vChain
  let E := c.op.arg 1
  let A := (wordsOf i.a).toArray
  let B := (wordsOf i.b).toArray
  let C := (wordsOf i.c).toArray
  let t1 := c.s.tileWords c.d (c.op.reg 1)
  let t2 := c.s.tileWords c.d (c.op.reg 2)
  { st := c.s, outs := [bytesOf ((List.range E).map fun e =>
      let l := c.vLimb e
      modFn c.op.opc (ch.prime (ch.ext c.vLevel (c.op.vFirst + l))) (A.getD e 0) (c.operandAt 1 B t1 l e)
        (c.operandAt 2 C t2 l e))] }

/-- No operand is a scalar, a limb vector or a tile register (row 5 of R355). -/
def Ctx.noScalars (c : Ctx) : Bool := c.op.kind 1 = 0 && c.op.kind 2 = 0

/-- VADD to VMAC as table rows. -/
def vecSpec (opc nops : Nat) : OpSpec where
  opc := opc
  group := 2
  forms := fun _ => false
  ledg := fun _ => 0
  check := fun c => c.vecOk nops
  constOnly := Ctx.noScalars
  shape := fun c =>
    let n := entriesOf (4 * c.op.arg 1)
    some ⟨[n, if c.op.qv 1 then n else 0, if c.op.qv 2 then n else 0], [n, 0], ceilDiv (c.op.arg 1) 512 + 16⟩
  work := fun c i => c.vec i
  outs := noOuts

/-- VADD (R131). -/
def execVadd (d : DieId) (ups : List Upset) (s : State) : Host.Outcome State Fault Refusal :=
  .next ((s.plant ups).runMacro d (vecSpec 0x20 2))

/-- VSUB (R131). -/
def execVsub (d : DieId) (ups : List Upset) (s : State) : Host.Outcome State Fault Refusal :=
  .next ((s.plant ups).runMacro d (vecSpec 0x21 2))

/-- VNEG (R131). -/
def execVneg (d : DieId) (ups : List Upset) (s : State) : Host.Outcome State Fault Refusal :=
  .next ((s.plant ups).runMacro d (vecSpec 0x22 1))

/-- VMUL (R131). -/
def execVmul (d : DieId) (ups : List Upset) (s : State) : Host.Outcome State Fault Refusal :=
  .next ((s.plant ups).runMacro d (vecSpec 0x23 2))

/-- VMAC (R131). -/
def execVmac (d : DieId) (ups : List Upset) (s : State) : Host.Outcome State Fault Refusal :=
  .next ((s.plant ups).runMacro d (vecSpec 0x24 3))

/-! ### Ciphertext operations (R39–R41, R127, R477) -/

/-- R31: the residue of polynomial j, limb i, member m, position p in an operand of `limbs` limbs and M members. -/
def ctAt (limbs M N : Nat) (xs : Array Nat) (j i m p : Nat) : Nat := xs.getD (((j * limbs + i) * M + m) * N + p) 0

/-- R31: an operand of P polynomials written out from its residues. -/
def ctOut (P limbs M N : Nat) (f : Nat → Nat → Nat → Nat → Nat) : List Nat :=
  (List.range P).flatMap fun j => (List.range limbs).flatMap fun i => (List.range M).flatMap fun m =>
    (List.range N).map fun p => f j i m p

/-- A ciphertext or CARRY input without special limbs (R40). -/
def Desc.plainCt (x : Desc) : Bool := (x.type = 1 || x.type = 3) && x.special = 0

/-- R39: SCALE of a product. -/
def scaleMul (scheme t a b : Nat) : Nat :=
  if scheme = 1 then mul64 a b else ofNat64 ((nat64? a).getD 0 * (nat64? b).getD 0 % t)

/-- The steps of a pass over P polynomials of a number of limbs. -/
def passSteps (P limbs : Nat) (x : Desc) : Nat := P * limbs * x.M * (x.N / 512) + 16

/-- The entries of P polynomials of a number of limbs of M members. -/
def ctEntries (P limbs M N : Nat) : Nat := entriesOf (P * limbs * M * N * 4)

/-- R41, R477: step 1 of CTADD and CTSUB. -/
def Ctx.addOk (c : Ctx) : Bool :=
  match c.x0, c.x1 with
  | some x, some y =>
    c.op.qvIs true true false true false && c.op.argsZero [0, 1, 2] && x.plainCt && y.plainCt && x.scheme = y.scheme &&
      x.chain = y.chain && x.logn = y.logn && x.keyset = y.keyset && x.level = y.level && x.gm1 = y.gm1 &&
      x.form = y.form && (x.scheme = 1 || x.scale = y.scale) && c.outHandlesOk 0 (max x.polys y.polys) false
  | _, _ => false

/-- CTADD and CTSUB as table rows. -/
def addSpec (opc : Nat) (sub : Bool) : OpSpec where
  opc := opc
  group := 2
  forms := fun _ => true
  ledg := fun _ => 2
  sums := true
  check := Ctx.addOk
  shape := fun c => match c.x0, c.x1 with
    | some x, some y =>
      let P := max x.polys y.polys
      some ⟨[ctEntries x.polys x.level x.M x.N, ctEntries y.polys x.level x.M x.N, 0], [ctEntries P x.level x.M x.N, 0],
        passSteps P x.level x⟩
    | _, _ => none
  work := fun c i => match c.x0, c.x1 with
    | some x, some y =>
      let A := (wordsOf i.a).toArray
      let B := (wordsOf i.b).toArray
      let at' (P : Nat) (xs : Array Nat) (j l m p : Nat) : Nat := if j < P then ctAt x.level x.M x.N xs j l m p else 0
      { st := c.s, skew := if x.scheme = 1 && x.scale != y.scale then skewOf x.scale y.scale else 0,
        outs := [bytesOf (ctOut (max x.polys y.polys) x.level x.M x.N fun j l m p =>
          modFn (if sub then 0x21 else 0x20) (c.chain.prime l) (at' x.polys A j l m p) (at' y.polys B j l m p) 0)] }
    | _, _ => { st := c.s, outs := [] }
  outs := fun c => match c.x0, c.x1 with
    | some x, some y => [{ x with polys := max x.polys y.polys }]
    | some x, none => [x]
    | _, _ => []

/-- CTADD (R477). -/
def execCtadd (d : DieId) (ups : List Upset) (s : State) : Host.Outcome State Fault Refusal :=
  .next ((s.plant ups).runMacro d (addSpec 0x28 false))

/-- CTSUB (R477). -/
def execCtsub (d : DieId) (ups : List Upset) (s : State) : Host.Outcome State Fault Refusal :=
  .next ((s.plant ups).runMacro d (addSpec 0x29 true))

/-- R477: step 1 of CTADDP and CTMULP. -/
def Ctx.plainOk (c : Ctx) (mul : Bool) : Bool :=
  match c.x0, c.x1 with
  | some x, some y =>
    c.op.qvIs true true false true false && c.op.argsZero [0, 1, 2] && x.plainCt && y.type = 2 && x.scheme = y.scheme &&
      x.chain = y.chain && x.logn = y.logn && x.form = y.form && y.special = 0 && decide (x.level ≤ y.level) &&
      (y.gm1 = x.gm1 || y.gm1 = 0) && c.outHandlesOk 0 x.polys false &&
      (!mul || (x.form = 1 && scaleFieldOk x.scheme c.chain.ptmod (scaleMul x.scheme c.chain.ptmod x.scale y.scale)))
  | _, _ => false

/-- CTADDP and CTMULP as table rows. -/
def plainSpec (opc : Nat) (mul : Bool) : OpSpec where
  opc := opc
  group := 2
  forms := fun _ => true
  ledg := fun _ => if mul then 3 else 1
  check := fun c => c.plainOk mul
  shape := fun c => match c.x0, c.x1 with
    | some x, some y =>
      some ⟨[ctEntries x.polys x.level x.M x.N, ctEntries 1 x.level y.M x.N, 0], [ctEntries x.polys x.level x.M x.N, 0],
        passSteps (if mul then x.polys else 1) x.level x⟩
    | _, _ => none
  work := fun c i => match c.x0, c.x1 with
    | some x, some y =>
      let A := (wordsOf i.a).toArray
      let B := (wordsOf i.b).toArray
      { st := c.s, outs := [bytesOf (ctOut x.polys x.level x.M x.N fun j l m p =>
          let a := ctAt x.level x.M x.N A j l m p
          let b := ctAt x.level y.M x.N B 0 l (if y.gm1 = 0 then 0 else m) p
          if mul then a * b % c.chain.prime l else if j = 0 then (a + b) % c.chain.prime l else a % c.chain.prime l)] }
    | _, _ => { st := c.s, outs := [] }
  outs := fun c => match c.x0, c.x1 with
    | some x, some y => [if mul then { x with scale := scaleMul x.scheme c.chain.ptmod x.scale y.scale } else x]
    | some x, none => [x]
    | _, _ => []

/-- CTADDP (R477). -/
def execCtaddp (d : DieId) (ups : List Upset) (s : State) : Host.Outcome State Fault Refusal :=
  .next ((s.plant ups).runMacro d (plainSpec 0x2A false))

/-- CTMULP (R477). -/
def execCtmulp (d : DieId) (ups : List Upset) (s : State) : Host.Outcome State Fault Refusal :=
  .next ((s.plant ups).runMacro d (plainSpec 0x2B true))

/-- R39: SCALE after a product with a constant. The encoding carries no scale of its own for the constant, so s_p (c_p
for BGV) is a free value (log 35). -/
def Ctx.constScale (c : Ctx) (x : Desc) : Nat :=
  scaleMul x.scheme c.chain.ptmod x.scale (Config.constScale c.op.site (c.op.consts 1))

/-- R131: step 1 of CTMULC. -/
def Ctx.constOk (c : Ctx) : Bool :=
  match c.x0 with
  | some x =>
    c.op.qvIs true false false true false && c.op.argsZero [1, 2] && bits (c.op.arg 0) 10 22 = 0 && c.op.kind 2 = 0 &&
      x.plainCt && (c.op.kind 1 = 1 || c.op.kind 1 = 2) && c.operandOk 1 x.level true && c.outHandlesOk 0 x.polys false &&
      scaleFieldOk x.scheme c.chain.ptmod (c.constScale x)
  | none => false

/-- CTMULC as a table row. -/
def constSpec : OpSpec where
  opc := 0x2C
  group := 2
  forms := fun _ => true
  ledg := fun _ => 3
  check := Ctx.constOk
  constOnly := fun _ => false
  shape := fun c => c.x0.map fun x =>
    let n := ctEntries x.polys x.level x.M x.N
    ⟨[n, 0, 0], [n, 0], passSteps x.polys x.level x⟩
  work := fun c i => match c.x0 with
    | some x =>
      let A := (wordsOf i.a).toArray
      { st := c.s, outs := [bytesOf (ctOut x.polys x.level x.M x.N fun j l m p =>
          ctAt x.level x.M x.N A j l m p * (c.operandAt 1 #[] [] l 0) % c.chain.prime l)] }
    | none => { st := c.s, outs := [] }
  outs := fun c => match c.x0 with
    | some x => [{ x with scale := c.constScale x }]
    | none => []

/-- CTMULC (R131). -/
def execCtmulc (d : DieId) (ups : List Upset) (s : State) : Host.Outcome State Fault Refusal :=
  .next ((s.plant ups).runMacro d constSpec)

/-- R127: step 1 of CTTENSOR. -/
def Ctx.tensorCtOk (c : Ctx) : Bool :=
  match c.x0, c.x1 with
  | some x, some y =>
    c.op.qvIs true true false true false && c.op.argsZero [0, 1, 2] && x.plainCt && y.plainCt && x.polys = 2 && y.polys = 2 &&
      x.form = 1 && y.form = 1 && x.chain = y.chain && x.keyset = y.keyset && x.level = y.level && x.gm1 = y.gm1 &&
      c.outHandlesOk 0 3 false && scaleFieldOk x.scheme c.chain.ptmod (scaleMul x.scheme c.chain.ptmod x.scale y.scale)
  | _, _ => false

/-- R127: polynomial j of the tensor product at one limb, member and position. -/
def tensorPoly (q j a0 a1 b0 b1 : Nat) : Nat :=
  match j with
  | 0 => a0 * b0 % q
  | 1 => (a0 * b1 + a1 * b0) % q
  | _ => a1 * b1 % q

/-- CTTENSOR as a table row. -/
def tensorSpec : OpSpec where
  opc := 0x2D
  group := 2
  forms := fun _ => true
  ledg := fun _ => 4
  check := Ctx.tensorCtOk
  shape := fun c => c.x0.map fun x =>
    let n := ctEntries 2 x.level x.M x.N
    ⟨[n, n, 0], [ctEntries 3 x.level x.M x.N, 0], passSteps 4 x.level x⟩
  work := fun c i => match c.x0 with
    | some x =>
      let A := (wordsOf i.a).toArray
      let B := (wordsOf i.b).toArray
      let a (j l m p : Nat) : Nat := ctAt x.level x.M x.N A j l m p
      let b (j l m p : Nat) : Nat := ctAt x.level x.M x.N B j l m p
      { st := c.s, outs := [bytesOf (ctOut 3 x.level x.M x.N fun j l m p =>
          tensorPoly (c.chain.prime l) j (a 0 l m p) (a 1 l m p) (b 0 l m p) (b 1 l m p))] }
    | none => { st := c.s, outs := [] }
  outs := fun c => match c.x0, c.x1 with
    | some x, some y => [{ x with polys := 3, scale := scaleMul x.scheme c.chain.ptmod x.scale y.scale }]
    | some x, none => [x]
    | _, _ => []

/-- CTTENSOR (R127). -/
def execCttensor (d : DieId) (ups : List Upset) (s : State) : Host.Outcome State Fault Refusal :=
  .next ((s.plant ups).runMacro d tensorSpec)

/-! ### Rescale (R55, R56, R69, R128) -/

/-- The limbs that a rescale drops: two where its encoding says DOUBLE. -/
def Issued.drops (op : Issued) : Nat := if bitOf (op.arg 0) 0 then 2 else 1

/-- R55, R56: the modulus M of a rescale that drops n limbs at a level. -/
def rescaleModulus (c : Chain) (level n : Nat) : Nat :=
  if n = 2 then c.prime (level - 1) * c.prime (level - 2) else c.prime (level - 1)

/-- R55, R56, R69: δ of one coefficient with value r modulo M. -/
def deltaOf (scheme t M r : Nat) (sr : Bool) (W : Nat) : Int :=
  if scheme = 2 then bgvDelta r M t else if sr then srDelta r M W else centred r M

/-- R128, R131: step 1 of RSDELTA. -/
def Ctx.rsdeltaOk (c : Ctx) : Bool :=
  match c.geo with
  | some x =>
    (c.op.txn = 1 || c.op.txn = 2) && c.op.qvIs true false false true false && c.op.arg 0 ≤ 1 && c.op.argsZero [1, 2] &&
      x.plainCt && (x.scheme = 1 || (!c.op.sr && c.op.drops = 1))
  | none => false

/-- R42: the level of a rescale is exhausted. -/
def Ctx.dropsTooMany (c : Ctx) : Bool :=
  match c.geo with
  | some x => decide (x.level ≤ c.op.drops)
  | none => false

/-- RSDELTA computed. -/
def Ctx.rsdelta (c : Ctx) (bs : List Byte) : Work :=
  match c.geo with
  | none => { st := c.s, outs := [] }
  | some x =>
    let k := c.op.drops
    let rest := x.level - k
    let M := rescaleModulus c.chain x.level k
    let xs := (wordsOf bs).toArray
    let seed := ((c.s.jobOn c.d).map (·.seed)).getD []
    let r (j m n : Nat) : Nat :=
      let r0 := ctAt k x.M x.N xs j 0 m n
      if k = 2 then crt2 (c.chain.prime rest) r0 (c.chain.prime (rest + 1)) (ctAt k x.M x.N xs j 1 m n) else r0
    let δs := ctOut x.polys 1 x.M x.N fun j _ m n => r j m n
    let ds := (δs.toArray)
    let delta (j m n : Nat) : Int :=
      deltaOf x.scheme c.chain.ptmod M (ctAt 1 x.M x.N ds j 0 m n % M) c.op.sr
        (if c.op.sr then srWord seed c.op.site ((m * 4 + j) * 2 ^ 18 + n) 0 else 0)
    { st := c.s, outs := [bytesOf (ctOut x.polys rest x.M x.N fun j i m n => modInt (delta j m n) (c.chain.prime i))] }

/-- RSDELTA as a table row. -/
def rsdeltaSpec : OpSpec where
  opc := 0x30
  group := 2
  forms := fun _ => false
  ledg := fun _ => 0
  check := Ctx.rsdeltaOk
  exhausted := Ctx.dropsTooMany
  shape := fun c => c.geo.map fun x =>
    let rest := x.level - c.op.drops
    ⟨[ctEntries x.polys c.op.drops x.M x.N, 0, 0], [ctEntries x.polys rest x.M x.N, 0],
      passSteps x.polys (if c.op.sr then max (rest + 1) 8 else rest + 1) x⟩
  work := fun c i => c.rsdelta i.a
  outs := noOuts

/-- RSDELTA (R128). -/
def execRsdelta (d : DieId) (ups : List Upset) (s : State) : Host.Outcome State Fault Refusal :=
  .next ((s.plant ups).runMacro d rsdeltaSpec)

/-- R39: SCALE after a rescale that drops n limbs. -/
def rescaleScale (c : Chain) (x : Desc) (n : Nat) : Nat :=
  let q (i : Nat) : Nat := c.prime (x.level - i)
  if x.scheme = 1 then
    div64 x.scale (if n = 2 then mul64 (ofNat64 (q 1)) (ofNat64 (q 2)) else ofNat64 (q 1))
  else ofNat64 ((nat64? x.scale).getD 0 * bgvDelta.invModAny c.ptmod (q 1 % c.ptmod) % c.ptmod)

/-- The descriptor after a rescale. -/
def rescaled (c : Chain) (x : Desc) (n : Nat) : Desc := { x with level := x.level - n, special := 0, scale := rescaleScale c x n }

/-- R128: step 1 of RSFIN. -/
def Ctx.rsfinOk (c : Ctx) : Bool :=
  match c.txnDesc with
  | some x =>
    c.op.txn = 3 && c.op.qvIs true true false true false && c.op.arg 0 ≤ 1 && c.op.argsZero [1, 2] && x.plainCt &&
      (x.scheme = 1 || c.op.drops = 1) && decide (c.op.drops < x.level) && c.outHandlesOk 0 x.polys false &&
      scaleFieldOk x.scheme c.chain.ptmod (rescaleScale c.chain x c.op.drops)
  | none => false

/-- RSFIN as a table row. -/
def rsfinSpec : OpSpec where
  opc := 0x31
  group := 2
  forms := fun _ => false
  ledg := fun _ => 6
  check := Ctx.rsfinOk
  shape := fun c => c.txnDesc.map fun x =>
    let n := ctEntries x.polys (x.level - c.op.drops) x.M x.N
    ⟨[n, n, 0], [n, 0], passSteps x.polys (x.level - c.op.drops) x⟩
  work := fun c i => match c.txnDesc with
    | some x =>
      let rest := x.level - c.op.drops
      let M := rescaleModulus c.chain x.level c.op.drops
      let A := (wordsOf i.a).toArray
      let B := (wordsOf i.b).toArray
      { st := c.s, drift := if x.scheme = 1 then driftOf (rescaleScale c.chain x c.op.drops) (if c.op.wide then 60 else 30) else 0,
        outs := [bytesOf (ctOut x.polys rest x.M x.N fun j l m p =>
          rescaleCoef (ctAt rest x.M x.N A j l m p) (ctAt rest x.M x.N B j l m p) M (c.chain.prime l))] }
    | none => { st := c.s, outs := [] }
  outs := fun c => match c.txnDesc with
    | some x => [rescaled c.chain x c.op.drops]
    | none => []

/-- RSFIN (R128). -/
def execRsfin (d : DieId) (ups : List Upset) (s : State) : Host.Outcome State Fault Refusal :=
  .next ((s.plant ups).runMacro d rsfinSpec)

/-! ### The CKKS fold (R71, R72, R129) -/

/-- R72: step 1 of FOLDC. -/
def Ctx.foldcOk (c : Ctx) : Bool :=
  match c.x0, c.x1 with
  | some w, some y =>
    c.op.qvIs true true false true true && bits (c.op.arg 0) 16 16 = 0 && c.op.argsZero [1, 2] && w.type = 1 && y.type = 3 &&
      w.scheme = 1 && y.scheme = 1 && w.chain = y.chain && w.keyset = y.keyset && w.form = y.form && w.gm1 = y.gm1 &&
      w.nlimit = y.nlimit && w.special = 0 && y.special = 0 && y.level = w.level + 1 && c.outHandlesOk 0 (max w.polys y.polys) false &&
      c.outHandlesOk 1 y.polys false
  | _, _ => false

/-- A limb brought to coefficient form, or back to evaluation form, where a descriptor's form asks for it (R55). -/
def toForm (ch : Chain) (i form : Nat) (inverse : Bool) (x : List Nat) : List Nat :=
  if form = 0 then x
  else if inverse then inttLimb (ch.prime i) (ch.root i) (n1Of ch.logn) (n2Of ch.logn) x
  else nttLimb (ch.prime i) (ch.root i) (n1Of ch.logn) (n2Of ch.logn) x

/-- FOLDC computed: W′ and C′. Where W and the CARRY have different POLYS, the missing polynomial counts as zero and W′ has the
larger number (DESIGN CHOICE, log 141). -/
def Ctx.foldc (c : Ctx) (i : Ins) : Work :=
  match c.x0, c.x1 with
  | some w, some y =>
    let ch := c.chain
    let A := (wordsOf i.a).toArray
    let B := (wordsOf i.b).toArray
    let lvl := w.level
    let M := ch.prime lvl
    let top (j m : Nat) : List Nat := toForm ch lvl y.form true ((List.range y.N).map fun p => ctAt y.level y.M y.N B j lvl m p % M)
    let δ (j l m : Nat) : List Nat := toForm ch l y.form false ((top j m).map fun r => modInt (centred r M) (ch.prime l))
    let cOut := (List.range y.polys).flatMap fun j => (List.range y.level).flatMap fun l => (List.range y.M).flatMap fun m =>
      if l < lvl then δ j l m else (List.range y.N).map fun p => ctAt y.level y.M y.N B j lvl m p % M
    let Cs := cOut.toArray
    let wOut := ctOut (max w.polys y.polys) lvl w.M w.N fun j l m p =>
      let q := ch.prime l
      let a := if j < w.polys then ctAt lvl w.M w.N A j l m p else 0
      let b := if j < y.polys then rescaleCoef (ctAt y.level y.M y.N B j l m p) (ctAt y.level y.M y.N Cs j l m p) M q else 0
      (a + b) % q
    { st := c.s, outs := [bytesOf wOut, bytesOf cOut] }
  | _, _ => { st := c.s, outs := [] }

/-- FOLDC as a table row. -/
def foldcSpec : OpSpec where
  opc := 0x33
  group := 2
  forms := fun _ => true
  ledg := fun _ => 5
  check := Ctx.foldcOk
  shape := fun c => match c.x0, c.x1 with
    | some w, some y =>
      let P := max w.polys y.polys
      some ⟨[ctEntries w.polys w.level w.M w.N, ctEntries y.polys y.level y.M y.N, 0],
        [ctEntries P w.level w.M w.N, ctEntries y.polys y.level y.M y.N],
        2 * P * w.M * (w.N / 512) * w.level + 16 + passSteps y.polys (w.level + 1) w⟩
    | _, _ => none
  work := fun c i => c.foldc i
  outs := fun c => match c.x0, c.x1 with
    | some w, some y => [{ w with polys := max w.polys y.polys }, y]
    | some w, none => [w]
    | _, _ => []

/-- FOLDC (R129). -/
def execFoldc (d : DieId) (ups : List Upset) (s : State) : Host.Outcome State Fault Refusal :=
  .next ((s.plant ups).runMacro d foldcSpec)

/-! ### MODRAISE (R130) -/

def Issued.lOut (op : Issued) : Nat := bits (op.arg 0) 0 7
def Issued.encScale (op : Issued) : Nat := op.arg 1 + op.arg 2 * 2 ^ 32
def Issued.encNlimit (op : Issued) : Nat := bits (op.arg 0) 16 16

/-- R130: step 1 of MODRAISE. -/
def Ctx.raiseOk (c : Ctx) : Bool :=
  match c.x0 with
  | some x =>
    c.op.qvIs true false false true false && bits (c.op.arg 0) 7 9 = 0 && x.plainCt && x.level = 1 && x.polys = 2 && x.form = 0 &&
      2 ≤ c.op.lOut && c.op.lOut ≤ c.chain.L && scaleFieldOk x.scheme c.chain.ptmod c.op.encScale && c.outHandlesOk 0 2 false
  | none => false

/-- MODRAISE as a table row. -/
def raiseSpec : OpSpec where
  opc := 0x34
  group := 2
  forms := fun _ => true
  ledg := fun _ => 7
  check := Ctx.raiseOk
  shape := fun c => c.x0.map fun x =>
    ⟨[ctEntries 2 1 x.M x.N, 0, 0], [ctEntries 2 c.op.lOut x.M x.N, 0], passSteps 2 c.op.lOut x⟩
  work := fun c i => match c.x0 with
    | some x =>
      let A := (wordsOf i.a).toArray
      { st := c.s, outs := [bytesOf (ctOut 2 c.op.lOut x.M x.N fun j l m p =>
          modInt (centred (ctAt 1 x.M x.N A j 0 m p % c.chain.prime 0) (c.chain.prime 0)) (c.chain.prime l))] }
    | none => { st := c.s, outs := [] }
  outs := fun c => match c.x0 with
    | some x => [{ x with level := c.op.lOut, polys := 2, scale := c.op.encScale, nlimit := c.op.encNlimit }]
    | none => []

/-- MODRAISE (R130). -/
def execModraise (d : DieId) (ups : List Upset) (s : State) : Host.Outcome State Fault Refusal :=
  .next ((s.plant ups).runMacro d raiseSpec)

end Sys2Proof.Machine
end

