-- ==== Sys2Proof/Machine/ParsleyOpen.lean ====
section
/-! DEFINITION. The macro operations of Parsley on OPEN values (R60–R64, R70, R131): FOLDO, FADD to FMIN, FCVT and
FRED. -/

namespace Sys2Proof.Machine

/-- R131: the larger of two FP32 codes; NaN gives the canonical NaN, and +0 is above −0. -/
def max32 (a b : Nat) : Nat :=
  let x := dec32 a
  let y := dec32 b
  if x.isNan || y.isNan then rne32 .nan
  else if x.isZero && y.isZero then (if bitOf a 31 && bitOf b 31 then a else 0)
  else if x.lt y then b else a

/-- R131: the smaller of two FP32 codes; −0 is below +0. -/
def min32 (a b : Nat) : Nat :=
  let x := dec32 a
  let y := dec32 b
  if x.isNan || y.isNan then rne32 .nan
  else if x.isZero && y.isZero then (if bitOf a 31 || bitOf b 31 then 0x80000000 else 0)
  else if y.lt x then b else a

/-- R131: the FP32 function of an operation code 0x38 to 0x3D. -/
def openFn (opc a b c : Nat) : Nat :=
  match opc with
  | 0x38 => add32 a b
  | 0x39 => sub32 a b
  | 0x3A => mul32 a b
  | 0x3B => fma32 a b c
  | 0x3C => max32 a b
  | _ => min32 a b

def Issued.fFmt (op : Issued) : Nat := bits (op.arg 2) 0 3

/-- R131: OPEN operations of Parsley are permitted on a die, in the formats it has. -/
def Ctx.parsOpen (c : Ctx) (bf16 : Bool) : Bool :=
  c.s.on (R.PARS_CFG_OPEN_EN c.d) && c.s.on (R.PARS_CAPS_FP32 c.d) && (!bf16 || c.s.on (R.PARS_CAPS_BF16 c.d))

/-- R131: step 1 of FADD to FMIN. -/
def Ctx.openOk (c : Ctx) (nops : Nat) : Bool :=
  c.op.qv 0 && c.op.qv 3 && !c.op.qv 4 && c.op.arg 2 ≤ 1 && bits (c.op.arg 0) 16 16 = 0 && 1 ≤ c.op.arg 1 &&
    c.parsOpen (c.op.fFmt = 1) && c.operandOk 1 0 false &&
    (if 3 ≤ nops then c.operandOk 2 0 false else c.op.kind 2 = 0 && c.op.reg 2 = 0 && !c.op.qv 2)

/-- Operand i of an OPEN operation at element e, as FP32 bits: BF16 elements are decoded exactly. -/
def Ctx.openAt (c : Ctx) (i : Nat) (xs : Array Nat) (tile : List Nat) (e : Nat) : Nat :=
  let f := c.op.fFmt
  match (if i = 0 then 0 else c.op.kind i) with
  | 0 => rne32 (decElem f 0 (xs.getD e 0))
  | 1 => (c.op.consts i).headD 0
  | _ =>
    let codes := if f = 1 then tile.flatMap (unpackWord 1) else tile
    rne32 (decElem f 0 (codes.getD (e % (if f = 1 then 1024 else 512)) 0))

/-- FADD to FMIN computed. -/
def Ctx.openElems (c : Ctx) (i : Ins) : Work :=
  let E := c.op.arg 1
  let b := fmtBits c.op.fFmt
  let xs (bs : List Byte) : Array Nat := (unpackElems b E bs).toArray
  let A := xs i.a
  let B := xs i.b
  let C := xs i.c
  let t1 := c.s.tileWords c.d (c.op.reg 1)
  let t2 := c.s.tileWords c.d (c.op.reg 2)
  let out := (List.range E).map fun e =>
    storeElem c.op.fFmt 0 (dec32 (openFn c.op.opc (c.openAt 0 A [] e) (c.openAt 1 B t1 e) (c.openAt 2 C t2 e)))
  { st := c.s.watchOpen c c.op.fFmt 0 out, outs := [packElems b (out.map (·.code))] }

/-- FADD to FMIN as table rows. -/
def openSpec (opc nops : Nat) : OpSpec where
  opc := opc
  group := 2
  forms := fun _ => false
  ledg := fun _ => 0
  check := fun c => c.openOk nops
  constOnly := Ctx.noScalars
  shape := fun c =>
    let n := entriesOf (ceilDiv (c.op.arg 1 * fmtBits c.op.fFmt) 8)
    some ⟨[n, if c.op.qv 1 then n else 0, if c.op.qv 2 then n else 0], [n, 0],
      ceilDiv (c.op.arg 1) (if c.op.fFmt = 1 then 1024 else 512) + 16⟩
  work := fun c i => c.openElems i
  outs := noOuts

/-- FADD (R131). -/
def execFadd (d : DieId) (ups : List Upset) (s : State) : Host.Outcome State Fault Refusal :=
  .next ((s.plant ups).runMacro d (openSpec 0x38 2))

/-- FSUB (R131). -/
def execFsub (d : DieId) (ups : List Upset) (s : State) : Host.Outcome State Fault Refusal :=
  .next ((s.plant ups).runMacro d (openSpec 0x39 2))

/-- FMUL (R131). -/
def execFmul (d : DieId) (ups : List Upset) (s : State) : Host.Outcome State Fault Refusal :=
  .next ((s.plant ups).runMacro d (openSpec 0x3A 2))

/-- FFMA (R131). -/
def execFfma (d : DieId) (ups : List Upset) (s : State) : Host.Outcome State Fault Refusal :=
  .next ((s.plant ups).runMacro d (openSpec 0x3B 3))

/-- FMAX (R131). -/
def execFmax (d : DieId) (ups : List Upset) (s : State) : Host.Outcome State Fault Refusal :=
  .next ((s.plant ups).runMacro d (openSpec 0x3C 2))

/-- FMIN (R131). -/
def execFmin (d : DieId) (ups : List Upset) (s : State) : Host.Outcome State Fault Refusal :=
  .next ((s.plant ups).runMacro d (openSpec 0x3D 2))

/-! ### Storage with block scales -/

/-- FP32 values stored row by row along dimension 0 of the output's descriptor, or as one row without one. -/
def storeRows (f b n0 : Nat) (vs : List FV) : List Nat × List Stored :=
  let rows := (chunks (max 1 n0) vs).map (storeRow f b)
  (rows.flatMap (·.1), rows.flatMap (·.2))

/-- The scale bytes of an output written through its descriptor. -/
def State.putScales (s : State) (t : Option TDesc) (b : Nat) (scales : List Nat) : State :=
  match t with
  | some t => if b = 0 then s else s.writeScales t (scales.map (BitVec.ofNat 8))
  | none => s

/-- An output descriptor, where there is one, has the format, the block size and the elements. -/
def outFits (t : Option TDesc) (f b E : Nat) : Bool :=
  match t with
  | some t => !t.mod && t.fmt = f && t.blk = b && t.count = E
  | none => b = 0

/-! ### FCVT -/

def Issued.cFmt (op : Issued) : Nat := bits (op.arg 0) 0 3
def Issued.cBlk (op : Issued) : Nat := bits (op.arg 0) 3 3

/-- R131, R194: step 1 of FCVT. -/
def Ctx.fcvtOk (c : Ctx) : Bool :=
  c.op.qvIs true false false true false && bits (c.op.arg 0) 6 26 = 0 && c.op.argsZero [2] && 1 ≤ c.op.arg 1 &&
    fmtOk c.op.cFmt c.op.cBlk && c.parsOpen false && outFits (c.tOut 0) c.op.cFmt c.op.cBlk (c.op.arg 1)

/-- FCVT as a table row. -/
def fcvtSpec : OpSpec where
  opc := 0x3E
  group := 2
  forms := fun _ => false
  ledg := fun _ => 0
  check := Ctx.fcvtOk
  shape := fun c =>
    some ⟨[entriesOf (4 * c.op.arg 1), 0, 0], [entriesOf (ceilDiv (c.op.arg 1 * fmtBits c.op.cFmt) 8), 0], ceilDiv (c.op.arg 1) 512 + 16⟩
  work := fun c i =>
    let E := c.op.arg 1
    let (scales, out) := storeRows c.op.cFmt c.op.cBlk (((c.tOut 0).map (·.n0)).getD E) ((unpackElems 32 E i.a).map dec32)
    { st := (c.s.putScales (c.tOut 0) c.op.cBlk scales).watchOpen c c.op.cFmt c.op.cBlk out,
      outs := [packElems (fmtBits c.op.cFmt) (out.map (·.code))], wrote := c.op.cBlk != 0 && (c.tOut 0).isSome }
  outs := noOuts

/-- FCVT (R131). -/
def execFcvt (d : DieId) (ups : List Upset) (s : State) : Host.Outcome State Fault Refusal :=
  .next ((s.plant ups).runMacro d fcvtSpec)

/-! ### FRED -/

/-- R131: step 1 of FRED. -/
def Ctx.fredOk (c : Ctx) : Bool :=
  c.op.qvIs true false false true false && c.op.arg 0 ≤ 1 && 1 ≤ c.op.arg 1 && 1 ≤ c.op.arg 2 && c.parsOpen false

/-- R131: a maximum over the terms that there are. -/
def maxReduce : List Nat → Nat
  | [] => 0
  | x :: xs => xs.foldl max32 x

/-- FRED as a table row. -/
def fredSpec : OpSpec where
  opc := 0x3F
  group := 2
  forms := fun _ => false
  ledg := fun _ => 0
  check := Ctx.fredOk
  shape := fun c =>
    let E := c.op.arg 1 * c.op.arg 2
    let draws := if c.op.arg 0 = 0 && decide (65536 < c.op.arg 2) then ceilDiv (c.op.arg 1 * (ceilDiv (c.op.arg 2) 512 - 1)) 64 else 0
    some ⟨[entriesOf (4 * E), 0, 0], [entriesOf (4 * c.op.arg 1), 0], max (ceilDiv E 512) draws + 16⟩
  work := fun c i =>
    let K := c.op.arg 2
    let rows := chunks K (unpackElems 32 (c.op.arg 1 * K) i.a)
    let out := (List.range rows.length).map fun r =>
      let xs := rows.getD r []
      storeElem 0 0 (dec32 (if c.op.arg 0 = 1 then maxReduce xs else openReduce K 1 xs (c.openWord r)))
    { st := c.s.watchOpen c 0 0 out, outs := [bytesOf (out.map (·.code))] }
  outs := noOuts

/-- FRED (R131). -/
def execFred (d : DieId) (ups : List Upset) (s : State) : Host.Outcome State Fault Refusal :=
  .next ((s.plant ups).runMacro d fredSpec)

/-! ### FOLDO (R70, R129) -/

/-- R70: W is stored in BF16, FP16, FP8 or a block-scaled format. -/
def foldFmt (f b : Nat) : Bool := fmtOk f b && ((1 ≤ f && f ≤ 4) || b != 0)

/-- R70, R129, R194: step 1 of FOLDO. -/
def Ctx.foldoOk (c : Ctx) : Bool :=
  let f := c.op.cFmt
  let b := c.op.cBlk
  let E := c.op.arg 1
  c.op.qvIs true true false true true && bits (c.op.arg 0) 6 26 = 0 && c.op.argsZero [2] && 1 ≤ E && foldFmt f b && c.parsOpen false &&
    outFits c.t0 f b E && outFits c.t1 0 0 E && outFits (c.tOut 0) f b E && outFits (c.tOut 1) 0 0 E &&
    (match c.t0, c.t1 with
     | some x, some y => x.n0 = y.n0 && x.n1 = y.n1 && x.n2 = y.n2 && x.n3 = y.n3
     | _, _ => true)

/-- FOLDO computed: W′ and C′. -/
def Ctx.foldo (c : Ctx) (i : Ins) : Work :=
  let f := c.op.cFmt
  let b := c.op.cBlk
  let E := c.op.arg 1
  let n0 := ((c.t0.map (·.n0)).getD E)
  let (s1, sc, ue) := c.s.readScaleRows c.t0 b c.who
  let codes := unpackElems (fmtBits f) E i.a
  let ws := (List.range E).map fun e =>
    decScaled f b (codes.getD e 0) (if b = 0 then 0 else (sc.getD (e / n0) []).getD (e % n0 / blkSize b) 0)
  let cs := unpackElems 32 E i.b
  let ts := (List.range E).map fun e => rne32 ((ws.getD e .nan).add (dec32 (cs.getD e 0)))
  let (scales, out) := storeRows f b n0 (ts.map dec32)
  let perRow := if b = 0 then 0 else ceilDiv n0 (blkSize b)
  let w' (e : Nat) : FV :=
    decScaled f b ((out.getD e ⟨0, 0⟩).code) (if b = 0 then 0 else scales.getD (e / n0 * perRow + e % n0 / blkSize b) 0)
  let cOut := (List.range E).map fun e => storeElem 0 0 ((dec32 (ts.getD e 0)).add (w' e).negate)
  { st := ((s1.putScales (c.tOut 0) b scales).watchOpen c f b out).watchOpen c 0 0 cOut,
    outs := [packElems (fmtBits f) (out.map (·.code)), bytesOf (cOut.map (·.code))], wrote := b != 0 && (c.tOut 0).isSome, flags := b2n ue * 2 ^ Poison.DATA }

/-- FOLDO as a table row. -/
def foldoSpec : OpSpec where
  opc := 0x32
  group := 2
  forms := fun _ => false
  ledg := fun _ => 0
  check := Ctx.foldoOk
  shape := fun c =>
    let w := entriesOf (ceilDiv (c.op.arg 1 * fmtBits c.op.cFmt) 8)
    let y := entriesOf (4 * c.op.arg 1)
    some ⟨[w, y, 0], [w, y], 2 * ceilDiv (c.op.arg 1) 512 + 16⟩
  work := fun c i => c.foldo i
  outs := noOuts

/-- FOLDO (R129). -/
def execFoldo (d : DieId) (ups : List Upset) (s : State) : Host.Outcome State Fault Refusal :=
  .next ((s.plant ups).runMacro d foldoSpec)

end Sys2Proof.Machine
end

