-- ==== Sys2Proof/Machine/Tarragon.lean ====
section
/-! DEFINITION. The macro operations of Tarragon (R155–R174): EXTRACT, LWEKSW, PBS, RINGIFY and SPROBE. -/

namespace Sys2Proof.Machine

/-! ### LWE samples (R156, R158) -/

/-- A sample: its a-vector and b. -/
structure Lwe where
  a : List Nat
  b : Nat
  deriving DecidableEq, Repr

/-- R158: the bytes of a sample, filled to its stride. -/
def Lwe.toBytes (x : Lwe) : List Byte := fit (lweStride x.a.length) (bytesOf (x.a ++ [x.b]))

/-- R158: n samples of a dimension read from their bytes. -/
def samplesOf (dim n : Nat) (bs : List Byte) : List Lwe :=
  let st := lweStride dim
  (List.range n).map fun k =>
    let ws := wordsOf (slice bs (k * st) (4 * (dim + 1)))
    ⟨ws.take dim, ws.getD dim 0⟩

/-- The first prime of a descriptor's chain. -/
def Ctx.q0 (c : Ctx) : Nat := c.chain.prime 0

/-- A batch input whose secret is one of those given. -/
def Ctx.batchIn (c : Ctx) (keyids : List Nat) : Bool :=
  match c.x0 with
  | some x => x.type = 4 && keyids.contains x.keyid
  | none => false

/-! ### EXTRACT (R159) -/

def Issued.step (op : Issued) : Nat := 2 ^ bits (op.arg 1) 0 5

/-- R159: step 1 of EXTRACT. -/
def Ctx.extractOk (c : Ctx) : Bool :=
  match c.x0 with
  | some x =>
    c.op.txn = 0 && c.op.qvIs true false false true false && bits (c.op.arg 1) 5 27 = 0 && x.type = 1 && x.level = 1 &&
      x.special = 0 && x.polys = 2 && x.form = 0 && decide (c.op.step ≤ x.N) && decide (c.op.arg 0 < c.op.step) &&
      1 ≤ c.op.arg 2 && decide (c.op.arg 2 ≤ x.N / c.op.step) && c.outHandlesOk 0 1 false
  | none => false

/-- R159: the sample of coefficient k of (c0, c1), every word reduced (R24). -/
def extractAt (q N k : Nat) (c0 c1 : Nat → Nat) : Lwe :=
  ⟨(List.range N).map fun i => if i ≤ k then c1 (k - i) % q else (q - c1 (N + k - i) % q) % q, c0 k % q⟩

/-- The batch that EXTRACT writes. -/
def Ctx.extracted (c : Ctx) (x : Desc) : Desc :=
  { x with type := 4, form := 0, polys := 1, dim := x.N, keyid := 0, count := c.op.arg 2, logslots := 0 }

/-- EXTRACT as a table row. -/
def extractSpec : OpSpec where
  opc := 0x40
  group := 3
  forms := fun _ => true
  ledg := fun _ => 1
  check := Ctx.extractOk
  shape := fun c => c.x0.map fun x =>
    ⟨[ctEntries 2 1 x.M x.N, 0, 0], [(c.extracted x).entries, 0],
      x.M * (x.N / 512 + c.op.arg 2 * ceilDiv (x.N + 1) 512) + 32⟩
  work := fun c i => match c.x0 with
    | some x =>
      let A := (wordsOf i.a).toArray
      { st := c.s, outs := [(List.range x.M).flatMap fun m => (List.range (c.op.arg 2)).flatMap fun s =>
          (extractAt c.q0 x.N (c.op.arg 0 + s * c.op.step) (ctAt 1 x.M x.N A 0 0 m) (ctAt 1 x.M x.N A 1 0 m)).toBytes] }
    | none => { st := c.s, outs := [] }
  outs := fun c => (c.x0.map fun x => [c.extracted x]).getD []
  samples := fun c => (c.x0.map fun x => x.M * c.op.arg 2).getD 0

/-- EXTRACT (R159). -/
def execExtract (d : DieId) (ups : List Upset) (s : State) : Host.Outcome State Fault Refusal :=
  .next ((s.plant ups).runMacro d extractSpec)

/-! ### LWEKSW (R160–R162) -/

/-- R160: the fields of an LWEKS key's PARAM. -/
def KeyHdr.dimLwe (h : KeyHdr) : Nat := bits h.param 0 13
def KeyHdr.baseLog (h : KeyHdr) : Nat := bits h.param 13 4
def KeyHdr.keyIn (h : KeyHdr) : Nat := bits h.param 17 2
def KeyHdr.keyOut (h : KeyHdr) : Nat := bits h.param 19 2

/-- R160: the input and the output dimension. -/
def KeyHdr.dimIn (h : KeyHdr) : Nat := if h.keyOut = 1 then 2 ^ h.logn else h.dimLwe
def KeyHdr.dimOut (h : KeyHdr) : Nat := if h.keyOut = 1 then h.dimLwe else 2 ^ h.logn

/-- R160: the pairs of secrets that a key may switch between: RING 0, SMALL 1, BR 2. -/
def pairAllowed (i o : Nat) : Bool := (i = 0 && o = 1) || (i = 2 && o = 1) || (i = 1 && o = 0) || (i = 2 && o = 0)

/-- R161: balanced digits of t in base 2^B, least significant first, the last carry dropped; fuel: the digits. -/
def balanced (B : Nat) : Nat → Nat → List Int
  | 0, _ => []
  | l + 1, t =>
    let r := t % 2 ^ B
    if 2 ^ (B - 1) ≤ r then ((r : Int) - 2 ^ B) :: balanced B l (t / 2 ^ B + 1) else (r : Int) :: balanced B l (t / 2 ^ B)

/-- R161: the digits of a coordinate, digit 0 the most significant. -/
def digitsOf (B l q x : Nat) : List Int := (balanced B l ((x * 2 ^ (B * l) + q / 2) / q % 2 ^ (B * l))).reverse

/-- The header that a context streams from. -/
def Ctx.keyHdr (c : Ctx) : KeyHdr := parseHdr ((c.s.dillCtx c.d 1).snap.getD 0 [])

/-- R162: the passes of 64 samples. -/
def lwePasses (x : Desc) : Nat := ceilDiv (x.M * x.count) 64

/-- R160, R161: step 1 of LWEKSW. -/
def Ctx.lwekswOk (c : Ctx) : Bool :=
  match c.x0 with
  | some x =>
    c.op.txn = 0 && c.op.qvIs true false false true false && c.op.arg 0 ≤ 3 && c.op.argsZero [1, 2] && c.batchIn [0, 1, 2] &&
      pairAllowed x.keyid (c.op.arg 0) && c.outHandlesOk 0 1 false
  | none => false

/-- R168: what the header check of LWEKSW compares. -/
def Ctx.lwekswWant (c : Ctx) (x : Desc) : KeyWant :=
  { keyent := c.op.keyent, site := c.op.site, level := x.level, kind := 4, keyset := x.keyset,
    size := fun h => h.dimIn = x.dim, chain := x.chain, level' := fun h => h.lo = 1 && h.hi = 1,
    param := fun h => h.keyIn = x.keyid && h.keyOut = c.op.arg 0, digits := fun e h => e.dcount = h.dmax }

/-- R141, R160: the a-vector of row (i, j): rows of 512 over the output dimension. -/
def lweA (seed : List Byte) (q i j dimOut : Nat) : List ARow :=
  (List.range (ceilDiv dimOut 512)).map fun k => aHalf seed q i k j

/-- R161: one sample switched: the digits against the rows (b-word, a-vector) of the key. -/
def switchSample (B l q dimOut : Nat) (rows : List (Nat × List Nat)) (x : Lwe) : Lwe :=
  let ds := x.a.flatMap (digitsOf B l q)
  let dot (f : Nat × List Nat → Nat) : Nat :=
    modInt ((ds.zip rows).foldl (fun a p => a + p.1 * (f p.2 : Int)) 0) q
  ⟨(List.range dimOut).map fun k => dot fun r => r.2.getD k 0, (x.b + dot (·.1)) % q⟩

/-- The batch that LWEKSW writes. -/
def Ctx.switched (c : Ctx) (x : Desc) : Desc := { x with dim := c.keyHdr.dimOut, keyid := c.op.arg 0 }

/-- LWEKSW computed. -/
def Ctx.lweksw (c : Ctx) (i : Ins) : Work :=
  match c.x0, c.s.keyEntry c.d 1 with
  | some x, some e =>
    let h := c.keyHdr
    let l := h.dmax
    let q := c.q0
    let w : Who := { mid := coreMid c.d 7, site := c.op.site, job := c.job }
    let g := c.s.read e.handle 0x1000 (4 * x.dim * l) w
    let bw := (wordsOf g.bytes).toArray
    let seeds := ((c.s.dillCtx c.d 1).snap.map parseHdr).map (·.seed)
    let arows := (List.range x.dim).flatMap fun i => (List.range l).map fun j => lweA (seeds.getD j []) q i j h.dimOut
    let rows := (List.range arows.length).map fun r => (bw.getD r 0, ((arows.getD r []).flatMap (·.row)).take h.dimOut)
    let n := lwePasses x
    let all := arows.flatten
    let s1 := ((g.st.inc (R.DILL_ROWS_COUNT c.d) (n * all.length)).inc (R.DILL_DRAWS_COUNT c.d)
      (n * sumN (all.map (·.draws)))).inc (R.DILL_REJECTS_COUNT c.d) (n * sumN (all.map (·.rejects)))
    { st := s1, flags := b2n g.ue * 2 ^ Poison.DATA,
      outs := [(samplesOf x.dim (x.M * x.count) i.a).flatMap fun s => (switchSample h.baseLog l q h.dimOut rows s).toBytes] }
  | _, _ => { st := c.s, outs := [] }

/-- LWEKSW as a table row. -/
def lwekswSpec : OpSpec where
  opc := 0x41
  group := 3
  forms := fun _ => true
  ledg := fun _ => 5
  keyCtx := some 1
  check := Ctx.lwekswOk
  key := fun c => match c.x0 with
    | some x => c.s.keyCheck c.d 1 (c.lwekswWant x)
    | none => (none, c.s)
  shape := fun c => c.x0.map fun x =>
    let h := c.keyHdr
    let all := x.M * x.count
    let pass (b : Nat) : Nat := x.dim * h.dmax * ceilDiv (b * h.dimOut) 2048 + 64
    ⟨[x.entries, 0, 0], [(c.switched x).entries, 0],
      all / 64 * pass 64 + (if all % 64 = 0 then 0 else pass (all % 64))⟩
  work := fun c i => c.lweksw i
  outs := fun c => (c.x0.map fun x => [c.switched x]).getD []
  samples := fun c => (c.x0.map fun x => x.M * x.count).getD 0

/-- LWEKSW (R161). -/
def execLweksw (d : DieId) (ups : List Upset) (s : State) : Host.Outcome State Fault Refusal :=
  .next ((s.plant ups).runMacro d lwekswSpec)

/-! ### PBS (R163–R166) -/

/-- R193: N_br as XF gives it. -/
def Issued.nbr (op : Issued) : Nat := 2 ^ (op.xf + 10)

/-- R164: a lookup table's bytes as memory holds them. -/
def Ctx.lutBytes (c : Ctx) : List Byte :=
  let h := bits (c.op.arg 0) 0 16
  let e := bits (leNat (c.s.peek h 0 8)) 0 4
  c.s.peek h 0 (64 + 4 * 2 ^ e)

/-- R164: the table may be used with N_br, a chain and its first prime. -/
def lutOk (bs : List Byte) (nbr chain q : Nat) : Bool :=
  let w := leAt bs 0 8
  let e := bits w 0 4
  1 ≤ e && e ≤ 12 && 2 ^ e ≤ nbr && bits w 8 8 = chain && bits w 4 4 = 0 && bits w 16 48 = 0 &&
    (slice bs 8 56).all (· = 0) && (wordsOf (bs.drop 64)).all fun x => x < q

/-- R164, R165: step 1 of PBS. -/
def Ctx.pbsOk (c : Ctx) : Bool :=
  match c.x0 with
  | some x =>
    let h := bits (c.op.arg 0) 0 16
    c.op.txn = 0 && c.op.qvIs true false false true false && c.op.xf ≤ 2 && c.batchIn [1] && c.s.handleOk h &&
      decide (64 ≤ c.s.hLen h) && decide (c.lutBytes.length ≤ c.s.hLen h) && lutOk c.lutBytes c.op.nbr x.chain c.q0 &&
      scaleFieldOk x.scheme c.chain.ptmod c.op.encScale && c.outHandlesOk 0 1 false
  | none => false

/-- R168: what the header check of PBS compares. -/
def Ctx.pbsWant (c : Ctx) (x : Desc) : KeyWant :=
  { keyent := c.op.keyent, site := c.op.site, level := x.level, kind := 3, keyset := x.keyset,
    size := fun h => 2 ^ h.logn = c.op.nbr, chain := x.chain, level' := fun h => h.lo = 1 && h.hi = 1,
    param := fun h => x.keyid = 1 && x.dim = h.dimLwe, digits := fun e h => e.dcount = h.dmax }

/-- X^k × f for a polynomial f of degree below N, negacyclic; k below 2N. -/
def mulMono (q N k : Nat) (f : List Nat) : List Nat :=
  (List.range N).map fun p =>
    let i := (p + 2 * N - k % (2 * N)) % (2 * N)
    if i < N then f.getD i 0 else (q - f.getD (i - N) 0 % q) % q

/-- Position-wise difference. -/
def polySub (q : Nat) (a b : List Nat) : List Nat := (a.zip b).map fun p => (p.1 + q - p.2 % q) % q

/-- Position-wise sum. -/
def polyAdd (q : Nat) (a b : List Nat) : List Nat := (a.zip b).map fun p => (p.1 + p.2) % q

/-- R165 step 3: the external product of the RLWE pair (b, a) with the rows of one coordinate, rows in evaluation
form. -/
def extProd (q ψ N1 N2 B l : Nat) (rows : List (List Nat × List Nat)) (x : List Nat × List Nat) : List Nat × List Nat :=
  let N := N1 * N2
  let dig (f : List Nat) (d : Nat) : List Nat :=
    nttLimb q ψ N1 N2 (f.map fun v => modInt ((digitsOf B l q v).getD d 0) q)
  let terms := (List.range l).flatMap fun d => [(dig x.1 d, rows.getD (2 * d) ([], [])), (dig x.2 d, rows.getD (2 * d + 1) ([], []))]
  let sum (half : List Nat × List Nat → List Nat) : List Nat :=
    (List.range N).map fun p => sumN (terms.map fun t => t.1.getD p 0 * (half t.2).getD p 0) % q
  (inttLimb q ψ N1 N2 (sum (·.1)), inttLimb q ψ N1 N2 (sum (·.2)))

/-- R165 step 1: the modulus switch to 2N_br. -/
def modSwitch (q nbr x : Nat) : Nat := (x * (2 * nbr) + q / 2) / q % (2 * nbr)

/-- R165 steps 2 to 4 for one sample, the rows of coordinate i given by `rows i`. -/
def bootSample (q ψ N1 N2 B l : Nat) (lut : List Nat) (rows : Nat → List (List Nat × List Nat)) (x : Lwe) : Lwe :=
  let N := N1 * N2
  let tv := (List.range N).map fun p => lut.getD (p * lut.length / N) 0
  let b' := modSwitch q N x.b
  let start := (mulMono q N ((2 * N - b') % (2 * N)) tv, List.replicate N 0)
  let acc := (List.range x.a.length).foldl (fun (acc : List Nat × List Nat) i =>
    let k := (2 * N - modSwitch q N (x.a.getD i 0)) % (2 * N)
    let df := (polySub q (mulMono q N k acc.1) acc.1, polySub q (mulMono q N k acc.2) acc.2)
    let e := extProd q ψ N1 N2 B l (rows i) df
    (polyAdd q acc.1 e.1, polyAdd q acc.2 e.2)) start
  ⟨(List.range N).map fun i => if i = 0 then acc.2.getD 0 0 else (q - acc.2.getD (N - i) 0 % q) % q, acc.1.getD 0 0⟩

/-- The batch that PBS writes. -/
def Ctx.booted (c : Ctx) (x : Desc) : Desc :=
  { x with dim := c.op.nbr, keyid := 2, scale := c.op.encScale, nlimit := c.op.encNlimit }

/-- R166: the waves of a batch. -/
def Ctx.waves (c : Ctx) (x : Desc) : Nat := ceilDiv (x.M * x.count) (max 1 (c.s.rd (R.TARR_CAPS_LANES c.d)))

/-- PBS computed. An input NOISE above the encoding's NLIMIT sets the NOISE flag and raises NOISE_BOUND (R165). -/
def Ctx.pbs (c : Ctx) (i : Ins) : Work :=
  match c.x0, c.s.keyEntry c.d 1 with
  | some x, some e =>
    let h := c.keyHdr
    let q := c.q0
    let N1 := n1Of h.logn
    let N2 := n2Of h.logn
    let nbr := c.op.nbr
    let ψ := powMod q (c.chain.root 0) (c.chain.N / nbr)
    let t := c.s.engineRead (bits (c.op.arg 0) 0 16) 0 c.lutBytes.length c.who
    let (B, dmax, rs) := t.st.entryRows c.d 1 e
    let (s1, keys, ue) := t.st.keyRows c.d 1 e.handle B dmax rs
    let waves := c.waves x
    let again (f : Fld) (s : State) : State := s.inc f ((waves - 1) * (s1.rd f - t.st.rd f))
    let s2 := again (R.DILL_REJECTS_COUNT c.d) (again (R.DILL_DRAWS_COUNT c.d) (again (R.DILL_ROWS_COUNT c.d) s1))
    let perI := (chunks (B * dmax) keys)
    let rows (i : Nat) : List (List Nat × List Nat) :=
      let blk := perI.getD i []
      (List.range dmax).map fun j =>
        let at' (half : List Nat × List Nat → List Nat) : List Nat :=
          (List.range B).flatMap fun k => half (blk.getD (k * dmax + j) ([], []))
        (at' (·.1), at' (·.2))
    let above := decide (c.op.encNlimit < x.noise)
    let s3 := if above && !decide (c.op.encNlimit < c.op.cst) then
        s2.raise { code := Ev.NOISE_BOUND, src := c.d, unit := c.g, site := c.op.site, job := c.job }
      else s2
    { st := s3, flags := (b2n above * 2 ^ Poison.NOISE) ||| (b2n (ue || t.ue) * 2 ^ Poison.DATA),
      outs := [(samplesOf x.dim (x.M * x.count) i.a).flatMap fun s =>
        (bootSample q ψ N1 N2 h.baseLog (dmax / 2) (wordsOf (t.bytes.drop 64)) rows s).toBytes] }
  | _, _ => { st := c.s, outs := [] }

/-- PBS as a table row. -/
def pbsSpec : OpSpec where
  opc := 0x42
  group := 3
  forms := fun _ => true
  ledg := fun _ => 7
  keyCtx := some 1
  check := Ctx.pbsOk
  key := fun c => match c.x0 with
    | some x => c.s.keyCheck c.d 1 (c.pbsWant x)
    | none => (none, c.s)
  constOnly := fun c => c.s.hAttr (bits (c.op.arg 0) 0 16) Attr.CONST
  shape := fun c => c.x0.map fun x =>
    let nbr := c.op.nbr
    ⟨[x.entries, 0, 0], [(c.booted x).entries, 0],
      c.waves x * (x.dim * ((c.keyHdr.dmax + 2) * nbr / 16 + 64) + (nbr / 2 + 512))⟩
  work := fun c i => c.pbs i
  outs := fun c => (c.x0.map fun x => [c.booted x]).getD []
  samples := fun c => (c.x0.map fun x => x.M * x.count).getD 0
  waves := fun c => (c.x0.map c.waves).getD 0

/-- PBS (R165). -/
def execPbs (d : DieId) (ups : List Upset) (s : State) : Host.Outcome State Fault Refusal :=
  .next ((s.plant ups).runMacro d pbsSpec)

/-! ### RINGIFY (R169) -/

/-- The members of output group h of RINGIFY. -/
def ringMembers (x : Desc) (h : Nat) : Nat := min 32 (x.M * x.count - 32 * h)

/-- The output groups of RINGIFY. -/
def ringGroups (x : Desc) : Nat := ceilDiv (x.M * x.count) 32

/-- R169: step 1 of RINGIFY; its groups' slots follow DOUT0's. -/
def Ctx.ringifyOk (c : Ctx) : Bool :=
  match c.x0 with
  | some x =>
    c.op.txn = 0 && c.op.qvIs true false false true false && c.op.argsZero [0, 1, 2] && c.batchIn [0] &&
      (!refNamesSlot (c.op.dout 0) || (decide (refSlot (c.op.dout 0) + ringGroups x ≤ 2 ^ 14) &&
        (List.range (ringGroups x)).all fun h =>
          c.s.slotOk (c.op.outRef true h) &&
            let t := c.templateOf true h
            [t.h0, t.h1].all fun k => c.s.handleOk k && c.s.hAttr k Attr.CT))
  | none => false

/-- R169: polynomial j of the ring ciphertext of a sample. -/
def ringifyPoly (q N j : Nat) (x : Lwe) : List Nat :=
  (List.range N).map fun k =>
    if j = 0 then (if k = 0 then x.b % q else 0)
    else if k = 0 then x.a.getD 0 0 % q else (q - x.a.getD (N - k) 0 % q) % q

/-- The ciphertext group h that RINGIFY writes. -/
def ringifyDesc (x : Desc) (h : Nat) : Desc :=
  { x with type := 1, form := 0, polys := 2, gm1 := ringMembers x h - 1, dim := 0, keyid := 0, count := 0 }

/-- RINGIFY as a table row. -/
def ringifySpec : OpSpec where
  opc := 0x43
  group := 3
  forms := fun _ => true
  ledg := fun _ => 1
  check := Ctx.ringifyOk
  shape := fun c => c.x0.map fun x =>
    ⟨[x.entries, 0, 0], (List.range (ringGroups x)).map fun h => ctEntries 2 1 (ringMembers x h) x.N,
      x.M * x.count * x.N / 256 + 32⟩
  work := fun c i => match c.x0 with
    | some x =>
      let ss := samplesOf x.dim (x.M * x.count) i.a
      { st := c.s, outs := (List.range (ringGroups x)).map fun h =>
          let mine := (ss.drop (32 * h)).take 32
          bytesOf ((List.range 2).flatMap fun j => mine.flatMap (ringifyPoly c.q0 x.N j)) }
    | none => { st := c.s, outs := [] }
  outs := fun c => match c.x0 with
    | some x => (List.range (ringGroups x)).map (ringifyDesc x)
    | none => []
  many := true
  records := fun c h => c.x0.map fun x =>
    (List.range (ringMembers x h)).map fun e =>
      mergeRec (((c.s.jobOn c.d).map (·.digest)).getD []) c.op.site c.job [c.s.memberRec x ((32 * h + e) / max 1 x.count)] true

/-- RINGIFY (R169). -/
def execRingify (d : DieId) (ups : List Upset) (s : State) : Host.Outcome State Fault Refusal :=
  .next ((s.plant ups).runMacro d ringifySpec)

/-! ### SPROBE (R171) -/

def Issued.probe (op : Issued) : Nat := bits (op.arg 0) 16 16
def Issued.rlo (op : Issued) : Nat := bits (op.arg 0) 0 5
def Issued.rhi (op : Issued) : Nat := bits (op.arg 0) 5 5
def Issued.elog (op : Issued) : Nat := bits (op.arg 0) 10 5

/-- R171, R173: step 1 of SPROBE. -/
def Ctx.sprobeOk (c : Ctx) : Bool :=
  match c.x0 with
  | some x =>
    c.op.txn = 0 && c.op.qvIs true false false false false && !bitOf (c.op.arg 0) 15 && c.op.argsZero [1, 2] && c.batchIn [0] &&
      c.s.on (R.TARR_CFG_PROBE_EN c.d) && 1 ≤ c.op.rlo && c.op.rlo < c.op.rhi && c.op.rhi ≤ 24 && c.op.elog ≤ 24 &&
      c.s.handleOk c.op.probe && c.s.hAttr c.op.probe Attr.PROBE && decide (128 + x.handleBytes ≤ c.s.hLen c.op.probe)
  | none => false

/-- SPROBE as a table row: the batch written to the probe region from byte 128 (R367) and recorded as MASKED. Its steps M ×
COUNT × STRIDE / 2,048 are rounded down where they are not whole (DESIGN CHOICE, log 143). -/
def sprobeSpec : OpSpec where
  opc := 0x44
  group := 3
  forms := fun _ => true
  ledg := fun _ => 1
  check := Ctx.sprobeOk
  shape := fun c => c.x0.map fun x => ⟨[x.entries, 0, 0], [0, 0], x.M * x.count * lweStride x.dim / 2048 + 32⟩
  work := fun c i => match c.x0 with
    | some x =>
      { st := { c.s.write c.op.probe 128 (i.a.take x.handleBytes) with
          probeMask := mapPut c.s.probeMask c.op.probe (c.op.rlo, c.op.rhi, c.op.elog) },
        outs := [], aux := [c.op.probe] }
    | none => { st := c.s, outs := [] }
  outs := fun c => (c.x0.map fun x => [x]).getD []
  samples := fun c => (c.x0.map fun x => x.M * x.count).getD 0
  handle0 := fun c => some c.op.probe
  records := fun c _ => c.x0.map fun x =>
    (List.range x.M).map fun m =>
      { cls := Cls.MASKED, link := x.lineage + m, job := c.job % 2 ^ 32,
        chain := chainOp (((c.s.jobOn c.d).map (·.digest)).getD []) c.op.site [c.s.memberRec x m] }

/-- SPROBE (R171). -/
def execSprobe (d : DieId) (ups : List Upset) (s : State) : Host.Outcome State Fault Refusal :=
  .next ((s.plant ups).runMacro d sprobeSpec)

end Sys2Proof.Machine
end

