-- ==== Sys2Proof/Machine/Transfer.lean ====
section
/-! DEFINITION. What moves through queues (R178–R182, R265–R278): pushes and pops by the end that a queue names, closing
ends, the commit of output descriptors, channels inside the package and over the fabric, and the failures of a
transfer: stalls, bridge resends, time-outs and restarts. -/

namespace Sys2Proof.Machine

/-- The table row of a macro operation code (R193). -/
def specOf (opc : Nat) : Option OpSpec :=
  if opc = 0x01 then some (transformSpec 0x01 false)
  else if opc = 0x02 then some (transformSpec 0x02 true)
  else if opc = 0x03 then some bconvSpec
  else if opc = 0x04 then some ksipSpec
  else if opc = 0x05 then some gemmSpec
  else if opc = 0x06 then some sealSpec
  else if opc = 0x07 then some trrelSpec
  else if opc = 0x10 then some autSpec
  else if opc = 0x11 then some permSpec
  else if opc = 0x20 || opc = 0x21 || opc = 0x23 then some (vecSpec opc 2)
  else if opc = 0x22 then some (vecSpec opc 1)
  else if opc = 0x24 then some (vecSpec opc 3)
  else if opc = 0x28 then some (addSpec 0x28 false)
  else if opc = 0x29 then some (addSpec 0x29 true)
  else if opc = 0x2A then some (plainSpec 0x2A false)
  else if opc = 0x2B then some (plainSpec 0x2B true)
  else if opc = 0x2C then some constSpec
  else if opc = 0x2D then some tensorSpec
  else if opc = 0x30 then some rsdeltaSpec
  else if opc = 0x31 then some rsfinSpec
  else if opc = 0x32 then some foldoSpec
  else if opc = 0x33 then some foldcSpec
  else if opc = 0x34 then some raiseSpec
  else if opc = 0x3B then some (openSpec opc 3)
  else if 0x38 ≤ opc && opc ≤ 0x3D then some (openSpec opc 2)
  else if opc = 0x3E then some fcvtSpec
  else if opc = 0x3F then some fredSpec
  else if opc = 0x40 then some extractSpec
  else if opc = 0x41 then some lwekswSpec
  else if opc = 0x42 then some pbsSpec
  else if opc = 0x43 then some ringifySpec
  else if opc = 0x44 then some sprobeSpec
  else none

/-- The table row by which a group runs a macro operation code; a code of no operation of the group faults (R190). -/
def specFor (g opc : Nat) : OpSpec :=
  match specOf opc with
  | some spec => if spec.group = g then spec else illegalSpec g opc
  | none => illegalSpec g opc

/-! ### Stream units at their queues (R201, R205) -/

/-- The bytes that a write program holds for transfers that it has not made. -/
def SUnit.held (u : SUnit) : Nat := 2048 * u.ents.length - u.used

/-- The byte offset of a program's next transfer; `none` while it waits for SUFEED. -/
def SUnit.nextOff (x : SUnit) (p : SProg) : Option Nat :=
  if p.feed then x.feeds.head?.map (p.base + ·) else some (p.loopOff x.made).toNat

/-- R205: a read transfer may be made: less than four have data that is not in the queue. The bytes of the entry that is being
formed count as in the queue (DEDUCED, log 44: an entry may take more than four transfers). -/
def SUnit.mayRead (x : SUnit) (p : SProg) : Bool :=
  decide (x.made < p.total) && decide (ceilDiv (2048 * x.ents.length) p.xbytes < 4)

/-- R205: a write transfer may be made: its bytes are there, and less than four are on their way across a bridge. -/
def State.mayWriteOut (s : State) (d u : Nat) (p : SProg) : Bool :=
  let x := (s.die d).sunit u
  decide (x.made < p.total) && decide (p.xbytes ≤ x.held) &&
    decide (sumN ((s.flights.filter fun f => f.mid = coreMid d (s.ownerOf d (u / 4)) && f.chan = 1 + u).map (·.bytes.length)) <
      4 * p.xbytes)

/-- A write program wants another entry: less is sent and held than its transfers take, and what it holds is less than four
transfers (R205). -/
def SUnit.wants (u : SUnit) : Bool :=
  match u.rec? with
  | some p => p.dir = 1 && decide (u.landed + u.held < p.total * p.xbytes) && decide (u.held < 4 * p.xbytes)
  | none => false

/-! ### QUEUE_PUSH and QUEUE_POP (R179, R265) -/

/-- The output operand of a group's operation that leaves by a queue. -/
def Running.outOn (r : Running) (q : Nat) : Option Nat :=
  if r.op.qv 3 && r.op.qf 3 = q then some 0 else if r.op.qv 4 && r.op.qf 4 = q then some 1 else none

/-- The entry that the writer end of a queue has ready, with the state after it has let it go. -/
def State.offered (s : State) (d q : Nat) : Option (QEntry × State) :=
  let w := s.rd (R.QCH_QCFG_WRITER d q)
  if w < 4 then
    match ((s.die d).group w).cur with
    | some r =>
      match r.outOn q with
      | some i =>
        match ((s.die d).group w).outb.getD i [] with
        | e :: es => some (e, s.updGroup d w fun x => { x with outb := modifyAt (fun _ => es) x.outb i })
        | [] => none
      | none => none
    | none => none
  else if 0x10 ≤ w && w < 0x20 then
    let u := (s.die d).sunit (w - 0x10)
    match u.rec?, u.ents with
    | some p, e :: es =>
      if p.dir = 0 && p.queue = q then some (e, s.updSunit d (w - 0x10) fun x => { x with ents := es }) else none
    | _, _ => none
  else none

/-- QUEUE_PUSH (R179, R270): the writer end of a queue pushes its next entry once there is room, or has it discarded
where the reader end is closed. -/
def execQueuePush (d : DieId) (q : QueueId) (s : State) : Host.Outcome State Fault Refusal :=
  .next (if !s.canPush d q then s
    else match s.offered d q with
      | some (e, s1) =>
        let s2 := s1.push d q e
        let w := s.rd (R.QCH_QCFG_WRITER d q)
        if w < 4 then
          (s2.updGroup d w fun x => { x with cur := x.cur.map fun r => { r with wrote := true } }).complete d w
        else (s2.touchUnit d (w - 0x10)).endProgram d (w - 0x10)
      | none => s)

/-- The input operand of an operation that takes its entries from a queue. -/
def Issued.operandOn (op : Issued) (q : Nat) : Option Nat := [0, 1, 2].find? fun i => op.qv i && op.qf i = q

/-- The entries that an operand of the operation at a group's head needs, as far as they are known: its token first; then
what its descriptors give, or for an operation that runs again what it took before (R108). -/
def State.wantsIn (s : State) (d g : Nat) (op : Issued) (i : Nat) : Nat :=
  match ((s.die d).group g).redo with
  | some r => r.took.getD i 0
  | none =>
    match s.ctxOf d g op with
    | some c => c.needOf (c.shapeOf (specFor g op.opc)) i
    | none => if i < 2 then b2n (refTok (op.din i)) else 0

/-- The input operand of the operation at a group's head that takes a queue's entries and has not got them all. -/
def State.takes (s : State) (d g q : Nat) : Option Nat :=
  match s.headMacro d g with
  | some op =>
    match op.operandOn q with
    | some i => if (((s.die d).group g).inb.getD i []).length < s.wantsIn d g op i then some i else none
    | none => none
  | none => none

/-- QUEUE_POP (R179, R267): the reader end of a queue takes its head entry: the operation at its group's head, as far
as its entry sequence goes, or the write program at its stream unit's head. -/
def execQueuePop (d : DieId) (q : QueueId) (s : State) : Host.Outcome State Fault Refusal :=
  .next (match s.queue d q with
    | e :: _ =>
      let r := s.rd (R.QCH_QCFG_READER d q)
      if r < 4 then
        match s.takes d r q with
        | some i => ((s.pop d q).updGroup d r fun x => { x with inb := modifyAt (fun l => l ++ [e]) x.inb i }).touchGroup d r
        | none => s
      else if 0x10 ≤ r && r < 0x20 then
        let u := (s.die d).sunit (r - 0x10)
        match u.rec? with
        | some p =>
          if p.queue = q && u.wants then
            ((s.pop d q).updSunit d (r - 0x10) fun x => { x with ents := x.ents ++ [e] }).touchUnit d (r - 0x10)
          else s
        | none => s
      else s
    | [] => s)

/-! ### Closing ends (R269) -/

/-- A group has nothing waiting and nothing in progress. -/
def State.groupIdle (s : State) (d g : Nat) : Bool :=
  let x := (s.die d).group g
  x.fifo.isEmpty && x.cur.isNone

/-- A stream unit has finished every program started; a program ends with its last landing. -/
def State.unitIdle (s : State) (d u : Nat) : Bool :=
  let x := (s.die d).sunit u
  x.waiting.isEmpty && x.prog.isNone

/-- R269: an actor other than the channel engine has finished: its owner has ended and it is idle. -/
def State.actorDone (s : State) (d code : Nat) : Bool :=
  if code < 4 then ((s.die d).core (s.ownerOf d code)).ended && s.groupIdle d code
  else if 0x10 ≤ code && code < 0x20 then
    ((s.die d).core (s.ownerOf d ((code - 0x10) / 4))).ended && s.unitIdle d (code - 0x10)
  else false

/-- The entry of a die's channel table that sends from a queue. -/
def State.chanOf (s : State) (d q : Nat) : Option Nat :=
  (List.range 32).find? fun c => s.on (R.QCH_CHTAB0_EN d c) && s.rd (R.QCH_CHTAB0_SQ d c) = q

/-- Receiver i of a package channel: the field as it stands. -/
def State.recvField (s : State) (d c i : Nat) : Nat :=
  let j := i / 4
  match i % 4 with
  | 0 => s.rd (R.QCH_CHRECV_RECV0 d c j)
  | 1 => s.rd (R.QCH_CHRECV_RECV1 d c j)
  | 2 => s.rd (R.QCH_CHRECV_RECV2 d c j)
  | _ => s.rd (R.QCH_CHRECV_RECV3 d c j)

/-- The physical die of a logical die of the job that runs on a die. -/
def State.physical (s : State) (d logical : Nat) : Nat := ((s.jobOn d).map fun j => j.dieMap.getD logical 8).getD 8

/-- The receivers of a package channel, as physical die and queue. -/
def State.receivers (s : State) (d c : Nat) : List (Nat × Nat) :=
  (List.range (s.rd (R.QCH_CHTAB0_NRECV d c))).map fun i =>
    let f := s.recvField d c i
    (s.physical d (bits f 8 3), bits f 0 7)

/-- The members of a fabric channel. -/
def State.members (s : State) (d c : Nat) : List TxMem := s.fab.mems.filter fun m => m.die = d && m.ch = c

/-- R269: the reader end of a channel sender may close: every receiver has closed. -/
def State.sendersDone (s : State) (d q : Nat) : Bool :=
  match s.chanOf d q with
  | some c =>
    if s.rd (R.QCH_CHTAB0_KIND d c) = 0 then (s.receivers d c).all fun r => s.on (R.QCH_QSTAT_RCLOSED r.1 r.2)
    else (s.members d c).all (·.closed)
  | none => false

/-- R269: the writer end of a package channel's receiver may close: the sender's writer end has closed and every entry
has been delivered. -/
def State.feedDone (s : State) (d q : Nat) : Bool :=
  (List.range 8).any fun e => (List.range 32).any fun c =>
    s.on (R.QCH_CHTAB0_EN e c) && s.rd (R.QCH_CHTAB0_KIND e c) = 0 && (s.receivers e c).contains (d, q) &&
      s.on (R.QCH_QSTAT_WCLOSED e (s.rd (R.QCH_CHTAB0_SQ e c))) && (s.queue e (s.rd (R.QCH_CHTAB0_SQ e c))).isEmpty

/-- QUEUE_END_CLOSE (R269): an end closes once its actor has finished, or once the other side of its channel has. -/
def execQueueEndClose (d : DieId) (q : QueueId) (writer : Bool) (s : State) : Host.Outcome State Fault Refusal :=
  let code := if writer then s.rd (R.QCH_QCFG_WRITER d q) else s.rd (R.QCH_QCFG_READER d q)
  let done := if code = 0x30 then (if writer then s.feedDone d q else s.sendersDone d q) else s.actorDone d code
  .next (if s.rd (R.QCH_QCFG_CAP d q) != 0 && done then (if writer then s.closeWriter d q else s.closeReader d q) else s)

/-! ### Commit of output descriptors (R182) -/

/-- A queue's entries end in memory: a stream unit reads it, or a channel carries them to a queue that one reads. -/
def State.drains (s : State) (d q : Nat) : Bool :=
  let su (e p : Nat) : Bool := 0x10 ≤ s.rd (R.QCH_QCFG_READER e p) && s.rd (R.QCH_QCFG_READER e p) < 0x20
  su d q || (s.rd (R.QCH_QCFG_READER d q) = 0x30 &&
    match s.chanOf d q with
    | some c => s.rd (R.QCH_CHTAB0_KIND d c) = 0 && (s.receivers d c).any fun r => su r.1 r.2
    | none => false)

/-- An entry belongs to a descriptor: its operation's output names one of the handles. -/
def QEntry.of (e : QEntry) (hs : List Nat) : Bool := !e.token && hs.any e.owners.contains

/-- R182: every entry of an output that drains to memory has landed: none waits in a queue or in a stream unit, and no write
of a stream unit to the handles is on its way across a bridge. -/
def State.drained (s : State) (d : Nat) (hs : List Nat) : Bool :=
  let dies := ((s.jobOn d).map (·.dieMap)).getD []
  (dies.all fun e =>
    ((s.die e).queues.all fun p => !(p.2.any fun x => x.of hs) || !s.drains e p.1) &&
      (List.range 16).all fun u => !(((s.die e).sunit u).ents.any fun x => x.of hs)) &&
    !(s.flights.any fun f => 1 ≤ f.chan && hs.contains f.handle)

/-- R74: a commit observed at a watched ciphertext site. -/
def watchCommit (x : Desc) (k : Commit) (f : List Int) : List Int :=
  let old (i : Nat) : Int := f.getD i 0
  let margin : Int := (x.nlimit : Int) - x.noise
  let first := old 4 = 0
  [if first then (x.level : Int) else min (old 0) x.level, max (old 1) k.drift, max (old 2) k.skew,
   if first then margin else min (old 3) margin, old 4 + 1]

/-- R182, R352, R74, R262: one descriptor of a group's operation committed. The head of a probe region is no slot. -/
def State.commitOne (s : State) (d g : Nat) (r : Running) (k : Commit) : State :=
  let x := parseDesc k.desc
  let s1 := s.writeSlot k.ref k.desc
  let s2 := if x.isCt then s1.bindDesc x else s1
  let s3 := if r.void then s2 else x.handles.foldl (fun t h => if t.handleOk h then t.setTorn h 0 else t) s2
  let id := s.jobIdOn d
  let slot := !s3.hAttr (refHandle k.ref) Attr.PROBE
  let s4 := s3.updJob id fun j => { j with outs := if slot then mapPut j.outs (s3.outKey k.ref) k.desc else j.outs, poisoned := j.poisoned || x.poison != 0 }
  let s5 : State := { s4 with pendSlots := s4.pendSlots.filter fun p => !(p.1 = refKey k.ref && p.2.1 = d && p.2.2.1 = g && p.2.2.2 = r.op.ticket) }
  if r.op.watch && k.seen && x.isCt then s5.watch id r.op.site d g (watchCommit x k) else s5

/-- R182: a descriptor of a group's operation may be committed: its entries have been pushed, and those that drain to memory
have landed. -/
def State.mayCommit (s : State) (d g : Nat) (k : Commit) : Bool :=
  (((s.die d).group g).outb.getD k.out []).isEmpty && s.drained d (parseDesc k.desc).handles

/-- The descriptors that an operation commits next: one, but FOLDC's two together (R129). -/
def Running.nextCommits (r : Running) : List Commit := if r.op.opc = 0x33 then r.commits else r.commits.take 1

/-- OUTPUT_COMMIT (R182): the next output descriptor of a group's operation committed once its entries have been pushed
and those that drain to memory have landed; FOLDC's two are committed together (R129). -/
def execOutputCommit (d : DieId) (g : Fin 4) (s : State) : Host.Outcome State Fault Refusal :=
  .next (match ((s.die d).group g).cur with
    | some r =>
      let ks := r.nextCommits
      if !ks.isEmpty && ks.all fun k => s.mayCommit d g k then
        ((ks.foldl (fun (t : State) k => t.commitOne d g r k) s).updGroup d g fun x =>
          { x with cur := some { r with commits := r.commits.drop ks.length, committed := true } }).complete d g
      else s
    | none => s)

/-! ### Channels (R275, R276, R341) -/

/-- R275: an entry delivered to one receiver; a closed one discards its copy against the sender's status word. -/
def State.deliver (s : State) (d sq : Nat) (e : QEntry) (r : Nat × Nat) : State :=
  if s.on (R.QCH_QSTAT_RCLOSED r.1 r.2) then s.discard d sq 1 else s.push r.1 r.2 e

/-- CHANNEL_FORWARD (R275): the head entry of a package channel's sender enters every open receiver once each has
room. What the sender holds when its reader end closes stays in it (R270). -/
def execChannelForward (d : DieId) (ch : Fin 32) (s : State) : Host.Outcome State Fault Refusal :=
  let sq := s.rd (R.QCH_CHTAB0_SQ d ch)
  .next (if s.on (R.QCH_CHTAB0_EN d ch) && s.rd (R.QCH_CHTAB0_KIND d ch) = 0 then
      match s.queue d sq with
      | e :: _ =>
        let rs := s.receivers d ch
        if s.on (R.QCH_QSTAT_RCLOSED d sq) then s
        else if rs.all fun r => s.canPush r.1 r.2 then rs.foldl (fun t r => t.deliver d sq e r) (s.pop d sq) else s
      | [] => s
    else s)

/-- The state with a fabric channel's members changed. -/
def State.updMems (s : State) (d c : Nat) (f : TxMem → TxMem) : State :=
  s.updFab fun x => { x with mems := x.mems.map fun m => if m.die = d && m.ch = c then f m else m }

/-- R276, R335, R341: n entries of a channel sent to each open member; a closed member's share is discarded. -/
def State.sendEntries (s : State) (d c sq : Nat) (es : List QEntry) : State :=
  let h : Hdr := { type := Ft.ENTRY, nent := es.length, ach := s.rd (R.QCH_CHTAB0_ACH d c), rq := s.rd (R.QCH_CHTAB1_RQ d c) }
  let payload := es.flatMap s.entryOut
  let s1 := (s.members d c).foldl (fun t m =>
    if m.closed then t.discard d sq es.length else t.sendFrame m.epid h payload) s
  (s1.updMems d c fun m => if m.closed then m else { m with credit := m.credit - es.length }).popN d sq es.length

/-- FABRIC_ENTRY_SEND (R276, R340): up to four entries at the head of a fabric channel's sender sent in one frame,
against the credit that every open member has granted (DESIGN CHOICE, log 40: as many as are there and covered). What the
sender holds when its reader end closes stays in it (R270). -/
def execFabricEntrySend (d : DieId) (ch : Fin 32) (s : State) : Host.Outcome State Fault Refusal :=
  let sq := s.rd (R.QCH_CHTAB0_SQ d ch)
  let ms := (s.members d ch).filter fun m => !m.closed
  let n := (ms.map (·.credit)).foldl min (min 4 (s.queue d sq).length)
  .next (if s.on (R.QCH_CHTAB0_EN d ch) && s.rd (R.QCH_CHTAB0_KIND d ch) != 0 && !(s.members d ch).isEmpty && 0 < n &&
      !s.on (R.QCH_QSTAT_RCLOSED d sq) then
      s.sendEntries d ch sq ((s.queue d sq).take n)
    else s)

/-! ### Restarts (R108, R133, R151, R174, R206) -/

/-- R206: a stream unit discards its outstanding reads and the entries that it holds, and runs its program again from the
first transfer, with the offsets that were fed to it. -/
def SUnit.again (x : SUnit) : SUnit :=
  { x with made := 0, rest := [], ents := [], used := 0, landed := 0, restData := false, restCt := false,
           feeds := x.fed ++ x.feeds, fed := [] }

/-- The stream unit whose program at its head fills a queue. -/
def State.feeder (s : State) (d q : Nat) : Option Nat :=
  let w := s.rd (R.QCH_QCFG_WRITER d q)
  if 0x10 ≤ w && w < 0x20 then
    match ((s.die d).sunit (w - 0x10)).rec? with
    | some p => if p.dir = 0 && p.queue = q then some (w - 0x10) else none
    | none => none
  else none

/-- The stream unit whose program at its head drains a queue to memory. -/
def State.drainer (s : State) (d q : Nat) : Option Nat :=
  let r := s.rd (R.QCH_QCFG_READER d q)
  if 0x10 ≤ r && r < 0x20 then
    match ((s.die d).sunit (r - 0x10)).rec? with
    | some p => if p.dir = 1 && p.queue = q then some (r - 0x10) else none
    | none => none
  else none

/-- The entries of the program at a reading unit's head that have left the unit. -/
def SUnit.given (x : SUnit) : Nat :=
  match x.rec? with
  | some p => (x.made * p.xbytes - x.rest.length) / 2048 - x.ents.length
  | none => 0

/-- R206: a reading unit's queued entries are discarded and its program runs again. -/
def State.rerun (s : State) (d u q : Nat) : State :=
  let n := min ((s.die d).sunit u).given (s.queue d q).length
  ((s.setQueue d q ((s.queue d q).take ((s.queue d q).length - n))).updSunit d u SUnit.again).touchUnit d u

/-- R206: the unit that fills a queue runs its program again; what operand i of the group had taken of it is discarded. -/
def State.refeed (s : State) (d g i q : Nat) : State :=
  match s.feeder d q with
  | some u =>
    let n := ((s.die d).sunit u).given - (s.queue d q).length
    (s.rerun d u q).updGroup d g fun y => { y with inb := modifyAt (fun l => l.take (l.length - n)) y.inb i }
  | none => s

/-- R206: the unit that drains a queue discards what it has taken, the operation's n pushed entries that are still in the
queue go too, and its program runs again. -/
def State.redrain (s : State) (d q n : Nat) : State :=
  match s.drainer d q with
  | some u =>
    let k := min n (s.queue d q).length
    ((s.setQueue d q ((s.queue d q).take ((s.queue d q).length - k))).updSunit d u SUnit.again).touchUnit d u
  | none => s

/-- R108, R99, R133: what an operation had loaded in part is no longer valid: the tile registers, with their in-use flags,
and the idle register; on Mint, the limb stores of its units. -/
def State.dropLoaded (s : State) (d g : Nat) (op : Issued) : State :=
  let s1 := (op.tilesWritten.filter fun t => !op.tilesRead.contains t).foldl (fun (t : State) k =>
    t.wr (R.BASIL_INUSE_INUSE d) (clearBit (t.rd (R.BASIL_INUSE_INUSE d)) k)) s
  if op.fine then s1
  else if g = 0 then s1.updDie d fun x => { x with statIdle := [], idleLost := none, exchange := false }
  else if g = 1 then s1.updDie d fun x => { x with limbStores := x.limbStores.filter fun p => !bitOf op.xf (p.1 / 2) }
  else s1

/-- The queues that a fine operation pops. -/
def State.fineQueues (s : State) (d : Nat) (op : Issued) : List Nat :=
  [0, 1].filterMap fun i => match s.sel d (op.fSrc i) with
    | .queue q => some q
    | _ => none

/-- R108: an operation restarts before its work is done: what it popped is fetched again, and Dill serves its key again. -/
def State.restartHead (s : State) (d g : Nat) (op : Issued) : State :=
  let s1 :=
    if op.fine then (s.fineQueues d op).foldl (fun (t : State) q => t.refeed d g 3 q) s
    else [0, 1, 2].foldl (fun (t : State) i => if op.qv i then t.refeed d g i (op.qf i) else t) s
  let s2 := match (specFor g op.opc).keyCtx with
    | some k => if op.fine || ((s.die d).group g).redo.isSome then s1 else s1.serveAgain d k
    | none => s1
  s2.dropLoaded d g op

/-- R108: an operation restarts after its work: its inputs are fetched again where a unit still runs their program, its
partial sums and statistics are reinitialised, and the same bits leave it again. An output that no stream unit drains goes
on from where it was (DESIGN CHOICE, log 145: R108 does not say what becomes of entries that another engine has taken). -/
def State.restartRun (s : State) (d g : Nat) (r : Running) : State :=
  let op := r.op
  let x := (s.die d).group g
  let took := (List.range 3).map fun i => if op.qv i && (s.feeder d (op.qf i)).isSome then r.took.getD i 0 else 0
  let again (o : Nat) : Bool := op.qv (3 + o) && (s.drainer d (op.qf (3 + o))).isSome
  let full := (List.range 2).map fun o => if again o then r.full.getD o [] else x.outb.getD o []
  let s1 := [0, 1, 2].foldl (fun (t : State) i => if op.qv i then t.refeed d g i (op.qf i) else t) s
  let s2 := [0, 1].foldl (fun (t : State) o =>
    if again o then t.redrain d (op.qf (3 + o)) ((r.full.getD o []).length - (x.outb.getD o []).length) else t) s1
  let s3 := r.auxData.foldl (fun (t : State) a => t.write a.1 a.2.1 (zeros a.2.2.length)) s2
  (s3.updGroup d g fun y =>
    { y with fifo := op :: y.fifo, inb := [[], [], []], outb := [[], []], cur := none,
             redo := some { r with took := took, full := full } }).dropLoaded d g op

/-- R108, R133, R174: the operation in progress in a group restarts from its beginning. -/
def State.restartGroup (s : State) (d g : Nat) : State :=
  let x := (s.die d).group g
  (match x.cur, x.fifo with
   | some r, _ => s.restartRun d g r
   | none, op :: _ => s.restartHead d g op
   | none, [] => s).touchGroup d g

/-- The restart counter of a group's unit. -/
def State.countRestart (s : State) (d g : Nat) : State :=
  match g with
  | 0 => s.sat (R.BASIL_RESTARTS_COUNT d) 1
  | 1 => s.sat (R.MINT_RESTARTS_COUNT d) 1
  | 2 => s.sat (R.PARS_RESTARTS_COUNT d) 1
  | _ => s.sat (R.TARR_RESTARTS_COUNT d) 1

/-- The operation in progress in a group: the one that waits for its pushes and commits, or the one at the head. -/
def Group.inProgress (x : Group) : Option Issued :=
  match x.cur with
  | some r => some r.op
  | none => x.fifo.head?

/-- R108: a fetch error of the operation in progress in a group: it restarts, and at the fourth in a row it faults with
STALL and the job is aborted. -/
def State.fetchError (s : State) (d g : Nat) : State :=
  match ((s.die d).group g).inProgress with
  | some op =>
    if (s.jobOn d).isNone then s
    else
      let n := ((s.die d).group g).retries + 1
      let s1 := s.updGroup d g fun y => { y with retries := n }
      if 4 ≤ n then (s1.lastFault d g Ev.STALL op.site).fatal d g op.site Ev.STALL 0
      else (s1.countRestart d g).restartGroup d g
  | none => s

/-- FETCH_ERROR_RESTART (R108): a retryable fetch error of a group's operation. -/
def execFetchErrorRestart (d : DieId) (g : Fin 4) (s : State) : Host.Outcome State Fault Refusal :=
  .next (s.fetchError d g)

/-- R211: an access-fault trap (or another) of image code on a core: recorded, CORE_TRAP raised, the job ended. -/
def State.coreTrap (s : State) (d c cause epc : Nat) : State :=
  let s1 := (((s.wr (R.CHIVE_TRAP_CORE d) c).wr (R.CHIVE_TRAP_CAUSE d) cause).wr (R.CHIVE_TRAP_EPC d) epc).wr
    (R.CHIVE_STATUS_TRAPPED d) (setBit (s.rd (R.CHIVE_STATUS_TRAPPED d)) c)
  s1.fatal d (0x20 + c) 0 Ev.CORE_TRAP 0

/-- R255, R281, R293: a write on its way lands; where it is refused with a bus error, the core that issued it takes an
access-fault trap (R211); a stream unit whose last write it was is done with its program. -/
def State.landWrite (s : State) (f : Flight) : State :=
  let (s1, ok) := s.landing f
  let d := (f.mid - 0x010) / 8
  let c := f.mid % 8
  if f.chan != 0 then s1.endProgram d (f.chan - 1)
  else if ok || (s1.jobOn d).isNone then s1
  else s1.coreTrap d c 7 ((s1.die d).core c).pc

/-- The operation in progress in a group takes entries from a queue. -/
def State.pops (s : State) (d g q : Nat) : Bool :=
  match ((s.die d).group g).inProgress with
  | some op => if op.fine then (s.fineQueues d op).contains q else (op.operandOn q).isSome
  | none => false

/-- R206, R247: a read of a stream unit that did not arrive: a fetch error of the operation that it serves; where it serves
none that is in progress, the unit alone runs its program again. -/
def State.lostUnitRead (s : State) (d u : Nat) : State :=
  match ((s.die d).sunit u).rec? with
  | some p =>
    let r := s.rd (R.QCH_QCFG_READER d p.queue)
    if p.dir != 0 then s
    else if r < 4 && s.pops d r p.queue then s.fetchError d r
    else s.rerun d u p.queue
  | none => s

/-- The context of Dill whose entry is being served; the first of two. -/
def State.dillServes (s : State) (d : Nat) : Option Nat := [0, 1].find? fun k => (s.dillCtx d k).active

/-- R151: a read of Dill that did not arrive: a fetch error of the operation that consumes the key (KSIP on context 0,
LWEKSW and PBS on context 1); where none is in progress, the entry is served again. -/
def State.lostKeyRead (s : State) (d : Nat) : State :=
  match s.dillServes d with
  | some k =>
    let g := 3 * k
    let mine := match ((s.die d).group g).inProgress with
      | some op => decide ((specFor g op.opc).keyCtx = some k)
      | none => false
    if mine then s.fetchError d g else s.serveAgain d k
  | none => s

/-- R108, R206, R247: a read by a unit that did not arrive, by the unit's end code: an engine's operation restarts, a
stream unit's with the operation it serves, a core takes an access-fault trap, Dill serves its entry again and the copy
unit its copy from the start. -/
def State.lostRead (s : State) (d code : Nat) : State :=
  if code < 4 then s.fetchError d code
  else if 0x10 ≤ code && code < 0x20 then s.lostUnitRead d (code - 0x10)
  else if 0x20 ≤ code && code < 0x27 then
    if (s.jobOn d).isSome then s.coreTrap d (code - 0x20) 5 ((s.die d).core (code - 0x20)).pc else s
  else if code = 0x31 then s.lostKeyRead d
  else if code = 0x32 then s.updDie d fun x => { x with copies := x.copies.mapIdx fun i j => if i = 0 then { j with done := 0 } else j }
  else s

/-- A handle lies on another die (R247). -/
def remoteHandle (d h : Nat) : Bool := h != nullHandle && hDie h != d

/-- Since when a unit has waited for a remote read; `none` where it has none to wait for. -/
def State.remoteSince (s : State) (d code : Nat) : Option Nat :=
  if code < 4 then
    match ((s.die d).group code).inProgress with
    | some op =>
      let hs := op.argReads ++ ([op.din 0, op.din 1].filter refNamesSlot).map refHandle
      if !op.fine && hs.any (remoteHandle d) then some ((s.die d).group code).at_ else none
    | none => none
  else if 0x10 ≤ code && code < 0x20 then
    match ((s.die d).sunit (code - 0x10)).rec? with
    | some p => if p.dir = 0 && remoteHandle d p.handle then some ((s.die d).sunit (code - 0x10)).at_ else none
    | none => none
  else if 0x20 ≤ code && code < 0x27 then some ((s.die d).core (code - 0x20)).at_
  else if code = 0x31 then
    match s.dillServes d with
    | some k =>
      match s.keyEntry d k with
      | some e => if remoteHandle d e.handle then some (s.dillCtx d k).at_ else none
      | none => none
    | none => none
  else if code = 0x32 then
    match (s.die d).copies with
    | j :: _ => if remoteHandle d (leAt j.src 4 2) then some j.at_ else none
    | [] => none
  else none

/-- REMOTE_READ_TIMEOUT (R247): a remote read without data within SPAD_RTMO, on the requesting die's counter, is a fetch
error. -/
def execRemoteReadTimeout (d : DieId) (who : BitVec 8) (s : State) : Host.Outcome State Fault Refusal :=
  .next (match s.remoteSince d who.toNat with
    | some t => if t + 1000 * s.rd (R.SPAD_RTMO_LIMIT_US d) < (s.die d).time then s.lostRead d who.toNat else s
    | none => s)

/-- R272: what a bridge transfer's loss does. A lost write or channel entry ends the job of the die. -/
def State.bridgeLoss (s : State) (d : Nat) : BridgeLoad → State
  | .read who => s.lostRead d who.toNat
  | .write h =>
    let s1 := (s.tear h.toNat).raise
      { code := Ev.BRIDGE_FAIL, src := d, unit := Unit.BRIDGES, job := s.jobIdOn d, detail := h.toNat }
    let gone := s1.flights.find? fun f => f.handle = h.toNat
    { s1 with flights := s1.flights.filter fun f => gone != some f }.endJobOn d Ev.BRIDGE_FAIL
  | .entry ch =>
    let sq := s.rd (R.QCH_CHTAB0_SQ d ch)
    if s.on (R.QCH_CHTAB0_EN d ch) && !(s.queue d sq).isEmpty then
      ((s.pop d sq).raise { code := Ev.BRIDGE_FAIL, src := d, unit := Unit.BRIDGES, job := s.jobIdOn d, detail := sq * 2 ^ 16 }).endJobOn d
        Ev.BRIDGE_FAIL
    else s

/-- BRIDGE_RESEND (R272): a flit failed its link check and `fails` of its resends failed too; each resend is counted,
and with the third the transfer is lost. -/
def execBridgeResend (d : DieId) (fails : Fin 4) (what : BridgeLoad) (s : State) : Host.Outcome State Fault Refusal :=
  .next (if s.present d then
      let s1 := s.sat (R.QCH_BRIDGE_RETRIES d) (min (fails.val + 1) 3)
      if fails.val = 3 then s1.bridgeLoss d what else s1
    else s)

/-! ### Stalls (R111, R133, R153, R174, R277, R278) -/

/-- R282, R344: the sealed writes that a die holds, as QCH_SEAL_PEND counts them: those that go to its storage. -/
def State.sealPend (s : State) (d : Nat) : Nat :=
  (s.flights.filter fun f => f.isSealed && (s.place f.handle f.off).die = d).length +
    (s.fab.held.filter fun w => (s.place w.handle w.off).die = d).length

/-- A wait that holds counts from its beginning. -/
def whileWaiting (holds : Bool) (since : Nat) : Option Nat := if holds then some since else none

/-- R277: since when a group has waited: for an entry, for room, for a pending slot, or for something else: a tile
register, a key row, a statistics seal, a stack that issues no accesses (R299), or the landing of what it pushed. -/
def State.groupWait (s : State) (d g q wait : Nat) : Option Nat :=
  let x := (s.die d).group g
  let fine (p : Issued → Bool) : Bool := match x.cur, x.fifo with
    | none, op :: _ => op.fine && p op
    | _, _ => false
  let pushes : Bool := match x.cur with
    | some r => match r.outOn q with
      | some i => !(x.outb.getD i []).isEmpty
      | none => false
    | none => false
  let lands : Bool := match x.cur with
    | some r => x.outb.all (·.isEmpty) && !r.commits.isEmpty
    | none => false
  let held : Bool := match s.headMacro d g with
    | some op => s.tileBusy d g op || match s.ctxOf d g op with
      | some c =>
        let spec := specFor g op.opc
        c.gathered (c.shapeOf spec) && (!spec.ready c || c.stackWaits || match spec.keyCtx with
          | some k => !s.dillReady d k
          | none => false)
      | none => false
    | none => false
  let slot : Bool := match s.headMacro d g with
    | some op => [op.din 0, op.din 1].any fun r => refNamesSlot r && s.slotWaits d g r
    | none => false
  match wait with
  | 0 => whileWaiting ((s.queue d q).isEmpty && ((s.takes d g q).isSome || fine fun op => (s.fineQueues d op).contains q)) x.at_
  | 1 => whileWaiting (!s.canPush d q && (pushes || fine fun op => s.sel d op.fDst == .queue q)) x.at_
  | 6 => whileWaiting slot x.at_
  | 7 => whileWaiting (lands || held || fine fun op => s.tileBusy d g op) x.at_
  | _ => none

/-- R299: a stream unit's next transfer waits for a stack that issues no accesses. -/
def State.unitHeld (s : State) (d u : Nat) (p : SProg) : Bool :=
  let x := (s.die d).sunit u
  (if p.dir = 0 then x.mayRead p else s.mayWriteOut d u p) &&
    match x.nextOff p with
    | some off => s.accessWaits p.handle off p.xbytes
    | none => false

/-- R277: since when a stream unit has waited: for an entry, for room, for its writes to land, or for a stack that issues
no accesses (R299). -/
def State.unitWait (s : State) (d u q wait : Nat) : Option Nat :=
  let x := (s.die d).sunit u
  match x.rec? with
  | none => none
  | some p =>
    match wait with
    | 0 => whileWaiting (p.queue = q && (s.queue d q).isEmpty && x.wants) x.at_
    | 1 => whileWaiting (p.queue = q && p.dir = 0 && !x.ents.isEmpty && !s.canPush d q) x.at_
    | 7 => whileWaiting (s.unitFlights d u != 0 || s.unitHeld d u p) x.at_
    | _ => none

/-- R277, R185, R232: since when a core has waited: for a sealed write of its own that this die holds, an atomic, a layer
barrier, the next segment, room in the FIFO of a group that it owns or among the programs of a unit of it. -/
def State.coreWait (s : State) (d c wait : Nat) : Option Nat :=
  match wait with
  | 3 => ((s.flights.find? fun f => f.isSealed && f.mid % 8 = c && (s.place f.handle f.off).die = d).map (·.at_))
  | 4 => ((s.fab.posts.find? fun q => q.die = d && q.core = c && leAt q.rec' 6 1 % 4 = 2).map (·.at_))
  | 5 => whileWaiting ((s.die d).core c).atBarrier.isSome ((s.die d).core c).at_
  | 7 =>
    let k := (s.die d).core c
    whileWaiting ((k.atBoundary && !k.segReady) || (List.range 4).any fun g => s.ownerOf d g = c &&
      (16 ≤ ((s.die d).group g).fifo.length || (List.range 4).any fun i => 8 ≤ ((s.die d).sunit (4 * g + i)).waiting.length)) k.at_
  | _ => none

/-- R277: since when the channel engine has waited: for credit, or with a sealed write from the fabric. -/
def State.channelWait (s : State) (d q wait : Nat) : Option Nat :=
  match wait with
  | 2 =>
    match s.chanOf d q with
    | some c =>
      whileWaiting (!(s.queue d q).isEmpty &&
        (if s.rd (R.QCH_CHTAB0_KIND d c) = 0 then (s.receivers d c).any fun r => !s.canPush r.1 r.2
         else (s.members d c).any fun m => !m.closed && m.credit = 0)) (mapGet 0 (s.die d).headAt q)
    | none => none
  | 3 => ((s.fab.held.find? fun w => (s.place w.handle w.off).die = d).map (·.at_))
  | _ => none

/-- R277: since when, on the die's counter, a unit has been in the wait that a STALL names, by its end code (R265); `none`
where it is not in that wait. -/
def State.waitSince (s : State) (d u q wait : Nat) : Option Nat :=
  if wait ≤ 2 && s.rd (R.QCH_QCFG_CAP d q) = 0 then none
  else if u < 4 then s.groupWait d u q wait
  else if 0x10 ≤ u && u < 0x20 then s.unitWait d (u - 0x10) q wait
  else if 0x20 ≤ u && u < 0x27 then s.coreWait d (u - 0x20) wait
  else if u = 0x30 then s.channelWait d q wait
  else if u = 0x31 && wait = 7 then (s.dillServes d).map fun k => (s.dillCtx d k).at_
  else none

/-- R277: the stall limit of a waiting unit in microseconds: an engine's own, the issue limit of stream units and cores, the
channel limit of package channels and sealed holds, the fabric's of fabric credit, fabric holds and remote atomics. -/
def State.stallLimit (s : State) (d u q wait : Nat) : Nat :=
  let pkg := s.rd (R.QCH_STALL_LIMIT_LIMIT_US d)
  let fabric := s.rd (R.QCH_FSTALL_LIMIT_LIMIT_US d)
  if u = 0 then s.rd (R.BASIL_STALL_LIMIT_LIMIT_US d)
  else if u = 1 then s.rd (R.MINT_STALL_LIMIT_LIMIT_US d)
  else if u = 2 then s.rd (R.PARS_STALL_LIMIT_LIMIT_US d)
  else if u = 3 then s.rd (R.TARR_STALL_LIMIT_LIMIT_US d)
  else if u = 0x31 then s.rd (R.DILL_STALL_LIMIT_LIMIT_US d)
  else if u = 0x30 then
    if wait = 2 && ((s.chanOf d q).map fun c => s.rd (R.QCH_CHTAB0_KIND d c)) = some 0 then pkg else fabric
  else if wait = 3 then pkg
  else if wait = 4 then fabric
  else s.rd (R.STRM_STALL_LIMIT_LIMIT_US d)

/-- STALL_TIMEOUT (R277, R278): a wait has outlasted the waiting unit's stall limit on its die's counter: STALL is raised and
recorded, and the job on the die ends with it. -/
def execStallTimeout (d : DieId) (unit : BitVec 8) (q : QueueId) (wait : Fin 8) (s : State) : Host.Outcome State Fault Refusal :=
  let named : Bool := wait.val ≤ 2
  let u := unit.toNat
  let site := if u < 4 then (((s.die d).group u).inProgress.map (·.site)).getD 0 else 0
  .next (match s.waitSince d u q wait with
    | some t =>
      if (s.jobOn d).isSome && decide (t + 1000 * s.stallLimit d u q wait < (s.die d).time) then
        let s1 := (((s.wr (R.QCH_LAST_STALL_UNIT d) u).wr (R.QCH_LAST_STALL_QUEUE d) (if named then q.val else 0)).wr
          (R.QCH_LAST_STALL_WAIT d) wait).wr (R.QCH_LAST_STALL_SITE d) site
        let s2 := if named then s1.wr (R.QCH_QSTAT_STALLED d q) 1 else s1
        s2.fatal d u site Ev.STALL (if named then q.val * 2 ^ 16 else 0)
      else s
    | none => s)

end Sys2Proof.Machine
end

