-- ==== Sys2Proof/Machine/Streams.lean ====
section
/-! DEFINITION. Stream units (R201–R206): the checks of a program that reaches its unit's head, and its transfers. -/

namespace Sys2Proof.Machine

/-- R203: the lowest and highest byte that a loop program's transfers touch. -/
def SProg.span (p : SProg) : Int × Int :=
  let reach (d : Nat) : Int := ((p.counts.getD d 1 - 1 : Nat) : Int) * p.strides.getD d 0
  let rs := (List.range 4).map reach
  ((p.base : Int) + (rs.map fun r => min 0 r).foldl (· + ·) 0,
   (p.base : Int) + (rs.map fun r => max 0 r).foldl (· + ·) 0 + (p.xbytes : Int) - 1)

/-- R203: the alignment of a program's transfers to the access width of its handle's memory. -/
def State.progAligned (s : State) (p : SProg) : Bool :=
  let w := s.hWidth p.handle
  p.base % w = 0 && p.strides.all (fun x => x % (w : Int) = 0) && p.xbytes % w = 0

/-- R5, R190, R202: the reserved fields of a record are zero and its sizes are in their ranges. -/
def recordOk (b : List Byte) : Bool :=
  let w := leAt b 0 8
  let p := parseProg b
  bits w 23 1 = 0 && bits w 26 6 = 0 && bits w 43 21 = 0 && leAt b 0x30 16 = 0 && 1 ≤ p.xsize && p.xsize ≤ 1024 &&
    p.counts.all (fun c => 1 ≤ c) && (!p.feed || ((p.counts.drop 1).all (· = 1) && p.strides.all (· = 0)))

/-- R245: what a unit may not read, or write, whatever the entry. A descriptor-table region takes slot writes under R250
alone (DEDUCED, log 44). -/
def State.unitForbidden (s : State) (h dir : Nat) : Bool :=
  if dir = 0 then s.readForbidden h
  else s.hAttr h Attr.KEY || s.hAttr h Attr.PROBE || s.hAttr h Attr.CONST || s.hAttr h Attr.DESC

/-- R203: the RANGE check of a program. -/
def State.progInRange (s : State) (d : Nat) (b : List Byte) : Bool :=
  let p := parseProg b
  let lim : Int := (s.hLen p.handle : Int)
  recordOk b && s.handleOk p.handle && (p.total * p.xbytes) % 2048 = 0 && s.rd (R.QCH_QCFG_CAP d p.queue) != 0 &&
    !s.unitForbidden p.handle p.dir &&
    (p.feed || (decide (0 ≤ p.span.1) && decide (p.span.2 < lim)))

/-- R203, R261: the code with which a program is refused, if any: ALIGN, then RANGE, then STALE_UNIT. -/
def State.progFault (s : State) (d : Nat) (b : List Byte) : Option Nat :=
  let p := parseProg b
  if s.handleOk p.handle && !s.progAligned p then some Ev.ALIGN
  else if !s.progInRange d b then some Ev.RANGE
  else if s.hStale p.handle then some Ev.STALE_UNIT
  else none

/-- R203: a program's fault recorded, raised, and the job ended. -/
def State.unitFault (s : State) (d u idx code h : Nat) : State :=
  let s1 := ((s.wr (R.SU_FAULT_UNIT d) u).wr (R.SU_FAULT_CODE d) code).wr (R.SU_FAULT_PROG d) idx
  (s1.updSunit d u fun x => { x with failed := code }).fatal d (0x10 + u) 0 code h

/-- R204, R203: the code with which a fed byte offset is refused, if any: ALIGN, then RANGE. -/
def State.feedFault (s : State) (p : SProg) (off : Nat) : Option Nat :=
  if (p.base + off) % s.hWidth p.handle != 0 then some Ev.ALIGN
  else if s.hLen p.handle < p.base + off + p.xbytes then some Ev.RANGE
  else none

/-- R202: the 64 bytes of a program in the die's table. -/
def State.progRecord (s : State) (d idx : Nat) (w : Who) : Got :=
  let h := s.rd (R.SU_PROGBASE_HANDLE d)
  if s.handleOk h && decide (64 * idx + 64 ≤ s.hLen h) then s.read h (64 * idx) 64 w else ⟨s, zeros 64, false⟩

/-- STREAM_PROGRAM_START (R203): the next started program reaches its unit's head and is checked. -/
def execStreamProgramStart (d : DieId) (u : Fin 16) (ups : List Upset) (s : State) : Host.Outcome State Fault Refusal :=
  let s := s.plant ups
  let x := (s.die d).sunit u
  .next (match x.waiting, x.prog with
    | idx :: rest, none =>
      if (s.jobOn d).isNone then s
      else
        let w : Who := { mid := coreMid d (s.ownerOf d (u.val / 4)), job := s.jobIdOn d }
        let g := s.progRecord d idx w
        let s1 := g.st.updSunit d u fun y =>
          { y with waiting := rest, prog := some (idx, fit 64 g.bytes), made := 0, at_ := (s.die d).time }
        match s1.progFault d g.bytes with
        | some code => (s1.updSunit d u fun y => { y with prog := none }).unitFault d u idx code (parseProg g.bytes).handle
        | none => s1
    | _, _ => s)

/-- A feed program's next offset is used (R204). -/
def SUnit.useFeed (x : SUnit) (feed : Bool) : SUnit :=
  if feed then { x with feeds := x.feeds.drop 1, fed := x.fed ++ x.feeds.take 1 } else x

/-- A read transfer's bytes formed into entries with their tags (R180, R183, R206). -/
def SUnit.take (x : SUnit) (bs : List Byte) (bad ct : Bool) (feed : Bool) : SUnit :=
  let all := x.rest ++ bs
  let n := all.length / 2048
  let es := (chunks 2048 (all.take (2048 * n))).zipIdx.map fun (p : List Byte × Nat) =>
    { bytes := p.1, dataT := bad || (p.2 = 0 && x.restData), ct := ct : QEntry }
  { x with
    rest := all.drop (2048 * n)
    restData := if n = 0 then bad || x.restData else bad
    ents := x.ents ++ es
    made := x.made + 1 }.useFeed feed

/-- The entries that a write transfer of n bytes draws on. -/
def SUnit.used? (x : SUnit) (n : Nat) : List QEntry := x.ents.take (ceilDiv (x.used + n) 2048)

/-- R479: the bytes of a write transfer with the entries' VOID parts left out, as pieces (offset, bytes). -/
def SUnit.pieces (x : SUnit) (n : Nat) : List (Nat × List Byte) :=
  ((x.used? n).zipIdx).filterMap fun (p : QEntry × Nat) =>
    let lo := max x.used (2048 * p.2)
    let hi := min (x.used + n) (2048 * p.2 + 2048)
    if p.1.void || hi ≤ lo then none else some (lo - x.used, slice (fit 2048 p.1.bytes) (lo - 2048 * p.2) (hi - lo))

/-- R183: a write transfer to a handle with CT takes only entries of an operation whose output names the handle. A VOID
entry writes nothing (R479) and is not refused (DEDUCED, log 132). -/
def State.mayLand (s : State) (h : Nat) (es : List QEntry) : Bool :=
  es.all fun e => !e.token && (e.void || !s.hAttr h Attr.CT || e.owners.contains h)

/-- Bytes cut at the granules of 256 bytes of part-wide memory, which may lie on different dies (R288, R290). -/
def granules (off : Nat) (bs : List Byte) : List (Nat × List Byte) :=
  let k := 256 - off % 256
  if bs.length ≤ k then [(off, bs)]
  else (off, bs.take k) :: ((chunks 256 (bs.drop k)).zipIdx.map fun (p : List Byte × Nat) => (off + k + 256 * p.2, p.1))

/-- R281, R282: bytes written by a stream unit: within the die they land at once; across a bridge they land later, on the
unit's channel. -/
def State.unitWrite (s : State) (d u h off : Nat) (bs : List Byte) : State :=
  (if s.hLoc h = 3 then granules off bs else [(off, bs)]).foldl (fun (t : State) q =>
    if (t.place h q.1).die = d then t.write h q.1 q.2
    else
      let f : Flight := { mid := coreMid d (t.ownerOf d (u / 4)), chan := 1 + u, handle := h, off := q.1, bytes := q.2,
                          isSealed := false, seq := t.flightSeq, at_ := (t.die (t.place h q.1).die).time }
      { t with flights := t.flights ++ [f], flightSeq := t.flightSeq + 1 }) s

/-- One transfer of the program at a unit's head, at a given offset. -/
def State.transfer (s : State) (d u idx : Nat) (p : SProg) (off : Nat) : State :=
  let x := (s.die d).sunit u
  let w : Who := { mid := coreMid d (s.ownerOf d (u / 4)), job := s.jobIdOn d }
  let bad := if p.feed then s.feedFault p (off - p.base) else none
  if bad.isSome then s.unitFault d u idx (bad.getD 0) p.handle
  else if p.dir = 0 then
    let g := s.engineRead p.handle off p.xbytes w
    ((g.st.inc (R.SU_BYTES_COUNT d) p.xbytes).updSunit d u fun y =>
      y.take (fit p.xbytes g.bytes) g.ue (s.hAttr p.handle Attr.CT) p.feed).touchUnit d u
  else if !s.mayLand p.handle (x.used? p.xbytes) then s.unitFault d u idx Ev.RANGE p.handle
  else
    let s1 := (x.pieces p.xbytes).foldl (fun (t : State) q => t.unitWrite d u p.handle (off + q.1) q.2) s
    (((s1.inc (R.SU_BYTES_COUNT d) p.xbytes).updSunit d u fun y =>
      let n := (y.used + p.xbytes) / 2048
      { y with
        ents := y.ents.drop n
        used := y.used + p.xbytes - 2048 * n
        made := y.made + 1
        landed := y.landed + p.xbytes }.useFeed p.feed).touchUnit d u).endProgram d u

/-- STREAM_TRANSFER (R205): the next transfer of the program at a unit's head completes: bytes read are formed into
entries, or the entries taken from the queue land, across a bridge later (R281). It waits for a stack that issues no accesses
(R299). -/
def execStreamTransfer (d : DieId) (u : Fin 16) (ups : List Upset) (s : State) : Host.Outcome State Fault Refusal :=
  let s := s.plant ups
  let x := (s.die d).sunit u
  .next (match x.prog with
    | some (idx, rec') =>
      let p := parseProg rec'
      let ready := if p.dir = 0 then x.mayRead p else s.mayWriteOut d u p
      match x.nextOff p with
      | some off => if ready && (s.jobOn d).isSome && !s.accessWaits p.handle off p.xbytes then s.transfer d u idx p off else s
      | none => s
    | none => s)

end Sys2Proof.Machine
end

