-- ==== Sys2Proof/Machine/Loader.lean ====
section
/-! DEFINITION. The loader (R215, R221–R223, R234, R246): prime chains, placement of buffers, relocation, constant
tables, and image slots. -/

namespace Sys2Proof.Machine

/-! ### Prime chains (R26–R28) -/

/-- R26: an admitted job's image names a chain. -/
def State.chainLocked (s : State) (id : Nat) : Bool :=
  s.jobs.any fun j => j.live && (imgChains (s.image j.slot)).any fun b => leAt b 0 1 = id

/-- R26, R28: a chain entry that a load may carry: legal, and no change of a locked entry; or the installed one again. -/
def State.chainLoads (s : State) (b : List Byte) : Bool :=
  let id := leAt b 0 1
  mapFind s.chains id == some b || (chainOk b && !s.chainLocked id)

/-- R26: chain entries installed. -/
def State.putChains (s : State) (bs : List (List Byte)) : State :=
  { s with chains := bs.foldl (fun m b => mapPut m (leAt b 0 1) b) s.chains }

/-! ### Placement in scratchpad (R241, R244, R255) -/

/-- The banks of a die that a class of scratchpad may use: in service, powered and not under a scrub (R259, R260). -/
def State.classBanks (s : State) (d loc : Nat) : List Bool :=
  (List.range 64).map fun b =>
    bitOf (s.rd (R.SPAD_BANKS_INSERV d)) b && bitOf (s.rd (R.SPAD_PWR_ON d)) b && !bitOf (s.die d).scrubbing b &&
      (bitOf (s.rd (R.SPAD_CLASS_DURABLE d)) b == (loc = 1))

/-- The longest run of banks allowed, the first of its length: start and length. -/
def longestRun : List Bool → Nat → Nat × Nat → Nat × Nat → Nat × Nat
  | [], _, cur, best => if best.2 < cur.2 then cur else best
  | true :: bs, i, cur, best => longestRun bs (i + 1) (if cur.2 = 0 then (i, 1) else (cur.1, cur.2 + 1)) best
  | false :: bs, i, cur, best => longestRun bs (i + 1) (0, 0) (if best.2 < cur.2 then cur else best)

/-- The span that a die's buffers of a class take: the longest run of its banks (DESIGN CHOICE, log 64). -/
def State.classSpan (s : State) (d loc : Nat) : Nat × Nat := longestRun (s.classBanks d loc) 0 (0, 0) (0, 0)

/-- The rows that bound scratchpad entries of a die hold in some bank of a span: first row and count. -/
def State.spanRows (s : State) (d lo cnt : Nat) : List (Nat × Nat) :=
  ((List.range 256).filter fun i =>
    s.on (R.SPAD_HTAB0_V d i) && s.on (R.SPAD_HTAB0_BOUND d i) && s.rd (R.SPAD_HTAB0_LOC d i) < 2 &&
      decide (s.rd (R.SPAD_HTAB0_BANK_LO d i) < lo + cnt) &&
      decide (lo < s.rd (R.SPAD_HTAB0_BANK_LO d i) + s.rd (R.SPAD_HTAB0_BANK_CNT d i))).map fun i =>
    (s.rd (R.SPAD_HTAB0_ROW_BASE d i), ceilDiv (s.rd (R.SPAD_HTAB1_LENGTH d i)) (128 * s.rd (R.SPAD_HTAB0_BANK_CNT d i)))

/-- The lowest first row at which rows of a span are free (log 64). -/
def State.freeRows (s : State) (d lo cnt rows : Nat) : Option Nat :=
  let taken := s.spanRows d lo cnt
  let cands := 0 :: taken.map fun t => t.1 + t.2
  let good := cands.filter fun a => decide (a + rows ≤ 65536) && taken.all fun t => decide (a + rows ≤ t.1) || decide (t.1 + t.2 ≤ a)
  good.foldl (fun acc a => some (match acc with | some b => min a b | none => a)) none

/-- R258: the dirty banks of a span scrubbed. -/
def State.scrubDirty (s : State) (d lo cnt : Nat) : State :=
  (List.range cnt).foldl (fun (t : State) k => if bitOf (t.die d).dirty (lo + k) then t.clearBank d (lo + k) else t) s

/-- A scratchpad entry bound to rows of its class's span; none where there is no room. -/
def State.bindSpad (s : State) (d i : Nat) : Option State :=
  let (lo, cnt) := s.classSpan d (s.rd (R.SPAD_HTAB0_LOC d i))
  if cnt = 0 then none
  else
    match s.freeRows d lo cnt (ceilDiv (s.rd (R.SPAD_HTAB1_LENGTH d i)) (128 * cnt)) with
    | some r =>
      some (((((((s.scrubDirty d lo cnt).wr (R.SPAD_HTAB0_BANK_LO d i) lo).wr (R.SPAD_HTAB0_BANK_CNT d i) cnt).wr (R.SPAD_HTAB0_ROW_BASE d i) r).wr
        (R.SPAD_HTAB0_BOUND d i) 1).wr (R.SPAD_HTAB0_TORN d i) 0).wr (R.SPAD_HTAB0_STALE d i) 0)
    | none => none

/-! ### Buffers of an image (R215, R245, R246) -/

/-- R215: a buffer record. -/
structure BufRec where
  no : Nat
  cls : Nat
  attr : Nat
  size : Nat
  deriving DecidableEq, Repr

def parseBuf (b : List Byte) : BufRec :=
  let w := leAt b 0 8
  { no := bits w 0 16, cls := bits w 16 4, attr := bits w 20 12, size := leAt b 8 8 }

/-- R244, R245: the attributes and the class that a buffer may have. -/
def BufRec.ok (b : BufRec) : Bool :=
  let a (i : Nat) : Bool := bitOf b.attr i
  b.cls ≤ 3 && b.attr < 256 && b.size % 2048 = 0 && 1 ≤ b.size && b.size < 2 ^ 48 &&
    !(a Attr.CWR && (a Attr.CT || a Attr.KEY || a Attr.PROBE || a Attr.CONST)) &&
    !(a Attr.HOST && (a Attr.CT || a Attr.KEY || a Attr.PROBE || a Attr.DESC || a Attr.CONST)) &&
    (b.cls != 1 || a Attr.CONST)

/-- An entry for a buffer written in a free place; a transient buffer stays unbound until a job binds it (R259). -/
def State.putBuffer (s : State) (d slot : Nat) (b : BufRec) : Option (Nat × State) :=
  match s.freeIndex d with
  | none => none
  | some i =>
    if 2 ≤ b.cls then (s.placeRange b.cls d b.size).map fun a => (d * 256 + i, s.putStackEntry d i b.cls b.attr b.size a slot b.no)
    else
      let s1 := (s.putStackEntry d i b.cls b.attr b.size 0 slot b.no).wr (R.SPAD_HTAB0_BOUND d i) 0
      if b.cls = 1 then (s1.bindSpad d i).map fun t => (d * 256 + i, t) else some (d * 256 + i, s1)

/-- R223: the physical dies that an image's logical dies are bound to. -/
def State.bindDies (s : State) (n : Nat) : List Nat := s.diesInServ.take n

/-- The buffer records of an image, with the physical die of each. -/
def imgBufs (img : List Byte) (dies : List Nat) : List (Nat × BufRec) :=
  (List.range (imgDies img)).flatMap fun i => (imgBuffers img i).map fun b => (dies.getD i 8, parseBuf b)

/-- Every buffer of an image given its handle: the map from buffer number to handle. -/
def State.putBuffers (slot : Nat) : List (Nat × BufRec) → State → List (Nat × Nat) → Option (State × List (Nat × Nat))
  | [], s, m => some (s, m)
  | (d, b) :: bs, s, m =>
    match s.putBuffer d slot b with
    | some (h, t) => State.putBuffers slot bs t (m ++ [(b.no, h)])
    | none => none

/-- The handle of a buffer number that something of physical die d names: the buffer that its own die declares, else the
first of the image (DEDUCED, log 129). -/
def handleOf (m : List (Nat × Nat)) (d no : Nat) : Option Nat :=
  match m.find? fun p => p.1 = no && hDie p.2 = d with
  | some p => some p.2
  | none => (m.find? fun p => p.1 = no).map (·.2)

/-- The transient buffers of an image on a die fit its scratchpad together (check 5 of R224): each is bound in turn. -/
def State.transientFit : List Nat → State → Bool
  | [], _ => true
  | h :: hs, s =>
    match s.bindSpad (hDie h) (hIdx h) with
    | some t => State.transientFit hs t
    | none => false

/-! ### Relocation and constants (R215, R221) -/

/-- The relocations of an image: section index and offset. -/
def imgRelocs (img : List Byte) : List (Nat × Nat) :=
  (chunks 8 (imgOne img Sec.RELOC wholePart 0)).map fun b => (leAt b 0 1, bits (leAt b 0 8) 16 48)

/-- R215: an image with the handle of each named buffer in place of its number. -/
def relocate (img : List Byte) (dies : List Nat) (m : List (Nat × Nat)) : List Byte :=
  (imgRelocs img).foldl (fun b r =>
    let t := imgEntry img r.1
    let o := t.off + r.2
    putAt b o (leBytes 2 ((handleOf m (dies.getD t.die 8) (leAt img o 2)).getD 0xFFFF))) img

/-- The constant tables of an image: logical die, header and data. -/
def imgConsts (img : List Byte) : List (Nat × List Byte) :=
  ((imgSects img).filter fun t => t.type = Sec.CONST).map fun t => (t.die, t.bytes img)

/-- R221: one constant table of physical die d written into its buffer. -/
def State.putConst (s : State) (m : List (Nat × Nat)) (d : Nat) (b : List Byte) : State :=
  match handleOf m d (leAt b 2 2) with
  | some h => if s.hBound h then s.write h (leAt b 8 8) (slice b 64 (leAt b 0x10 8)) else s
  | none => s

/-! ### Image slots (R222, R223, R234, R246) -/

/-- LDR_SLOTS.VALID as the slots stand. -/
def State.noteSlots (s : State) : State :=
  let set (f : Nat → Bool) : Nat := sumN ((List.range 16).map fun k => b2n (f k) * 2 ^ k)
  s.wr R.LDR_SLOTS_VALID (set fun k => (mapFind s.images k).isSome)

/-- R222, R246: a slot emptied, its entries freed. -/
def State.emptySlot (s : State) (k : Nat) : State :=
  let mine := (List.range 2048).filter fun h =>
    s.on (R.SPAD_HTAB0_V (hDie h) (hIdx h)) && s.rd (R.SPAD_HTAB3_SLOT (hDie h) (hIdx h)) = k && hIdx h < 0xF0
  let s1 := mine.foldl State.freeEntry s
  { s1 with images := mapDel s1.images k, slotDies := mapDel s1.slotDies k, slotBufs := mapDel s1.slotBufs k }.noteSlots

/-- R223: the minimums of an image that a die must meet. -/
def State.dieMeets (s : State) (img : List Byte) (d : Nat) : Bool :=
  let w := leAt img 0x38 8
  let feat (i : Nat) : Bool := bitOf w (16 + i)
  bits w 4 4 ≤ s.rd (R.MINT_CAPS_PRESENT0 d) + s.rd (R.MINT_CAPS_PRESENT1 d) && bits w 8 8 ≤ s.rd (R.TARR_CAPS_LANES d) &&
    (!feat 0 || s.on (R.BASIL_CAPS_F16 d)) && (!feat 1 || s.on (R.BASIL_CAPS_F8 d)) && (!feat 2 || s.on (R.BASIL_CAPS_F4 d)) &&
    (!feat 3 || s.on (R.TARR_CAPS_PRESENT d)) && (!feat 4 || s.on (R.TARR_CAPS_PRESENT d)) &&
    (!feat 5 || s.on R.FAB_CAPS_PORTS) && bits w 32 32 * 2 ^ 20 ≤ s.spaceBytes 2 d

/-- R223: the dies bound are in service and meet the minimums. -/
def State.capsMet (s : State) (img : List Byte) (dies : List Nat) : Bool :=
  dies.length = imgDies img && dies.all fun d => s.inServ d && s.dieMeets img d

/-- R381, R369: the image store and Sage's table exist. -/
def State.storeThere (s : State) : Bool := decide (2 ^ 29 ≤ s.spaceBytes 3 0)

/-- LOAD (R234 steps 1 and 2): refused where an admitted job refers to the slot; else the slot is emptied and the image
copied. -/
def execLoad (r : Fin 64) (entry : List Byte) (image : List Byte) (s : State) : Host.Outcome State Fault Refusal :=
  .next (s.onEntry r entry 1 fun s e =>
    let len := bits (e.q 0x18) 0 32
    let okE := s.entryOk e && e.kind = 2 && e.q 8 = 0 && aligned64 (e.q 0x10) && bits (e.q 0x18) 32 32 = 0 && e.q 0x20 = 0 &&
      e.q 0x28 = 0 && e.q 0x30 = 0 && decide (len ≤ 2 ^ 28)
    if okE && s.storeThere && !s.slotInUse e.slot && !(s.landings.any fun l => l.slot = e.slot) then
      let s1 := s.emptySlot e.slot
      { s1 with landings := s1.landings ++ [{ slot := e.slot, ring := r, tag := e.tag, sqHead := e.sqHead, image := fit len image,
                                               cq := s.rd (R.SQ_CFG_CQ r) }] }
    else s.refuseEntry e Ev.RANGE Unit.LOADER)

end Sys2Proof.Machine
end

