-- ==== Sys2Proof/Machine/Configure.lean ====
section
/-! DEFINITION. The configuration of a die at job start (R220, R227, R235 step 2, R265, R338, R341) and how the loader
reads the records of a CONFIG and a QUEUES section. -/

namespace Sys2Proof.Machine

/-! ### The records of a CONFIG section (R220) -/

def cfgNch (cfg : List Byte) : Nat := bits (leAt cfg 0x38 8) 0 6
def cfgNrx (cfg : List Byte) : Nat := bits (leAt cfg 0x38 8) 16 9
def cfgNmc (cfg : List Byte) : Nat := bits (leAt cfg 0x38 8) 32 9

/-- Channel entry c. -/
def cfgChan (cfg : List Byte) (c : Nat) : List Byte := slice cfg (0x100 + 64 * c) 64

/-- Receive binding i. -/
def cfgRx (cfg : List Byte) (i : Nat) : List Byte := slice cfg (0x100 + 64 * cfgNch cfg + 16 * i) 16

/-- Multicast group i. -/
def cfgMc (cfg : List Byte) (i : Nat) : List Byte := slice cfg (0x100 + 64 * cfgNch cfg + 16 * cfgNrx cfg + 272 * i) 272

/-- R273: a channel table entry. -/
structure ChanRec where
  sq : Nat
  en : Bool
  kind : Nat
  nrecv : Nat
  ach : Nat
  dest : Nat
  rq : Nat
  recv : List Nat
  deriving DecidableEq, Repr

def parseChan (b : List Byte) : ChanRec :=
  let w := leAt b 0 8
  let v := leAt b 8 8
  { sq := bits w 0 7, en := bitOf w 7, kind := bits w 8 2, nrecv := bits w 10 5, ach := bits w 16 16, dest := bits v 0 17,
    rq := bits v 24 7, recv := (List.range 16).map fun i => leAt b (0x10 + 2 * i) 2 }

/-- The channel entries of a die of an image. -/
def imgChans (img : List Byte) (die : Nat) : List ChanRec :=
  let cfg := imgConfig img die
  (List.range (cfgNch cfg)).map fun c => parseChan (cfgChan cfg c)

/-- R338: a receive binding: sender, Acxia channel, queue. -/
def imgRx (img : List Byte) (die : Nat) : List (Nat × Nat × Nat) :=
  let cfg := imgConfig img die
  (List.range (cfgNrx cfg)).map fun i =>
    let w := leAt (cfgRx cfg i) 0 8
    (bits w 0 17, bits w 32 16, bits w 48 7)

/-- R341: a multicast group: its number and its members. -/
def imgMcast (img : List Byte) (die : Nat) : List (Nat × List Nat) :=
  let cfg := imgConfig img die
  (List.range (cfgNmc cfg)).map fun i =>
    let b := cfgMc cfg i
    (leAt b 0 1, (List.range (bits (leAt b 0 2) 8 7)).map fun k => bits (leAt b (0x10 + 4 * k) 4) 0 17)

/-! ### Queues (R227, R265) -/

/-- R227: a queue record. -/
structure QRec where
  cap : Nat
  writer : Nat
  reader : Nat
  chan : Bool
  deriving DecidableEq, Repr

def imgQueue (img : List Byte) (die q : Nat) : QRec :=
  let w := leAt (imgOne img Sec.QUEUES die 0) (8 * q) 8
  { cap := bits w 0 10, writer := bits w 16 8, reader := bits w 24 8, chan := bitOf w 32 }

/-- R265: a queue as the loader sets it at job start: empty, both ends open, its counts zero. -/
def State.configQueue (s : State) (d q : Nat) (r : QRec) : State :=
  let fs : List (Fld × Nat) := [
    (R.QCH_QCFG_CAP d q, r.cap), (R.QCH_QCFG_CHAN d q, b2n r.chan), (R.QCH_QCFG_WRITER d q, r.writer),
    (R.QCH_QCFG_READER d q, r.reader), (R.QCH_QSTAT_COUNT d q, 0), (R.QCH_QSTAT_CAP d q, r.cap),
    (R.QCH_QSTAT_CHAN d q, b2n r.chan), (R.QCH_QSTAT_WCLOSED d q, 0), (R.QCH_QSTAT_RCLOSED d q, 0),
    (R.QCH_QSTAT_PEER_CLOSED d q, 0), (R.QCH_QSTAT_STALLED d q, 0), (R.QCH_QSTAT_PUSHED d q, 0),
    (R.QCH_QSTAT_DISCARDED d q, 0)]
  fs.foldl (fun t p => t.wr p.1 p.2) (s.updDie d fun x => { x with queues := mapDel x.queues q })

/-- A receiver field of a channel entry. -/
def recvFld (d c i : Nat) : Fld :=
  match i % 4 with
  | 0 => R.QCH_CHRECV_RECV0 d c (i / 4)
  | 1 => R.QCH_CHRECV_RECV1 d c (i / 4)
  | 2 => R.QCH_CHRECV_RECV2 d c (i / 4)
  | _ => R.QCH_CHRECV_RECV3 d c (i / 4)

/-- R273: a channel entry as the loader sets it. -/
def State.configChan (s : State) (d c : Nat) (r : ChanRec) : State :=
  let fs : List (Fld × Nat) := [
    (R.QCH_CHTAB0_SQ d c, r.sq), (R.QCH_CHTAB0_EN d c, b2n r.en), (R.QCH_CHTAB0_KIND d c, r.kind),
    (R.QCH_CHTAB0_NRECV d c, r.nrecv), (R.QCH_CHTAB0_ACH d c, r.ach), (R.QCH_CHTAB1_DEST d c, r.dest),
    (R.QCH_CHTAB1_RQ d c, r.rq)] ++ (List.range 16).map fun i => (recvFld d c i, r.recv.getD i 0)
  fs.foldl (fun t p => t.wr p.1 p.2) s

/-! ### CONFIG and BASIL_SHAPE (R100, R220) -/

/-- R220: a stall limit: 0 gives the reset value (DEDUCED, log 65), and less than 10 µs holds 10. -/
def State.putLimit (s : State) (f : Fld) (v : Nat) : State := s.wr f (if v = 0 then f.rst else max 10 v)

/-- R100: the shape that the loader writes: that of the first Basil operation of the die's issue list (DEDUCED, log
66). -/
def State.putShape (s : State) (d : Nat) (img : List Byte) (die : Nat) : State :=
  if issueCount img die 0 = 0 then s
  else
    let w := leAt (issueRecord img die 0 0) 0 16
    ((s.wr (R.BASIL_SHAPE_TK d) (bits w 112 3)).wr (R.BASIL_SHAPE_TN d) (bits w 115 3)).wr (R.BASIL_SHAPE_QUAD d) (bits w 118 1)

/-- R220, R235 step 2: the registers of physical die d set from the sections of logical die i. -/
def State.configDie (s : State) (d : Nat) (img : List Byte) (i : Nat) : State :=
  let cfg := imgConfig img i
  let w := leAt cfg 0 8
  let fs : List (Fld × Nat) := [
    (R.STRM_GROUP_LVL_B d, bits w 0 1), (R.STRM_GROUP_LVL_M d, bits w 1 1), (R.STRM_GROUP_LVL_P d, bits w 2 1),
    (R.STRM_GROUP_OWN_B d, bits w 4 3), (R.STRM_GROUP_OWN_M d, bits w 7 3), (R.STRM_GROUP_OWN_T d, bits w 10 3),
    (R.PARS_OWNER_CORE d, bits w 13 3), (R.BASIL_CFG_OPEN_EN d, bits w 16 1), (R.PARS_CFG_OPEN_EN d, bits w 17 1),
    (R.TARR_CFG_PROBE_EN d, bits w 18 1), (R.BASIL_WINMAP0_MAP d, leAt cfg 8 8), (R.BASIL_WINMAP1_MAP d, leAt cfg 0x10 8)]
  let limits : List (Fld × Nat) := [
    (R.BASIL_STALL_LIMIT_LIMIT_US d, 0x18), (R.MINT_STALL_LIMIT_LIMIT_US d, 0x1C), (R.PARS_STALL_LIMIT_LIMIT_US d, 0x20),
    (R.DILL_STALL_LIMIT_LIMIT_US d, 0x24), (R.TARR_STALL_LIMIT_LIMIT_US d, 0x28), (R.STRM_STALL_LIMIT_LIMIT_US d, 0x2C),
    (R.QCH_STALL_LIMIT_LIMIT_US d, 0x30), (R.QCH_FSTALL_LIMIT_LIMIT_US d, 0x34)]
  let s1 := fs.foldl (fun t p => t.wr p.1 p.2) s
  let s2 := limits.foldl (fun t p => t.putLimit p.1 (leAt cfg p.2 4)) s1
  let s3 := (List.range 128).foldl (fun t q => t.configQueue d q (imgQueue img i q)) s2
  let none' : ChanRec := parseChan (zeros 64)
  let s4 := (List.range 32).foldl (fun t c => t.configChan d c ((imgChans img i).getD c none')) s3
  s4.putShape d img i

end Sys2Proof.Machine
end

