-- ==== Sys2Proof/Machine/VerifyForm.lean ====
section
/-! DEFINITION. The verifier's checks on an image's form (R213–R221, R224 checks 1, 2 and 7, R226, R481): sections,
layouts and encodings. Each check gives the image offset of the first item that breaks it. -/

namespace Sys2Proof.Machine

/-- The first item of a list of offsets and verdicts that fails. -/
def firstBad : List (Nat × Bool) → Option Nat
  | [] => none
  | (o, ok) :: xs => if ok then firstBad xs else some o

/-! ### The header and the section table (R213, R214) -/

/-- R213: the header's own fields; BYTES equals the length that the LOAD entry gives. -/
def headerOk (img : List Byte) (len : Nat) : Bool :=
  let w := leAt img 0x38 8
  decide (0x80 ≤ img.length) && leAt img 0 4 = 0x31584649 && leAt img 4 2 = 1 && 1 ≤ leAt img 6 2 && leAt img 6 2 ≤ 64 &&
    leAt img 8 8 = len && img.length = len && len % 64 = 0 && decide (len ≤ 2 ^ 28) && 1 ≤ imgDies img && imgDies img ≤ 8 &&
    bits w 4 4 ≤ 2 && bits w 8 8 ≤ 64 && bits w 22 10 = 0 && allZero (slice img 0x48 56) &&
    decide (0x80 + 16 * leAt img 6 2 ≤ len)

/-- R214: the scope of a section type: the part, a die, a core, a group or a context. -/
def sectScopeOk (t : Sect) (dies : Nat) : Bool :=
  let whole := [Sec.CHAINS, Sec.INPUTS, Sec.RELOC, Sec.GRAPH, Sec.MANIFEST, Sec.WATCH].contains t.type
  let subMax := if t.type = Sec.CODE || t.type = Sec.DATA then 6 else if t.type = Sec.ISSUE then 3 else if t.type = Sec.KEYORDER then 1 else 0
  1 ≤ t.type && t.type ≤ 16 && t.rsv = 0 && t.off % 64 = 0 && t.sub ≤ subMax &&
    (if whole then t.die = wholePart else t.die < dies)

/-- Two sections share no byte. -/
def Sect.apart (a b : Sect) : Bool := a.len = 0 || b.len = 0 || decide (a.off + a.len ≤ b.off) || decide (b.off + b.len ≤ a.off)

/-- R214: a core that the image uses. -/
def coreUsed (img : List Byte) (die c : Nat) : Bool := imgHas img Sec.CODE die c

/-- R214: a group that the image uses. -/
def groupUsed (img : List Byte) (die g : Nat) : Bool := (imgGraph img).any fun r => r.kind = 1 && r.die = die && r.group = g

/-- R214: a key context that the image uses. -/
def ctxUsed (img : List Byte) (die x : Nat) : Bool :=
  (imgGraph img).any fun r => r.kind = 1 && r.die = die && (if x = 0 then r.opc = 0x04 else r.opc = 0x41 || r.opc = 0x42)

/-- R200, R214: a group at macro level. -/
def groupMacro (img : List Byte) (die g : Nat) : Bool := cfgLevel (imgConfig img die) g = 0

/-- R214: the counts of sections that the image's use of dies, cores, groups and contexts requires. -/
def countsOk (img : List Byte) : Bool :=
  let n (ty die sub : Nat) : Nat := (imgAll img ty die sub).length
  let one (ty die sub : Nat) (used : Bool) : Bool := n ty die sub = b2n used
  let dies := List.range (imgDies img)
  [Sec.CHAINS, Sec.INPUTS, Sec.RELOC, Sec.GRAPH, Sec.WATCH].all (fun t => one t wholePart 0 true) &&
    dies.all fun i =>
      [Sec.BUFFERS, Sec.STREAMS, Sec.QUEUES, Sec.CONFIG, Sec.STARTS].all (fun t => one t i 0 true) &&
      (List.range 7).all (fun c => one Sec.DATA i c (coreUsed img i c)) &&
      (List.range 4).all (fun g => one Sec.ISSUE i g (groupUsed img i g && groupMacro img i g) &&
        (!groupUsed img i g || coreUsed img i (cfgOwner (imgConfig img i) g) || cfgOwner (imgConfig img i) g = 7)) &&
      (List.range 2).all fun x => one Sec.KEYORDER i x (ctxUsed img i x)

/-! ### The layout of each section -/

/-- R217: an input declaration at its index. -/
def inputDeclOk (b : List Byte) (i : Nat) : Bool :=
  let w := leAt b 0 8
  let v := leAt b 8 8
  let ty := bits w 16 8
  let ct := ty = 1 || ty = 2 || ty = 3
  let f (lo n : Nat) : Nat := bits w lo n
  bits w 0 16 = i && f 30 2 = 0 && f 37 3 = 0 && f 55 1 = 0 && f 61 3 = 0 && bits v 14 50 = 0 && allZero (slice b 0x20 32) &&
    (if ct then
      (f 24 4 = 1 || f 24 4 = 2) && f 28 2 ≤ 1 && f 40 8 ≤ 63 && 1 ≤ f 48 7 && (if ty = 2 then bits v 0 4 = 1 else bits v 0 4 = 2 || bits v 0 4 = 3) &&
        bits v 4 9 = 0 && allZero (slice b 0x10 16) && (bits v 13 1 = 0 || ty = 1)
     else ty = 0x10 && f 24 6 = 0 && f 32 5 = 0 && f 48 7 = 0 && f 56 5 = 0 && bits v 0 4 = 0 && bits v 13 1 = 0 &&
        (if bitOf v 7 then bits v 4 3 = 0 && bits v 8 3 = 0 && f 40 8 ≤ 63 else fmtOk (bits v 4 3) (bits v 8 3) && f 40 8 = 0) &&
        (List.range 4).all fun k => 1 ≤ leAt b (0x10 + 4 * k) 4 && (k ≤ bits v 11 2 || leAt b (0x10 + 4 * k) 4 = 1))

/-- R217: a key requirement. -/
def kreqOk (b : List Byte) (nin : Nat) : Bool :=
  let v := leAt b 8 8
  let k := leAt b 0x18 2
  bits v 4 4 = 0 && bits v 13 3 = 0 && bits v 31 1 = 0 && bits v 39 25 = 0 && bits (leAt b 0x10 8) 40 24 = 0 &&
    bits (leAt b 0x18 8) 16 48 = 0 && (if leAt b 0 8 = 0 then k < nin else k = 0xFFFF)

/-- R218: profile items nest at most four deep with every start matched; `kind` is the record's RKIND: only a queue
declaration holds barriers. -/
def profItemsOk (kind : Nat) : List Nat → Nat → Bool
  | [], depth => depth = 0
  | it :: its, depth =>
    let n := bits it 32 32
    bits it 12 20 = 0 &&
      match bits it 9 3 with
      | 0 => 1 ≤ n && profItemsOk kind its depth
      | 1 => 1 ≤ n && depth < 4 && profItemsOk kind its (depth + 1)
      | 2 => n = 0 && 1 ≤ depth && profItemsOk kind its (depth - 1)
      | 3 => n = 0 && kind = 2 && profItemsOk kind its depth
      | _ => false

/-- R218: a record of the graph. -/
def graphRecOk (dies : Nat) (g : GRec) : Bool :=
  (g.kind = 1 || (g.kind = 2 && g.site = 0 && g.opc = 0 && g.opnds.isEmpty)) && g.die < dies &&
    g.opnds.all (fun it => bits it 0 4 ≤ 8 && bits it 4 4 ≤ 2 && bits it 16 16 = 0 &&
      (if bits it 4 4 = 1 then bits it 8 8 ≤ 1 else bits it 8 8 = 0)) &&
    profItemsOk g.kind g.prof 0

/-- R218: the bytes that the records of a GRAPH section take, if its reserved fields are zero (fuel: the bytes). -/
def graphBytesF : Nat → List Byte → Nat
  | 0, _ => 0
  | f + 1, bs =>
    if bs.length < 16 || bits (leAt bs 4 4) 22 10 != 0 || leAt bs 0xC 4 != 0 then 0
    else
      let n := 16 + 8 * (leAt bs 8 2 + leAt bs 10 2)
      if bs.length < n then 0 else n + graphBytesF f (bs.drop n)

/-- Numbers in ascending order. -/
def ascending : List Nat → Bool
  | x :: y :: xs => decide (x ≤ y) && ascending (y :: xs)
  | _ => true

/-- R218: a GRAPH section: records of operations in ascending site order, then one queue declaration for each fine-level
group of each die. -/
def graphOk (img : List Byte) (bs : List Byte) : Bool :=
  let gs := imgGraph img
  let ops := gs.takeWhile (·.kind = 1)
  let decls := gs.drop ops.length
  graphBytesF (bs.length / 16) bs = bs.length && gs.all (graphRecOk (imgDies img)) && decls.all (·.kind = 2) &&
    ascending (ops.map (·.site)) &&
    (List.range (imgDies img)).all fun i => (List.range 4).all fun g =>
      ((decls.filter fun (r : GRec) => r.die = i && r.group = g).length) = b2n (!groupMacro img i g)

/-- R356: the bytes that manifest records take, where each is laid out as the rule says (fuel: the bytes). -/
def manifestBytesF : Nat → List Byte → Nat
  | 0, _ => 0
  | f + 1, bs =>
    let n := leAt bs 0xC 4
    let sz := ceilDiv (16 + 4 * n) 16 * 16
    if bs.length < 16 || bits (leAt bs 0 4) 21 11 != 0 || n = 0 || 1024 < n || decide (bs.length < sz) ||
      !allZero (slice bs (16 + 4 * n) (sz - 16 - 4 * n)) then 0
    else sz + manifestBytesF f (bs.drop sz)

/-- R219: a watch limit record. -/
def watchRecOk (r : List Byte) : Bool :=
  let k := leAt r 4 2
  let l := leAt r 8 8
  allZero (slice r 0x18 8) && bits (leAt r 6 2) 1 15 = 0 &&
    (if k = 1 then bits (leAt r 6 2) 0 1 = 0 else k = 2 && leAt r 0x10 8 = 0 && bits l 7 9 = 0)

/-- R220: a CONFIG section. -/
def configOk (cfg : List Byte) : Bool :=
  let nch := cfgNch cfg
  let w := leAt cfg 0x38 8
  cfg.length = 0x100 + 64 * nch + 16 * cfgNrx cfg + 272 * cfgNmc cfg && nch ≤ 32 && cfgNrx cfg ≤ 256 && cfgNmc cfg ≤ 256 &&
    bits (leAt cfg 0 8) 19 45 = 0 && !bitOf (leAt cfg 0 8) 3 && bits w 6 10 = 0 && bits w 25 7 = 0 && bits w 41 23 = 0 && allZero (slice cfg 0x40 192) &&
    (List.range nch).all (fun c =>
      let b := cfgChan cfg c
      bits (leAt b 0 8) 15 1 = 0 && bits (leAt b 0 8) 32 32 = 0 && bits (leAt b 8 8) 17 7 = 0 && bits (leAt b 8 8) 31 33 = 0 &&
        allZero (slice b 0x30 16)) &&
    (List.range (cfgNrx cfg)).all (fun i =>
      let b := cfgRx cfg i
      bits (leAt b 0 8) 17 15 = 0 && bits (leAt b 0 8) 55 9 = 0 && leAt b 8 8 = 0) &&
    (List.range (cfgNmc cfg)).all fun i =>
      let b := cfgMc cfg i
      let n := bits (leAt b 0 2) 8 7
      bits (leAt b 0 2) 15 1 = 0 && allZero (slice b 2 14) && 1 ≤ n && n ≤ 64 &&
        (List.range 64).all fun k =>
          let m := leAt b (0x10 + 4 * k) 4
          if k < n then bits m 17 14 = 0 && bitOf m 31 else m = 0

/-- R481: a STARTS section. -/
def startsOk (bs : List Byte) : Bool :=
  decide (128 ≤ bs.length) && bs.length % 4 = 0 &&
    (List.range 16).all fun u =>
      let off := leAt bs (8 * u) 4
      let n := leAt bs (8 * u + 4) 4
      (n = 0 || (128 ≤ off && off % 4 = 0 && decide (off + 4 * n ≤ bs.length))) &&
        (List.range (min n bs.length)).all fun i =>
          let e := leAt bs (off + 4 * i) 4
          e = 0xFFFF_FFFF || e < 2 ^ 16

/-- R227, R265: a queue record. -/
def queueRecOk (b : List Byte) : Bool :=
  let w := leAt b 0 8
  let endOk (x : Nat) : Bool := x < 4 || (0x10 ≤ x && x < 0x20) || x = 0x30 || x = 0xFF
  bits w 10 6 = 0 && bits w 33 31 = 0 && endOk (bits w 16 8) && endOk (bits w 24 8)

/-- R221: a CONST section: header and table. -/
def constOk (b : List Byte) : Bool :=
  let w := leAt b 0 8
  let n := leAt b 0x10 8
  let k := leAt b 0x18 8
  let A := bits k 8 9
  let U := bits k 24 7
  decide (64 ≤ b.length) && b.length = 64 + n && n % 64 = 0 && 1 ≤ bits w 0 8 && bits w 0 8 ≤ 5 && bits w 8 8 = 0 && bits w 32 32 = 0 &&
    allZero (slice b 0x20 32) && bits k 17 7 = 0 && bits k 31 33 = 0 &&
    (if bits w 0 8 = 1 then 1 ≤ A && A ≤ 256 && 1 ≤ U && U ≤ 112 && n = ceilDiv (4 * (A + U * A) + A + U) 64 * 64
     else A = 0 && U = 0) &&
    (if bits w 0 8 = 2 then 12 ≤ bits k 0 8 && bits k 0 8 ≤ 18 && n = 4 * 2 ^ bits k 0 8 else bits w 0 8 = 1 || bits k 0 8 = 0)

/-- R224 check 1: one section is laid out as its rule gives. -/
def sectLayoutOk (img : List Byte) (t : Sect) : Bool :=
  let bs := t.bytes img
  match t.type with
  | 1 => sumN ((imgChains img).map (·.length)) = bs.length && (imgChains img).all fun c => c.length = chainBytes (bits (leAt c 0 8) 16 7 + bits (leAt c 0 8) 24 5)
  | 2 =>
    let nin := imgNin img
    1 ≤ nin && nin ≤ 248 && imgNkreq img ≤ 4096 && leAt bs 4 4 = 0 && leAt bs 8 8 = 0 && bs.length = 16 + 64 * nin + 32 * imgNkreq img &&
      (List.range nin).all (fun i => inputDeclOk (imgInput img i) i) && (List.range (imgNkreq img)).all fun i => kreqOk (imgKreq img i) nin
  | 3 => bs.length % 16 = 0 && (chunks 16 bs).all fun b => bits (leAt b 0 8) 32 32 = 0
  | 4 => bs.length % 8 = 0 && (chunks 8 bs).all fun b =>
      leAt b 1 1 = 0 && decide (leAt b 0 1 < leAt img 6 2) && decide (bits (leAt b 0 8) 16 48 + 2 ≤ (imgEntry img (leAt b 0 1)).len)
  | 6 => decide (bs.length ≤ 2 ^ 18)
  | 7 => bs.length % 48 = 0
  | 8 => bs.length % 64 = 0
  | 9 => bs.length % 16 = 0 && (chunks 16 bs).all fun b =>
      bits (leAt b 0 8) 53 3 = 0 && bits (leAt b 0 8) 63 1 = 0 && bits (leAt b 8 8) 4 60 = 0
  | 10 => bs.length = 1024 && (chunks 8 bs).all queueRecOk
  | 11 => constOk bs
  | 12 => graphOk img bs
  | 13 => bs.length % 16 = 0 && manifestBytesF (bs.length / 16) bs = bs.length
  | 14 => bs.length % 32 = 0 && (chunks 32 bs).all watchRecOk && ascending ((chunks 32 bs).map fun r => leAt r 0 4)
  | 15 => configOk bs
  | 16 => startsOk bs
  | _ => true

/-- R224 check 1. The offset is 0 for the header, that of its table entry for a section's place, and that of the section
for its layout (DEDUCED, log 67). -/
def checkFormat (img : List Byte) (len : Nat) : Option Nat :=
  let ts := imgSects img
  let ix := List.range ts.length
  if !headerOk img len then some 0
  else
    let place := ix.map fun i =>
      let t := imgEntry img i
      (0x80 + 16 * i, sectScopeOk t (imgDies img) && decide (t.off + t.len ≤ len) &&
        ix.all fun j => j ≤ i || t.apart (imgEntry img j))
    match firstBad place with
    | some o => some o
    | none => if countsOk img then firstBad (ts.map fun t => (t.off, sectLayoutOk img t)) else some 0x80

/-- R224 check 2. -/
def checkDigest (img : List Byte) : Option Nat := if sha256 (img.drop 0x30) = imgDigest img then none else some 0x10

/-! ### Macro operations of the issue lists (R190, R193, R226) -/

/-- An operation of an issue list: logical die, group, its number in the list, and the image offset of its record. -/
structure VOp where
  die : Nat
  group : Nat
  idx : Nat
  off : Nat
  op : Issued
  deriving DecidableEq, Repr

/-- The image offset of an issue list. -/
def issueOff (img : List Byte) (die g : Nat) : Nat :=
  (((imgSects img).find? fun t => t.type = Sec.ISSUE && t.die = die && t.sub = g).map (·.off)).getD 0

/-- R195: the GEMM block that an operation names in the data memory that its owner starts with. -/
def gemmBlockOf (img : List Byte) (die g a : Nat) : List Byte :=
  fit 64 ((imgOne img Sec.DATA die (cfgOwner (imgConfig img die) g)).drop a)

/-- Record k of an issue list as an operation. -/
def imgOp (img : List Byte) (die g k : Nat) : VOp :=
  let r := issueRecord img die g k
  let pb := r.drop 16
  let w := leAt r 0 16
  { die := die, group := g, idx := k, off := issueOff img die g + 48 * k,
    op := { ticket := 0, fine := false, word := w, pblock := pb,
            gblock := if bits w 0 8 = 0x05 then gemmBlockOf img die g (leAt pb 0x18 4) else [],
            k1 := [], k2 := [], epochs := [], site := bits w 64 32, core := cfgOwner (imgConfig img die) g } }

/-- The operations of one issue list, in order. -/
def imgList (img : List Byte) (die g : Nat) : List VOp := (List.range (issueCount img die g)).map (imgOp img die g)

/-- The records of the graph, each with its offset in the section. -/
def graphAt (img : List Byte) : List (Nat × GRec) :=
  let gs := imgGraph img
  (List.range gs.length).map fun k =>
    (sumN ((gs.take k).map fun r => 16 + 8 * (r.opnds.length + r.prof.length)),
      gs.getD k { site := 0, kind := 0, opc := 0, die := 0, group := 0, opnds := [], prof := [] })

/-- R200, R225: the operation records of the fine-level groups, each with its offset in the section. -/
def fineRecs (img : List Byte) : List (Nat × GRec) :=
  (graphAt img).filter fun p => p.2.kind = 1 && !groupMacro img p.2.die p.2.group

/-- R193, R198, R225: the operation code of a fine-level group's record is one of the group's, macro or fine. -/
def GRec.codeOk (g : GRec) : Bool :=
  (specOf g.opc).map (·.group) = some g.group ||
    (if g.opc = 0x50 || g.opc = 0x51 || g.opc = 0x52 then g.group ≤ 2
     else if g.opc = 0x08 || g.opc = 0x09 || g.opc = 0x0A then g.group = 0
     else g.opc = 0x12 && g.group = 1)

/-- Every operation of the issue lists, by die and group. -/
def imgOps (img : List Byte) : List VOp :=
  (List.range (imgDies img)).flatMap fun i => (List.range 4).flatMap fun g => imgList img i g

/-- R193: the queue fields that an operation uses, bit i for Qi; the optional ones of a second mask may be used. -/
def qvMask (op : Issued) : Nat × Nat :=
  match op.opc with
  | 0x04 => (0b11001, 0)
  | 0x05 => (0b01011, if op.gb.epi then 0b00100 else 0)
  | 0x06 => (0, 0)
  | 0x07 => (0, 0)
  | 0x20 => (0b01001, 0b00010)
  | 0x21 => (0b01001, 0b00010)
  | 0x23 => (0b01001, 0b00010)
  | 0x24 => (0b01001, 0b00110)
  | 0x28 => (0b01011, 0)
  | 0x29 => (0b01011, 0)
  | 0x2A => (0b01011, 0)
  | 0x2B => (0b01011, 0)
  | 0x2D => (0b01011, 0)
  | 0x31 => (0b01011, 0)
  | 0x32 => (0b11011, 0)
  | 0x33 => (0b11011, 0)
  | 0x38 => (0b01001, 0b00010)
  | 0x39 => (0b01001, 0b00010)
  | 0x3A => (0b01001, 0b00010)
  | 0x3B => (0b01001, 0b00110)
  | 0x3C => (0b01001, 0b00010)
  | 0x3D => (0b01001, 0b00010)
  | 0x44 => (0b00001, 0)
  | _ => (0b01001, 0)

/-- R193: the bits of ARG0, ARG1 and ARG2 that an operation uses, as low and width. -/
def argFields (op : Issued) : List (List (Nat × Nat)) :=
  let all : List (Nat × Nat) := [(0, 32)]
  match op.opc with
  | 0x01 => [[(0, 16)], [(0, 24)], [(0, 7), (8, 7), (16, 7), (24, 5)]]
  | 0x02 => [[(0, 16)], [(0, 24)], [(0, 7), (8, 7), (16, 7), (24, 5)]]
  | 0x03 => [all, [(0, 22)], all]
  | 0x04 => [[(0, 4)], [], []]
  | 0x05 => [all, all, []]
  | 0x06 => [[(0, 16)], all, []]
  | 0x07 => [all, [(0, 16)], []]
  | 0x10 => [all, [], []]
  | 0x11 => [[(0, 16)], [], []]
  | 0x2C => [[(0, 10)], [], []]
  | 0x30 => [[(0, 1)], [], []]
  | 0x31 => [[(0, 1)], [], []]
  | 0x32 => [[(0, 6)], all, []]
  | 0x33 => [[(0, 16)], [], []]
  | 0x34 => [[(0, 7), (16, 16)], all, all]
  | 0x3E => [[(0, 6)], all, []]
  | 0x3F => [[(0, 1)], all, all]
  | 0x40 => [all, [(0, 5)], all]
  | 0x41 => [[(0, 2)], [], []]
  | 0x42 => [all, all, all]
  | 0x43 => [[], [], []]
  | 0x44 => [[(0, 15), (16, 16)], [], []]
  | k =>
    if 0x20 ≤ k && k ≤ 0x24 then [[(0, 16)], all, [(0, 6), (8, 7)]]
    else if 0x38 ≤ k && k ≤ 0x3D then [[(0, 16)], all, [(0, 3)]]
    else [[], [], []]

/-- A word has no bit outside its fields. -/
def onlyFields (w : Nat) (fs : List (Nat × Nat)) : Bool := w = sumN (fs.map fun p => bits w p.1 p.2 * 2 ^ p.1)

/-- R124, R193: the operand kinds of an operation. -/
def kindsOk (op : Issued) : Bool :=
  let n := if op.opc = 0x22 then 0 else if op.opc = 0x24 || op.opc = 0x3B then 2 else 1
  let limb := op.opc < 0x38
  let one (i : Nat) : Bool :=
    if n < i then op.kind i = 0 && op.reg i = 0 && !op.qv i
    else match op.kind i with
      | 0 => op.reg i = 0 && (op.qv i || op.opc = 0x2C)
      | 1 => op.reg i < 32 && !op.qv i
      | 2 => limb && op.reg i < 32 && !op.qv i
      | _ => op.reg i < 48 && !op.qv i
  let has := (0x20 ≤ op.opc && op.opc ≤ 0x24) || op.opc = 0x2C || (0x38 ≤ op.opc && op.opc ≤ 0x3D)
  !has || (one 1 && one 2)

/-- R190: LEDG of an operation of the issue lists: by its transaction's place, or its table row's primitive. -/
def ledgForm (op : Issued) : Bool :=
  let limbForm := (op.opc = 0x01 || op.opc = 0x02) && op.limbForm
  let own : List Nat := match op.opc with
    | 0x01 => [if limbForm then 0 else 1]
    | 0x02 => [if limbForm then 0 else 1]
    | 0x05 => [if op.opn then 0 else 3]
    | 0x10 => [1]
    | 0x11 => [0, 1]
    | 0x28 => [2]
    | 0x29 => [2]
    | 0x2A => [1]
    | 0x2B => [3]
    | 0x2C => [3]
    | 0x2D => [4]
    | 0x33 => [5]
    | 0x34 => [7]
    | 0x40 => [1]
    | 0x41 => [5]
    | 0x42 => [7]
    | 0x43 => [1]
    | 0x44 => [1]
    | _ => [0]
  match op.txn with
  | 0 => own.contains op.ledg
  | 3 => if op.opc = 0x31 then op.ledg = 6 else op.ledg = 5
  | _ => op.ledg = 0

/-- R194: the format and block codes of an operation. -/
def formatsOk (op : Issued) : Bool :=
  match op.opc with
  | 0x05 => !op.opn || (fmtOk op.gb.fa op.gb.blk && fmtOk op.gb.fb op.gb.blk && op.gb.fc ≤ 6)
  | 0x32 => fmtOk op.cFmt op.cBlk
  | 0x3E => fmtOk op.cFmt op.cBlk
  | k => if 0x38 ≤ k && k ≤ 0x3D then op.fFmt ≤ 1 else true

/-- R224 check 7: one operation's encoding. -/
def VOp.encodingOk (v : VOp) : Bool :=
  let op := v.op
  let grp (k : Nat) : Option Nat := (specOf k).map (·.group)
  let (must, may) := qvMask op
  grp op.opc = some v.group && wordOk op && ledgForm op && formatsOk op && kindsOk op &&
    (List.range 5).all (fun i => if bitOf must i then op.qv i else bitOf may i || !op.qv i) &&
    (List.range 3).all (fun i => onlyFields (op.arg i) ((argFields op).getD i [])) &&
    (op.opc != 0x05 || !op.gb.rsv) && refOk (op.din 0) true && refOk (op.din 1) true && refOk (op.dout 0) false && refOk (op.dout 1) false

end Sys2Proof.Machine
end

