-- ==== Sys2Proof/Machine/Admit.lean ====
section
/-! DEFINITION. Admission (R235 step 1, R311–R313, R317, R409–R412): the checks that a JOB must pass, the decision, and the
rows JOB, ADMIT_LATE, ENTRY_FETCH_TIMEOUT and ABORT. -/

namespace Sys2Proof.Machine

/-! ### The entry and its argument block (R311, R312) -/

/-- An argument block's fields: digest, seed, and for each input its reference, declaration and key set. -/
structure JobArgs where
  digest : List Byte
  seed : List Byte
  inputs : List (Nat × Nat × Nat)
  deriving DecidableEq, Repr

/-- R312: input entry i of a block. -/
def argInput (b : List Byte) (i : Nat) : Nat × Nat × Nat :=
  let o := 0x80 + 16 * i
  (leAt b o 4, leAt b (o + 4) 2, leAt b (o + 8) 8)

/-- R312: an argument block of a given length, where every field is as the rule has it. -/
def parseArgs (b : List Byte) (len : Nat) : Option JobArgs :=
  let nin := leAt b 0x40 2
  let ins := (List.range nin).map (argInput b)
  let ok := b.length = len && allZero (slice b 0x42 62) && decide (nin ≤ 248) && decide (0x80 + 16 * nin ≤ len) &&
    (List.range nin).all (fun i => leAt b (0x86 + 16 * i) 2 = 0) &&
    ins.all fun p => bits p.1 30 2 = 0 && refNamesSlot p.1
  if ok then some { digest := slice b 0 32, seed := slice b 0x20 32, inputs := ins } else none

/-- R311: a JOB entry's own fields. -/
def State.jobEntryOk (s : State) (e : Entry) : Bool :=
  s.entryOk e && e.kind = 1 && aligned64 (e.q 0x10) && aligned64 (e.q 0x20) && aligned64 (e.q 0x28) &&
    decide (64 ≤ e.q 0x18) && decide (e.q 0x18 ≤ 4096) && decide (e.q 0x30 < 2 ^ 32)

/-! ### Inputs (R35, R217, R353, R478) -/

/-- R217: a tensor descriptor equal to its declaration. -/
def tensorAs (b decl : List Byte) : Bool :=
  let t := parseT b
  let w := leAt decl 8 8
  t.fmt = bits w 4 3 && t.mod == bitOf w 7 && t.blk = bits w 8 3 && t.ndim = bits w 11 2 + 1 && t.n0 = leAt decl 0x10 4 &&
    t.n1 = leAt decl 0x14 4 && t.n2 = leAt decl 0x18 4 && t.n3 = leAt decl 0x1C 4

/-- R217: a ciphertext, plaintext or carry descriptor equal to its declaration. -/
def ringAs (x : Desc) (decl : List Byte) : Bool :=
  let w := leAt decl 0 8
  x.type = bits w 16 8 && x.scheme = bits w 24 4 && x.form = bits w 28 2 && x.logn = bits w 32 5 && x.chain = bits w 40 8 &&
    x.level = bits w 48 7 && x.gm1 = bits w 56 5 && x.polys = bits (leAt decl 8 8) 0 4

/-- R217: every member of an input is an ingested record. -/
def State.allRecords (s : State) (x : Desc) : Bool :=
  x.lineage != 0 && (List.range x.M).all fun m => (s.recRead (x.lineage + m)).cls = Cls.RECORD

/-- R35, R217, R353, R261: an input's 64 bytes accepted for a declaration and a key set. -/
def State.inputOk (s : State) (b decl : List Byte) (ks : Nat) : Bool :=
  if leAt decl 2 1 = 0x10 then s.tensorOk b && tensorAs b decl && !s.hStale (parseT b).handle
  else
    let x := parseDesc b
    s.descOk b && ringAs x decl && x.keyset = ks && (!x.isCt || s.boundAs x) && x.handles.all (fun h => !s.hStale h) &&
      (!bitOf (leAt decl 8 8) 13 || s.allRecords x)

/-- The data handles that an input descriptor names. -/
def dataHandles (b : List Byte) : List Nat := if leAt b 0 1 = 0x10 then [(parseT b).handle] else (parseDesc b).handles

/-! ### Key requirements (R216) -/

/-- R216: an installed key region whose header is the one that a requirement names, for a key set. -/
def State.keyMatches (s : State) (h : Nat) (req : List Byte) (ks : Nat) : Bool :=
  let k := parseHdr (s.peek h 0 64)
  let w := leAt req 8 8
  s.handleOk h && s.hAttr h Attr.KEY && k.keyset = ks && k.kind = bits w 0 4 && k.logn = bits w 8 5 && k.chain = bits w 16 8 &&
    k.lo = bits w 24 7 && k.hi = bits w 32 7 && k.param = leAt req 0x10 4

/-- R216: the key set that a requirement is matched against. -/
def reqKeyset (inputs : List (Nat × Nat × Nat)) (req : List Byte) : Nat :=
  let k := leAt req 0 8
  if k != 0 then k else (((inputs.find? fun p => p.2.1 = leAt req 0x18 2).map fun p => p.2.2)).getD 0

/-- R216, R150: the key region on a physical die that serves a requirement. -/
def State.keyFor (s : State) (d : Nat) (inputs : List (Nat × Nat × Nat)) (req : List Byte) : Option Nat :=
  (s.keyBodies.find? fun p => hDie p.1 = d && s.keyMatches p.1 req (reqKeyset inputs req)).map (·.1)

/-- R216: the key requirements that the key orders of a logical die name. -/
def imgKeyNeeds (img : List Byte) (i : Nat) : List Nat :=
  (((List.range 2).flatMap fun ctx => chunks 16 (imgOne img Sec.KEYORDER i ctx)).map fun e => leAt e 4 2).eraseDups

/-- R150, R216: every requirement has its region: on each die that its DIEMASK or a key order of the image names for it, and
somewhere in the job where nothing names one. -/
def State.keysThere (s : State) (img : List Byte) (dies : List Nat) (inputs : List (Nat × Nat × Nat)) : Bool :=
  (List.range (imgNkreq img)).all fun k =>
    let has (i : Nat) : Bool := (s.keyFor (dies.getD i 8) inputs (imgKreq img k)).isSome
    let needs := (List.range dies.length).filter fun i => bitOf (leAt (imgKreq img k) 0x14 1) i || (imgKeyNeeds img i).contains k
    if needs.isEmpty then (List.range dies.length).any has else needs.all has

/-- R140: the key regions that a job's key orders name: each entry's requirement on the die of its order. -/
def State.jobKeys (s : State) (j : Job) : List Nat :=
  let img := s.image j.slot
  (List.range j.dieMap.length).flatMap fun i =>
    (imgKeyNeeds img i).filterMap fun k => s.keyFor (j.dieMap.getD i 8) j.inputs (imgKreq img k)

/-! ### Channels (R274, R338, R341, R347) -/

/-- The channel entries in use of every die of an image, with the logical die. -/
def imgAllChans (img : List Byte) : List (Nat × ChanRec) :=
  (List.range (imgDies img)).flatMap fun i => ((imgChans img i).filter (·.en)).map fun c => (i, c)

/-- The receivers of a package channel, as logical die and queue. -/
def ChanRec.targets (c : ChanRec) : List (Nat × Nat) := (c.recv.take c.nrecv).map fun f => (bits f 8 3, bits f 0 7)

/-- R274: a receive slot's form. -/
def recvForm (f : Nat) : Bool := bits f 7 1 = 0 && bits f 11 5 = 0

/-- R274: one entry with EN set. -/
def chanEntryOk (img : List Byte) (i : Nat) (c : ChanRec) : Bool :=
  let q := imgQueue img i c.sq
  let rest := c.recv.drop c.nrecv
  q.chan && q.reader = 0x30 && c.kind != 3 &&
    (if c.kind = 0 then
      1 ≤ c.nrecv && c.nrecv ≤ 16 && rest.all (· = 0xFFFF) && (c.recv.take c.nrecv).all recvForm &&
        c.targets.all fun t => decide (t.1 < imgDies img) && (imgQueue img t.1 t.2).chan && (imgQueue img t.1 t.2).writer = 0x30
    else c.nrecv = 0 && c.recv.all (· = 0xFFFF))

/-- All values of a list of pairs differ. -/
def distinctPairs : List (Nat × Nat) → Bool
  | [] => true
  | x :: xs => !xs.contains x && distinctPairs xs

/-- The receive bindings of every die of an image: logical die, sender, Acxia channel, queue. -/
def imgAllRx (img : List Byte) : List (Nat × Nat × Nat × Nat) :=
  (List.range (imgDies img)).flatMap fun i => (imgRx img i).map fun b => (i, b.1, b.2.1, b.2.2)

/-- R274: every channel of an image. -/
def imgChannelsOk (img : List Byte) : Bool :=
  let cs := imgAllChans img
  cs.all (fun p => chanEntryOk img p.1 p.2) && distinctPairs (cs.map fun p => (p.1, p.2.sq)) &&
    distinctPairs ((cs.filter (·.2.kind = 0)).flatMap fun p => p.2.targets) &&
    !((cs.filter (·.2.kind = 0)).any fun p => p.2.targets.any fun r => (imgAllRx img).any fun x => (x.1, x.2.2.2) = r)

/-- R338: the receive bindings of an image. -/
def imgRxOk (img : List Byte) : Bool :=
  let rs := imgAllRx img
  rs.all (fun r => (imgQueue img r.1 r.2.2.2).chan && (imgQueue img r.1 r.2.2.2).writer = 0x30) &&
    distinctPairs (rs.map fun r => (r.2.1, r.2.2.1))

/-- The multicast groups of every die of an image. -/
def imgAllMcast (img : List Byte) : List (Nat × List Nat) := (List.range (imgDies img)).flatMap (imgMcast img)

/-- The members of the group that a multicast channel names. -/
def imgMembers (img : List Byte) (g : Nat) : List Nat := (((imgAllMcast img).find? (·.1 = g)).map (·.2)).getD []

/-- The members that a multicast group holds. -/
def State.mcastMembers (s : State) (g : Nat) : List Nat :=
  ((List.range 64).filter fun i => s.on (R.FAB_MCAST_V g i)).map fun i => s.rd (R.FAB_MCAST_EPID g i)

/-- R347: a multicast group is used by a running job. -/
def State.mcastInUse (s : State) (g : Nat) : Bool :=
  s.jobs.any fun j => j.phase == .running && ((imgAllMcast (s.image j.slot)).any (·.1 = g) ||
    (imgAllChans (s.image j.slot)).any fun p => p.2.kind = 2 && p.2.dest = g)

/-- R341, R347: the multicast groups of an image. -/
def State.imgMcastOk (s : State) (img : List Byte) : Bool :=
  ((imgAllChans img).all fun p => p.2.kind != 2 ||
      (decide (p.2.dest ≤ 255) && !(imgMembers img p.2.dest).isEmpty)) &&
    (imgAllMcast img).all fun g => !g.2.isEmpty && !g.2.contains (s.rd R.FAB_EPID_EPID) && decide (g.2.length ≤ 64) &&
      (!s.mcastInUse g.1 || s.mcastMembers g.1 == g.2)

/-! ### Manifests (R356) -/

/-- R356: the sites of CTADD operations in macro-level Parsley lists, with their logical die. -/
def addSites (img : List Byte) : List (Nat × Nat) :=
  (List.range (imgDies img)).flatMap fun i =>
    if groupMacro img i 2 then ((imgList img i 2).filter fun v => v.op.opc = 0x28).map fun v => (v.op.site, i) else []

/-- Sage's manifest slots that no manifest holds. -/
def State.freeMslots (s : State) : List Nat :=
  (List.range (s.rd R.SAGE_CAPS_MSLOTS)).filter fun k => !(s.sage.manifests.any fun m => m.mslot = k)

/-- R356: the manifests of an image. -/
def State.manifestsOk (s : State) (img : List Byte) : Bool :=
  let ms := imgManifests img
  let adds := addSites img
  let die (site : Nat) : Option Nat := (adds.find? (·.1 = site)).map (·.2)
  ms.all (fun m =>
    m.sums.all (fun x => (die x).isSome) && m.sums.all (fun x => die x == die (m.sums.headD 0)) && m.sums.contains m.close) &&
    allDistinct (ms.flatMap (·.sums)) && decide (ms.length ≤ s.freeMslots.length)

/-- R357: an image's manifests as Sage keeps them for a job. -/
def State.openManifests (s : State) (job : Nat) (img : List Byte) : State :=
  let free := s.freeMslots
  let ms := ((imgManifests img).zipIdx).map fun (p : MRec × Nat) =>
    ({ job := job, mslot := free.getD p.2 0, mno := p.1.mno, gm1 := p.1.gm1, nleaf := p.1.nleaf, close := p.1.close,
       sums := p.1.sums } : Manifest)
  s.updSage fun g => { g with manifests := g.manifests ++ ms }

/-! ### Replay (R462) -/

/-- The capture that RPL_ARM names. -/
def State.armed (s : State) : Option Capture :=
  if s.on R.RPL_ARM_EN then s.captures.find? fun c => c.job = s.rd R.RPL_ARM_JOBID else none

/-- R462: a descriptor with the fields left out that a replay may change. -/
def replayForm (b : List Byte) : List Byte :=
  if leAt b 0 1 = 0x10 then putAt b 4 (zeros 2) else putAt (putAt b 0x28 (zeros 6)) 0x20 (zeros 3)

/-- The bytes that each data handle of a descriptor must hold for the captured data. -/
def captureNeed (b : List Byte) : Nat :=
  if leAt b 0 1 = 0x10 then ((parseT b).interval.2 + 1).toNat else (parseDesc b).handleBytes

/-- R462: what a slot holds may be restored to. -/
def State.replaySlotOk (s : State) (b cap : List Byte) : Bool :=
  replayForm b == replayForm cap && (dataHandles b).all fun h =>
    s.handleOk h && s.rd (R.SPAD_HTAB0_ATTR (hDie h) (hIdx h)) = 2 ^ Attr.HOST && decide (captureNeed cap ≤ s.hLen h)

/-- R462: the arguments of a replay. -/
def replayArgsOk (c : Capture) (a : JobArgs) : Bool :=
  fit 32 c.digest == fit 32 a.digest && fit 32 c.seed == fit 32 a.seed &&
    c.inputs.map (fun p => p.2.1) == a.inputs.map fun p => p.2.1

/-! ### Step 1 (R235) -/

/-- R478: every input descriptor read and judged: the state after the reads, whether all are accepted, and the data
handles they name. `cap` holds the captured descriptors of a replay. -/
def State.checkInputs (s : State) (img : List Byte) (cap : Option Capture) (ins : List (Nat × Nat × Nat)) :
    State × Bool × List Nat :=
  (ins.zipIdx).foldl (fun (acc : State × Bool × List Nat) (q : (Nat × Nat × Nat) × Nat) =>
    let p := q.1
    if !acc.1.slotOk p.1 then (acc.1, false, acc.2.2)
    else
      let g := acc.1.readSlot p.1 { mid := 2 }
      let b := fit 64 g.bytes
      let ok := !g.ue && (match cap with
        | some c => g.st.replaySlotOk b (((c.objs[q.2]?).map (·.1)).getD [])
        | none => g.st.inputOk b (imgInput img p.2.1) p.2.2)
      (g.st, acc.2.1 && ok, acc.2.2 ++ refHandle p.1 :: dataHandles b)) (s, true, [])
/-- R75: a watch area is long enough for an image. -/
def watchFits (img : List Byte) (len : Nat) : Bool :=
  decide (32 * ((imgOne img Sec.WATCH wholePart 0).length / 32) ≤ len)

/-- R235 step 1, without the input descriptors: slot and digest (R222, R314), capabilities (R223), Sage's table (R348,
R369), the inputs named once (R312), keys (R216), channels, watches (R75) and manifests. -/
def State.imageOk (s : State) (e : Entry) (a : JobArgs) : Bool :=
  let img := s.image e.slot
  let dies := mapGet [] s.slotDies e.slot
  (mapFind s.images e.slot).isSome && !(s.landings.any fun l => l.slot = e.slot) && imgDigest img == fit 32 a.digest &&
    s.capsMet img dies && s.storeThere && s.on R.SAGE_CFG_ENABLE && a.inputs.length = imgNin img &&
    (List.range (imgNin img)).all (fun i => (a.inputs.filter fun p => p.2.1 = i).length = 1) &&
    watchFits img (e.q 0x30) && s.keysThere img dies a.inputs && imgChannelsOk img && imgRxOk img && s.imgMcastOk img &&
    s.manifestsOk img

/-! ### Answers (R317, R318) -/

/-- A JOB refused: an event where the code is one (R452), ADM_LAST, the replay arm's end (R462), and the answer. -/
def State.refuseJob (s : State) (e : Entry) (code unit door : Nat) (event : Bool) : State :=
  let s1 : State := if event then s.raise { code := code, unit := unit, detail := e.tag * 2 ^ 32 } else s
  let s2 := (s1.wr R.ADM_LAST_CODE code).wr R.ADM_LAST_TAG e.tag
  let s3 : State := if s2.on R.RPL_ARM_EN then
      ((s2.wr R.RPL_ARM_EN 0).wr R.RPL_STATUS_ARMED 0).wr R.RPL_STATUS_CODE code
    else s2
  s3.post e.ring e.tag 1 e.sqHead { stage := 0, code := code, result := s.time - door }

/-- R409: the computed start and finish of a job on its dies, from its doorbell time. -/
def State.finishOf (s : State) (dies : List Nat) (door cpSteps : Nat) : Nat :=
  let start := dies.foldl (fun (t : Nat) d => max t (max (s.rd (R.ADM_HORIZON_TIME d)) door + s.gapNs d)) door
  start + floorNs cpSteps + floorNs 65536

/-- R219: the watches of an image, in ascending site order. -/
def imgWatches (img : List Byte) : List Watch :=
  (chunks 32 (imgOne img Sec.WATCH wholePart 0)).map fun r =>
    { site := leAt r 0 4, kind := leAt r 4 2, fields := [0, 0, 0, 0, 0], crossed := false }

/-- R409, R419: the horizons of a job's dies, and the gap items reserved there before it. -/
def State.reserveDies (s : State) (dies : List Nat) (finish job : Nat) : State :=
  dies.foldl (fun (t : State) d =>
    let items := (s.gapItems d).map (·.1)
    (t.wr (R.ADM_HORIZON_TIME d) finish).updPace d fun p => { p with gaps := items.foldl (fun m i => mapPut m i job) p.gaps }) s

/-- R409, R410, R462: a job admitted. -/
def State.takeJob (s : State) (e : Entry) (a : JobArgs) (handles : List Nat) (door : Nat) (replayOf : Nat) : State :=
  let img := s.image e.slot
  let dies := mapGet [] s.slotDies e.slot
  let id := s.nextJob
  let finish := s.finishOf dies door (imgCpSteps img)
  let budget := e.q 8
  let j : Job := { id := id, ring := e.ring, tag := e.tag, sqHead := e.sqHead, slot := e.slot, digest := fit 32 a.digest,
                   dieMap := dies, tDoor := door, finish := finish, deadline := if budget = 0 then 0 else door + budget,
                   seed := a.seed, inputs := a.inputs, handles := handles, watchAddr := e.q 0x20, watchLen := e.q 0x30,
                   recAddr := e.q 0x28, cq := s.rd (R.SQ_CFG_CQ e.ring), replayOf := replayOf, watches := imgWatches img, keydig := sha256 [] }
  let s1 : State := { s with jobs := s.jobs ++ [j], nextJob := s.nextJob + 1 }
  let s2 := (s1.reserveDies dies finish id).openManifests id img
  let s3 := s2.wr R.ADM_STATE_ADMITTED ((s2.jobs.filter (·.live)).length)
  let s4 : State := if replayOf = 0 then s3
    else ((((s3.wr R.RPL_ARM_EN 0).wr R.RPL_STATUS_ARMED 0).wr R.RPL_STATUS_RUNNING 1).wr R.RPL_STATUS_MATCH 0).wr
      R.RPL_STATUS_DIVERGED 0
  s4.post e.ring e.tag 1 e.sqHead { stage := 0, result := s.time - door, jobId := id }

/-- R53: the seed that a job uses: the host's, or a draw where it is all zeros. -/
def State.seedOf (s : State) (seed : List Byte) : Option (List Byte × State) :=
  if allZero seed then s.draw 32 else some (fit 32 seed, s)

/-- R235 step 1, R409: the decision on a JOB entry with its argument block. -/
def State.decide' (s : State) (e : Entry) (args : List Byte) (door : Nat) : State :=
  let img := s.image e.slot
  let dies := mapGet [] s.slotDies e.slot
  match if s.jobEntryOk e then parseArgs args (e.q 0x18) else none with
  | none => s.refuseJob e Ev.RANGE Unit.HOST door true
  | some a0 =>
    if !s.imageOk e a0 then s.refuseJob e Ev.RANGE Unit.LOADER door true
    else
      match s.seedOf a0.seed with
      | none => s.refuseJob e Ev.TRNG_FAIL Unit.SECURITY door true
      | some (seed, s0) =>
        let a := { a0 with seed := seed }
        let cap := s0.armed
        let (s1, ok, hs) := s0.checkInputs img cap a.inputs
        let fits := match cap with
          | some c => replayArgsOk c a
          | none => true
        if !(ok && fits) then s1.refuseJob e Ev.RANGE Unit.LOADER door true
        else if s1.on R.ADM_STATE_STOP || !s1.on R.ADM_CFG_ENABLE then s1.refuseJob e Ev.DEADLINE_AT_RISK Unit.POWER door false
        else if e.q 8 != 0 && decide (door + e.q 8 < s1.finishOf dies door (imgCpSteps img)) then
          s1.refuseJob e Ev.ADMIT_BUDGET Unit.POWER door false
        else s1.takeJob e a hs door ((cap.map (·.job)).getD 0)

/-- JOB (R409, R235 step 1, R312, R313, R317): read in its turn and decided before 90 µs have passed since its doorbell
time. -/
def execJob (r : Fin 64) (entry : List Byte) (args : List Byte) (ups : List Upset) (s : State) :
    Host.Outcome State Fault Refusal :=
  let door := s.doorTime r
  .next (
    if decide (s.time < door + 90000) then (s.plant ups).onEntry r entry 2 fun t e => t.decide' e args door else s)

/-- ADMIT_LATE (R412): a decision not reached 90 µs after the doorbell time: refused, the horizons unchanged. -/
def execAdmitLate (r : Fin 64) (entry : List Byte) (args : List Byte) (s : State) : Host.Outcome State Fault Refusal :=
  let door := s.doorTime r
  .next (
    if decide (door + 90000 ≤ s.time) then
      s.onEntry r entry 2 fun t e =>
        match if t.jobEntryOk e then parseArgs args (e.q 0x18) else none with
        | some _ => t.refuseJob e Ev.ADMIT_LATE Unit.POWER door false
        | none => t.refuseJob e Ev.RANGE Unit.HOST door true
    else s)

/-- ENTRY_FETCH_TIMEOUT (R317): the entry or its argument block has not arrived 50 µs after the doorbell time. -/
def execEntryFetchTimeout (r : Fin 64) (entry : List Byte) (s : State) : Host.Outcome State Fault Refusal :=
  let door := s.doorTime r
  .next (
    if decide (door + 50000 ≤ s.time) then s.onEntry r entry 2 fun t e => t.refuseJob e Ev.STALL Unit.HOST door true else s)

/-- ABORT (R322, R237): a live job of the ring and tag named is ended; else ABORT_LATE. The job that a host abort ends
carries no code of its own (DESIGN CHOICE, log 70). -/
def execAbort (r : Fin 64) (entry : List Byte) (s : State) : Host.Outcome State Fault Refusal :=
  .next (s.onEntry r entry 1 fun t e =>
    let ring := e.q 8
    let ok := t.entryOk e && e.kind = 6 && decide (ring < 64) && decide (e.q 0x10 < 2 ^ 32) && e.q 0x18 = 0 && e.q 0x20 = 0 &&
      e.q 0x28 = 0 && e.q 0x30 = 0 && (ring = r.val || t.on (R.SQ_CFG_ABORT_ANY r))
    if !ok then t.refuseEntry e Ev.RANGE Unit.HOST
    else
      match t.jobs.find? fun j => j.live && j.ring = ring && j.tag = e.q 0x10 with
      | some j => (t.endJob j.id 1 0).postFor e {}
      | none => t.postFor e { code := Ev.ABORT_LATE })

end Sys2Proof.Machine
end

