-- ==== Sys2Proof/Machine/Firmware.lean ====
section
/-! DEFINITION. Firmware images and the installation configuration (R373, R380, R381): their headers and validity. -/

namespace Sys2Proof.Machine

/-- R373: the fields of a header. -/
def fwKind (b : List Byte) : Nat := leAt b 4 1
def fwKeyIdx (b : List Byte) : Nat := bits (leAt b 4 4) 8 2
def fwSvn (b : List Byte) : Nat := leAt b 8 4
def fwLen (b : List Byte) : Nat := leAt b 0xC 4
def fwDigest (b : List Byte) : List Byte := slice b 0x10 32
def fwPubkey (b : List Byte) : List Byte := slice b 0x30 384
def fwSig (b : List Byte) : List Byte := slice b 0x280 384
def fwBody (b : List Byte) : List Byte := slice b 0x400 (fwLen b)

/-- R373: the largest body of a kind. -/
def fwMax (kind : Nat) : Nat := if kind = 1 || kind = 4 then 1047552 else 4193280

/-- R373: a header of a kind with its reserved fields zero, over a body of its length whose digest it gives. -/
def fwForm (b : List Byte) (kind : Nat) : Bool :=
  leAt b 0 4 = 0x57464C54 && fwKind b = kind && bits (leAt b 4 4) 10 22 = 0 && fwLen b ≤ fwMax kind &&
    decide (0x400 + fwLen b ≤ b.length) && allZero (slice b 0x1B0 208) && (kind = 4 || allZero (fwPubkey b)) &&
    sha256 (fwBody b) == fwDigest b

/-- R373: the signing key that the directory holds for a fuse slot. -/
def State.signer (s : State) (slot : Nat) : Option (List Byte) := s.sec.flash.dir.find? fun k => sha256 k == Config.vkey slot

/-- R373: a KIND 0x01 to 0x03 image is valid. -/
def State.fwValid (s : State) (b : List Byte) (kind : Nat) : Bool :=
  fwForm b kind && !bitOf s.sec.revoked (fwKeyIdx b) && decide (s.rd R.SEC_SVN_FLOOR ≤ fwSvn b) &&
    match s.signer (fwKeyIdx b) with
    | some k => rsaVerify k (fwSig b) (b.take 0x280) = Bn.OK
    | none => false

/-- R381: a configuration is accepted: its SIG verifies under its own PUBKEY, which the OWNER fuse names unless it is
blank. -/
def State.configValid (s : State) (b : List Byte) : Bool :=
  fwForm b 4 && (s.sec.owner.isEmpty || sha256 (fwPubkey b) == s.sec.owner) &&
    rsaVerify (fwPubkey b) (fwSig b) (b.take 0x280) = Bn.OK

end Sys2Proof.Machine
end

