-- ==== Sys2Proof/Machine/HostReset.lean ====
section
/-! DEFINITION. The resets of the host interface (R309, R444): function level reset, hot reset and link down. -/

namespace Sys2Proof.Machine

/-- R468, R469: a register of the host interface block or of the MSI-X block, by its address. -/
def hostBlock (a : Nat) : Bool := (decide (0x10000 ≤ a) && decide (a < 0x20000)) || (decide (0x30000 ≤ a) && decide (a < 0x40000))

/-- R238: Drazhaest has the host interface take rings again, and locks its configuration. -/
def State.openHif (s : State) : State := (s.wr R.HIF_CFG_ENABLE 1).wr R.HIF_CFG_LOCK 1

/-- R309: what a function level reset does. An image that still waits for the verifier is judged, and has no ring to be
answered on (R309 disables every ring). Drazhaest enables the cleared block again at once (DESIGN CHOICE, log 79). -/
def State.hostReset (s : State) : State :=
  let s1 := (s.jobs.filter (·.live)).foldl (fun (t : State) j => t.endJob j.id 1 0) s
  let s2 : State := { s1 with
    regs := s1.regs.filter fun p => !hostBlock (p.1 / 64)
    sqTimes := []
    nextRing := 0
    shadowSeen := []
    coal := []
    landings := s1.landings.map fun l => { l with cq := 64 }
    poll := 0 }
  let s3 := (List.range 32).foldl (fun (t : State) m =>
    if isHostMid (t.rd (R.MBX_BIND_SENDER m)) || isHostMid (t.rd (R.MBX_BIND_RECEIVER m)) then t.mbxClear m else t) s2
  if 3 ≤ s.rd R.SEC_STATE_STAGE && s.rd R.SEC_STATE_STAGE ≤ 4 then s3.openHif else s3

/-- FUNCTION_LEVEL_RESET (R309). -/
def execFunctionLevelReset (s : State) : Host.Outcome State Fault Refusal := .next (if s.power.on then s.hostReset else s)

/-- HOT_RESET (R444): as R309 gives. -/
def execHotReset (s : State) : Host.Outcome State Fault Refusal := .next (if s.power.on then s.hostReset else s)

/-- LINK_DOWN (R428, R444): the PCIe link goes down, treated as R309 gives. -/
def execLinkDown (s : State) : Host.Outcome State Fault Refusal := .next (if s.power.on then s.hostReset else s)

end Sys2Proof.Machine
end

