-- ==== Sys2Proof/Machine/Boot.lean ====
section
/-! DEFINITION. RESET_N and the start-up of the part (R302, R375, R376, R441–R446): what a reset leaves, and the steps
from the release of RESET_N to ready, one at each tick. -/

namespace Sys2Proof.Machine

/-! ### What a reset leaves (R444, R446) -/

/-- R371, R372, R374: what the security processor keeps through every reset: counters, fuses and flash. -/
def Sec.kept (x : Sec) : Sec :=
  { epoch := x.epoch, spent := x.spent, allowSeq := x.allowSeq, owner := x.owner, revoked := x.revoked, flash := x.flash }

/-- R302: a die's channels that were recorded for map-out, or whose start-up check fails, leave service; a die whose
channels all fail leaves with them. -/
def State.mapOutDie (s : State) (d : Nat) : State :=
  let out := ((s.mapOut ++ s.chanBad).filter fun p => p.1 = d).map (·.2)
  if out.isEmpty then s
  else
    let left := out.foldl clearBit (s.rd (R.MEM_CHMAP_INSERV d))
    let s1 := ((s.wr (R.MEM_CHMAP_INSERV d) left).wr (R.MEM_CHMAP_COUNT d) (popcount 32 left)).wr R.CAPS_DEGRADED 1
    if left = 0 then s1.wr R.CAPS_DIE_INSERV (clearBit (s1.rd R.CAPS_DIE_INSERV) d) else s1

/-- R454: a unit that was out of service before the reset is checked again; its epoch has advanced from what it resets to
(DEDUCED, log 76). -/
def State.reviveUnit (s old : State) (d : Nat) (u : Fin 6) : State :=
  let c := chkOf u
  if s.on (c.present d) && !old.on (c.present d) then s.wr (c.epoch d) 1 else s

/-- R444, R446: every die reset but the power dies, the SMBus target and the PKG block. -/
def State.resetDies (s : State) : State :=
  let t : State := { State.reset with
    regs := s.regs.filter fun p => decide (0xC0000 * 64 ≤ p.1) && decide (p.1 < 0xC0038 * 64)
    fuses := s.fuses
    hostMem := s.hostMem
    answer := s.answer
    msix := s.msix
    irqs := s.irqs
    mapOut := s.mapOut
    chanBad := s.chanBad
    sec := s.sec.kept
    power := { s.power with
      releaseAt := 0
      overAt := none
      underAt := none
      stepAt := 0
      clearAt := none
      diffAt := none
      vinBad := false }
    free := s.free
    pending := s.pending }
  let t0 := (List.range 8).foldl State.mapOutDie t
  let t1 := t0.wr R.PART_DIES (t0.rd R.CAPS_DIE_INSERV)
  let t2 := (List.range 8).foldl (fun (a : State) d => chkAll.foldl (fun b u => b.reviveUnit s d u) a) t1
  ((t2.wr R.PKG_STATE_PHASE 1).wr R.PKG_STATE_READY 0).wr R.PKG_STATE_STEP 0

/-- R437, R444, R445: the part loses its power: everything but fuses, counters and flash is lost. -/
def State.powerOff (s : State) : State :=
  let t := s.resetDies
  { t with regs := t.regs.filter fun p => !(decide (0xC0000 * 64 ≤ p.1) && decide (p.1 < 0xC0038 * 64)), power := { t.power with on := false, rising := false, band := 0, conds := 0 } }

/-- R437: a supply shutdown: the cause, its power die and its die are kept in PD0's latch. -/
def State.shutdown (s : State) (cause pd die : Nat) : State :=
  let t := s.powerOff
  { t with power := { t.power with latch := (cause, pd, die) } }

/-! ### The boot chain (R375, R376) -/

/-- R376: the chain stops: BOOT_FAIL. -/
def State.bootFail (s : State) : State := s.wr R.SEC_STATE_STAGE 7

/-- R375 steps 1 and 2: the boot ROM starts slot A, or slot B. -/
def State.bootRom (s : State) : State :=
  let s0 := s.extend 0 Config.romDigest
  let a := s.sec.flash.sp.getD 0 []
  let b := s.sec.flash.sp.getD 1 []
  let run (img : List Byte) (slot : Nat) : State :=
    (((s0.extend 1 (fwDigest img)).wr R.SEC_STATE_SLOT_SP slot).wr R.SEC_SVN_RUNNING (fwSvn img)).wr R.SEC_STATE_STAGE 1
  if s.fwValid a 1 then run a 0 else if s.fwValid b 1 then run b 1 else s0.bootFail

/-- R384: channels 0 and 1 bound for the security processor. -/
def State.bindSecurity (s : State) : State :=
  let fs : List (Fld × Nat) := [
    (R.MBX_BIND_SENDER 0, 0x100), (R.MBX_BIND_RECEIVER 0, 1), (R.MBX_BIND_EN 0, 1), (R.MBX_BIND_SENDER 1, 1),
    (R.MBX_BIND_RECEIVER 1, 0x100), (R.MBX_BIND_EN 1, 1)]
  fs.foldl (fun t p => t.wr p.1 p.2) s

/-- R375 step 3, R378: keys that MEAS1 does not unwrap are made anew; without random bits the step does not complete. -/
def State.bootKeys (s : State) : Option State :=
  if s.sec.flash.wrapped == s.meas 1 then some s
  else if s.on R.SEC_STATE_TRNG_FAIL then none
  else
    some ((s.updSec fun x => { x with flash := { x.flash with keyNo := x.flash.keyNo + 1, wrapped := s.meas 1 } }).wr R.SEC_STATE_KEYGEN 1)

/-- A Drazhaest slot is valid (R373, R375): its hub and its die-supervisor image. -/
def State.dzValid (s : State) (slot : Nat) : Bool :=
  s.fwValid (s.sec.flash.hub.getD slot []) 2 && s.fwValid (s.sec.flash.sup.getD slot []) 3

/-- R437: the latch copied into PKG_LASTOFF and cleared. -/
def State.copyLatch (s : State) : State :=
  let (cause, pd, die) := s.power.latch
  if cause = 0 then s
  else
    let s1 := ((s.wr R.PKG_LASTOFF_CAUSE cause).wr R.PKG_LASTOFF_PD pd).wr R.PKG_LASTOFF_DIE die
    { s1 with power := { s1.power with latch := (0, 0, 0) } }

/-- R375 step 4, R376: Drazhaest started from slot A, or from slot B; the bridges of its dies come up. -/
def State.bootDz (s : State) : State :=
  let run (slot : Nat) : State :=
    let hub := s.sec.flash.hub.getD slot []
    let sup := s.sec.flash.sup.getD slot []
    let s1 := (((s.extend 2 (fwDigest hub)).extend 3 (fwDigest sup)).updSec fun x => { x with svnDz := min (fwSvn hub) (fwSvn sup) })
    let s2 := ((s1.wr R.SEC_STATE_SLOT_DZ slot).wr R.SEC_STATE_STAGE 2).copyLatch
    let s3 := ((List.range 8).filter s2.present).foldl (fun (t : State) d => t.wr (R.QCH_BRIDGE_UP d) 7) s2
    if slot = 1 || s3.on R.SEC_STATE_SLOT_SP then s3.raise { code := Ev.BOOT_FALLBACK, unit := Unit.SECURITY } else s3
  if s.dzValid 0 then run 0 else if s.dzValid 1 then run 1 else s.bootFail

/-- R380: the fields of a configuration applied. -/
def State.applyInst (s : State) (c : Config.Inst) : State :=
  let s1 := ((s.wr R.FAB_EPID_EPID c.epid).wr R.MEM_SPLIT_PW_MIB (min c.split 3840)).wr R.FAB_CFG_ENABLE 1
  let s2 := (c.mbx.filter fun b => 2 ≤ b.1 && b.1 < 32).foldl (fun (t : State) b =>
    ((t.wr (R.MBX_BIND_SENDER b.1) b.2.1).wr (R.MBX_BIND_RECEIVER b.1) b.2.2).wr (R.MBX_BIND_EN b.1) 1) s1
  s2.updSec fun x => { x with inst := some c }

/-- R238, R255, R474: the blocks that Drazhaest configures after reset enabled, and their locks set. -/
def State.lockBlocks (s : State) : State :=
  let s1 := ((s.wr R.MBX_LOCK_LOCK 1).wr R.MEM_SPLIT_LOCK 1).wr R.FAB_CFG_LOCK 1
  ((List.range 8).filter s1.present).foldl (fun (t : State) d =>
    let fs : List (Fld × Nat) := [
      (R.SPAD_CLASS_DURABLE d, Config.spadClass d), (R.SPAD_CFG_ENABLE d, 1), (R.SPAD_CFG_LOCK d, 1), (R.MEM_CFG_ENABLE d, 1),
      (R.MEM_CFG_LOCK d, 1)]
    fs.foldl (fun u p => u.wr p.1 p.2) t) s1.openHif

/-- R375 step 5, R381: the installation configuration verified and applied. -/
def State.bootConfig (s : State) : State :=
  let b := s.sec.flash.config
  let s0 := s.call
  let s1 : State := if s.configValid b then
      let s2 := s0.updSec fun x => { x with owner := if x.owner.isEmpty then sha256 (fwPubkey b) else x.owner }
      (s2.extend 4 (fwDigest b)).applyInst (Config.instOf (fwBody b))
    else s0.wr R.SEC_STATE_CFG_FAIL 1
  (s1.lockBlocks.wr R.SEC_STATE_STAGE 3).wr R.PKG_STATE_PHASE 3

/-- R441 step 8: every scratchpad scrub (R259), calibration and entry check is complete. -/
def State.initDone (s : State) : Bool :=
  s.diesInServ.all fun d => !s.on (R.SPAD_STATUS_SCRUB_BUSY d) && (s.paceOf d).tried && chkAll.all fun u => !s.on ((chkOf u).present d) || s.on ((chkOf u).entryOk d)

/-- R368: SAGE_STATE and SAGE_BUDGET as the share, the allowlist and the counters stand. -/
def State.noteEpoch (s : State) : State :=
  let al := s.sage.allow
  let fs : List (Fld × Nat) := [
    (R.SAGE_STATE_EPOCH, s.sec.epoch), (R.SAGE_STATE_SHARE, b2n s.sage.share.isSome), (R.SAGE_STATE_ALLOW, b2n al.isSome),
    (R.SAGE_STATE_KMIN, min 0xFFFFFF (max 3 ((al.map (·.kmin)).getD 0))), (R.SAGE_BUDGET_BUDGET, (al.map (·.budget)).getD 0),
    (R.SAGE_BUDGET_SPENT, s.sec.spent)]
  fs.foldl (fun (t : State) p => t.wr p.1 p.2) s

/-- R375 step 6, R386: a share whose epoch is the counter's unsealed into the security region. -/
def State.unseal (s : State) : State :=
  match s.sec.flash.share with
  | some sh => if s.regionFits && sh.epoch = s.sec.epoch then (s.updSage fun g => { g with share := some sh }).wr R.SEC_STATE_SHARE 1 else s
  | none => s

/-- R417: the stop that the part comes out of reset with is taken back once admission is enabled, unless a cause holds. -/
def State.admitFrom (s : State) : State :=
  let s1 := (s.wr R.ADM_CFG_ENABLE 1).wr R.ADM_CFG_LOCK 1
  match s1.riskCause with
  | some c => s1.wr R.ADM_STATE_CAUSE c
  | none => (s1.wr R.ADM_STATE_STOP 0).wr R.ADM_STATE_CAUSE 0

/-- R375 step 6, R441 step 9: the fuse configuration measured, the security region set up, the share unsealed, Sage and
admission enabled, and the part ready. -/
def State.bootReady (s : State) : State :=
  let s1 := s.extend 5 Config.fuseConfig
  let s2 := (s1.wr R.SEC_STATE_SECREG (b2n s1.regionFits)).unseal.noteEpoch
  let s3 := (s2.wr R.SAGE_CFG_ENABLE (b2n s2.regionFits)).wr R.SAGE_CFG_LOCK 1
  let s4 := (s3.wr R.SEC_STATE_STAGE 4).admitFrom
  ((s4.wr R.PKG_STATE_PHASE 5).wr R.PKG_STATE_READY 1).wr R.PKG_STATE_READY_MS ((s4.time - s4.power.releaseAt) / 1000000)

/-! ### The steps of start-up (R441, R443) -/

/-- R441 step 6: RESET_N is released with the rails good: the references are locked and the boot chain begins. -/
def State.startUp (s : State) : State :=
  let s1 := ((s.wr R.PKG_STATE_PHASE 2).wr R.PKG_CLK_PCIE 1).wr R.PKG_CLK_PORT (s.rd R.FAB_CAPS_PORTS)
  { s1 with power := { s1.power with releaseAt := s.time } }

/-- R259: the reset scrub ends, 65,536 steps at the floor pace after the release of RESET_N (DESIGN CHOICE, log 166: on every die
at once). -/
def State.endScrubs (s : State) : State :=
  (List.range 8).foldl (fun (t : State) d =>
    (t.updDie d fun x => { x with scrubbing := 0 }).wr (R.SPAD_STATUS_SCRUB_BUSY d) 0) s

/-- R441, R375: what a tick completes of the start-up. A part that is STUCK, or that failed to boot, stays (R376,
R443). -/
def State.bootStep (s : State) : State :=
  if !s.power.on || !s.power.resetn then s
  else
    match s.rd R.PKG_STATE_PHASE, s.rd R.SEC_STATE_STAGE with
    | 1, _ => s.startUp
    | 2, 0 => s.bootRom
    | 2, 1 =>
      match s.bindSecurity.bootKeys with
      | some t => t.bootDz
      | none => s
    | 2, 2 => s.bootConfig
    | 3, _ => s.wr R.PKG_STATE_PHASE 4
    | 4, _ =>
      if (s.diesInServ.any fun d => (s.die d).scrubbing != 0) && decide (s.power.releaseAt + floorNs 65536 ≤ s.time) then s.endScrubs
      else if s.initDone then s.bootReady else s
    | _, _ => s

/-- R441: the step that the part is in: rails, boot chain, initialisation; 0 for none. -/
def State.startStep (s : State) : List Nat :=
  if s.power.rising then [4]
  else if !s.power.on || !s.power.resetn then []
  else
    match s.rd R.PKG_STATE_PHASE with
    | 2 => [6, 7]
    | 3 => [8]
    | 4 => if s.initDone then [9] else [8]
    | _ => []

/-- R441: the bound of a step from the release of RESET_N, in ns: the link's 20 ms, the boot ROM's 60 ms, and for the
rest the time to ready. -/
def State.stepBound (s : State) (step : Nat) : Nat :=
  if step = 6 then 20000000
  else if step = 7 then 60000000
  else
    (if s.on R.SEC_STATE_KEYGEN then 2250000000 else 250000000) +
      match s.sec.flash.share with
      | some sh => ceilDiv (sh.body.length * 10) 4
      | none => 0

/-- STARTUP_STEP_TIMEOUT (R443): a bound that is missed leaves the part in its step. -/
def execStartupStepTimeout (step : Fin 10) (s : State) : Host.Outcome State Fault Refusal :=
  .next (
    if s.startStep.contains step.val && (step.val = 4 || decide (s.power.releaseAt + s.stepBound step ≤ s.time)) then
      (s.wr R.PKG_STATE_PHASE 15).wr R.PKG_STATE_STEP step
    else s)

/-- RESET_N_ASSERT (R445, R446): ignored while PWRGOOD is low; without rails only the level is noted. -/
def execResetNAssert (s : State) : Host.Outcome State Fault Refusal :=
  .next (
    if !s.power.pwrgood then s
    else
      let t := if s.power.on then s.resetDies else s
      { t with power := { t.power with resetn := false } })

/-- RESET_N_RELEASE (R441 step 5, R443): held inside the part until the rails are good. -/
def execResetNRelease (s : State) : Host.Outcome State Fault Refusal :=
  .next (
    if !s.power.pwrgood || s.power.resetn then s
    else
      let t : State := { s with power := { s.power with resetn := true } }
      if s.power.on then t.startUp else t)

/-- TRNG_HEALTH_FAIL (R370): every draw stops until RESET_N. -/
def execTrngHealthFail (s : State) : Host.Outcome State Fault Refusal :=
  .next (
    if s.power.on && !s.on R.SEC_STATE_TRNG_FAIL then
      (s.wr R.SEC_STATE_TRNG_FAIL 1).raise { code := Ev.TRNG_FAIL, unit := Unit.SECURITY }
    else s)

end Sys2Proof.Machine
end

