-- ==== Sys2Proof/Machine/Chive.lean ====
section
/-! DEFINITION. The control cores as issuers (R184–R188, R207, R208, R211, R226, R232, R233, R280, R481): captures, the
issue instructions, layer barriers, segments, ends and debug halts. -/

namespace Sys2Proof.Machine

/-! ### What a command of a core shares -/

/-- A core may execute its next instruction: it is one of cores 0 to 6, runs, and waits at nothing. -/
def State.coreRuns (s : State) (d c : Nat) : Bool :=
  let k := (s.die d).core c
  c < 7 && s.inServ d && bitOf (s.rd (R.CHIVE_RUN_RUN d)) c && !k.ended && !k.debugHalt && k.atBarrier.isNone && !k.atBoundary

/-- A core that executes its next instruction in a running job. -/
def State.coreInJob (s : State) (d c : Nat) : Bool := s.coreRuns d c && (s.jobOn d).isSome

/-- A register of a core; x0 reads as zero. -/
def Core.reg (k : Core) (i : Nat) : Nat := if i = 0 then 0 else ((k.x[i]?).getD 0).toNat

/-- A register of a core written; a write to x0 is lost. -/
def Core.setReg (k : Core) (i v : Nat) : Core :=
  if i = 0 then k else { k with x := k.x.setIfInBounds i (BitVec.ofNat 64 v) }

/-- What the core's ordinary instructions did before the one that a command is (RV64IMAC, R208). -/
def State.progress (s : State) (d c : Nat) (p : Progress) : State :=
  (s.updCore d c fun k =>
    let k1 := p.xs.foldl (fun (a : Core) (q : Fin 32 × Word64) => a.setReg q.1 q.2.toNat) k
    { k1 with pc := p.pc.toNat, dmem := p.ms.foldl (fun m (q : BitVec 18 × Byte) => mapSet 0 m q.1.toNat q.2) k1.dmem }).inc
      (R.CHIVE_INSTRET_COUNT d c) p.retired

/-- The instruction retires: its result is in rd and the pc moves on. -/
def State.retire (s : State) (d c : Nat) (rd v : Nat) : State :=
  (s.updCore d c fun k => { k.setReg rd v with pc := k.pc + 4, at_ := (s.die d).time }).inc (R.CHIVE_INSTRET_COUNT d c) 1

/-- CHIVE_STATUS.ACTIVE_BANK of a core. -/
def State.activeBank (s : State) (d c : Nat) : Nat := b2n (bitOf (s.rd (R.CHIVE_STATUS_ACTIVE_BANK d)) c)

/-- R209: the bytes of the active bank from the pc on, at most four; none outside the instruction memory. -/
def State.fetched (s : State) (d c : Nat) : Option (List Byte) :=
  let k := (s.die d).core c
  if 0x4_0000 ≤ k.pc && k.pc < 0x4_8000 then
    some (slice (if s.activeBank d c = 0 then k.bank0 else k.bank1) (k.pc - 0x4_0000) (min 4 (0x4_8000 - k.pc)))
  else none

/-- The length of the load or store at a core's pc: 2 bytes where the bank holds a compressed instruction there, else 4. -/
def State.accessLen (s : State) (d c : Nat) : Nat :=
  match s.fetched d c with
  | some bs => if 2 ≤ bs.length && bits (leAt bs 0 2) 0 2 != 3 then 2 else 4
  | none => 4

/-- A load or a store retires, by its length. -/
def State.retireAccess (s : State) (d c : Nat) (rd v : Nat) : State :=
  let n := s.accessLen d c
  (s.retire d c rd v).updCore d c fun k => { k with pc := k.pc - 4 + n }

/-- R209, R211: the causes of RISC-V that R184 and R209 name. -/
abbrev Trap.illegal : Nat := 2
abbrev Trap.loadFault : Nat := 5
abbrev Trap.storeFault : Nat := 7

/-- R211: a trap of a core at its pc. -/
def State.trap (s : State) (d c cause : Nat) : State := s.coreTrap d c cause ((s.die d).core c).pc

/-- R280: every earlier store, atomic and copy of a core has landed. -/
def State.settled (s : State) (d c : Nat) : Bool :=
  !(s.flights.any fun f => f.mid = coreMid d c) && !((List.range 8).any fun e => (s.die e).copies.any fun j => j.mid = coreMid d c)

/-- R185: the reasons of a refusal. -/
abbrev Reason.NOT_OWNER : Nat := 1
abbrev Reason.WRONG_LEVEL : Nat := 2
abbrev Reason.GROUP_OFF : Nat := 3
abbrev Reason.JOB_ENDING : Nat := 4

/-- R185: a refused instruction's result. -/
def refusal (reason : Nat) : Nat := 2 ^ 63 + reason

/-- STRM_GROUP.LVL of a group. -/
def State.levelOf (s : State) (d g : Nat) : Nat :=
  match g with
  | 0 => s.rd (R.STRM_GROUP_LVL_B d)
  | 1 => s.rd (R.STRM_GROUP_LVL_M d)
  | 2 => s.rd (R.STRM_GROUP_LVL_P d)
  | _ => 0

/-- R185: why an issue to a group is refused, the lowest reason first (DESIGN CHOICE, log 45). `fine` for OPF. -/
def State.refuse? (s : State) (d c g : Nat) (fine : Bool) : Option Nat :=
  if s.ownerOf d g != c then some Reason.NOT_OWNER
  else if fine && s.levelOf d g = 0 then some Reason.WRONG_LEVEL
  else if !s.on (R.STRM_CFG_ENABLE d) then some Reason.GROUP_OFF
  else if (s.jobOn d).isNone then some Reason.JOB_ENDING
  else none

/-! ### Capture (R124, R185) -/

/-- Bytes of a core's data memory. -/
def Core.bytes (k : Core) (a n : Nat) : List Byte := mapBytes k.dmem a n

/-- R123, R124: the value of a second or third operand of a Parsley operation: the register's low word, or the words
of the table that a register names, up to 128 and to the end of data memory; none where the table is misplaced. -/
def Core.captureOperand (k : Core) (kind reg : Nat) : List Nat :=
  if kind = 1 then [k.reg reg % 2 ^ 32]
  else if kind = 2 then
    let a := k.reg reg
    if a % 4 = 0 && a < 2 ^ 18 then (List.range (min 128 ((2 ^ 18 - a) / 4))).map fun i => leNat (k.bytes (a + 4 * i) 4)
    else []
  else []

/-- R185, R195: the operation that OPM captures from the macro word at an address of data memory. -/
def Core.captureMacro (k : Core) (c ticket a : Nat) : Issued :=
  let w := leNat (k.bytes a 16)
  let pb := k.bytes (bits w 51 13 * 32) 32
  let ga := leAt pb 0x18 4
  let base : Issued := { ticket := ticket, fine := false, word := w, pblock := pb, gblock := [], k1 := [], k2 := [],
                         epochs := k.epochs, site := bits w 64 32, core := c }
  let opc := base.opc
  let kinds : Bool := (0x20 ≤ opc && opc ≤ 0x24) || opc = 0x2C || (0x38 ≤ opc && opc ≤ 0x3D)
  let arg := base.arg 0
  { base with
    gblock := if opc = 0x05 && ga % 64 = 0 && ga + 64 ≤ 2 ^ 18 then k.bytes ga 64 else []
    k1 := if kinds then k.captureOperand (bits arg 0 2) (bits arg 4 6) else []
    k2 := if kinds then k.captureOperand (bits arg 2 2) (bits arg 10 6) else [] }

/-- R196, R197: the operation that OPF captures: the fine word, the SCALAR values of its sources, the site. -/
def Core.captureFine (k : Core) (c ticket w site : Nat) : Issued :=
  let scalar (sel : Nat) : List Nat := if 0xC0 ≤ sel && sel < 0xE0 then [k.reg (sel - 0xC0) % 2 ^ 32] else []
  { ticket := ticket, fine := true, word := w, pblock := [], gblock := [], k1 := scalar (bits w 16 8),
    k2 := scalar (bits w 24 8), epochs := k.epochs, site := site, core := c }

/-- R186: the ticket after a ticket: 16 bits, 0 skipped. -/
def nextTicket (t : Nat) : Nat := if t + 1 = 2 ^ 16 then 1 else t + 1

/-- The output slots that an operation names (R181): DOUT0's and DOUT1's, and for RINGIFY the slots from DOUT0's on, one for
each 32 samples of the batch that its DIN0 slot holds (R169). -/
def State.outSlots (s : State) (op : Issued) : List Nat :=
  let own := ([0, 1].filter fun i => refNamesSlot (op.dout i)).map fun i => refKey (op.dout i)
  let x := s.slotDesc (op.din 0)
  let n := if !op.fine && op.opc = 0x43 && refNamesSlot (op.dout 0) && x.type = 4 then ceilDiv (x.M * x.count) 32 else 1
  own ++ (List.range (n - 1)).map fun h => refKey (op.outRef true (h + 1))

/-- R185, R186, R181, R126: an operation enters its group's FIFO in its place in the die's order of issue; the slots it names
as outputs become pending. -/
def State.issue (s : State) (d g : Nat) (op : Issued) : State :=
  let s0 := if s.groupIdle d g then s.touchGroup d g else s
  let s1 := (s0.updGroup d g fun x =>
    { x with fifo := x.fifo ++ [{ op with seq := (s.die d).issueSeq }], nextTicket := nextTicket x.nextTicket,
             issued := x.issued + b2n (!op.fine) }).updDie d fun x => { x with issueSeq := x.issueSeq + 1 }
  { s1 with pendSlots := s1.pendSlots ++ (s.outSlots op).map fun k => (k, d, g, op.ticket) }

/-- The 48 bytes that R226 compares. -/
def Issued.record (op : Issued) : List Byte := leBytes 16 op.word ++ op.pblock

/-- R226: a macro-level group's next record is the one captured. -/
def State.inOrder (s : State) (d g : Nat) (op : Issued) : Bool :=
  let (img, die) := s.imageOn d
  s.levelOf d g = 1 ||
    decide (((s.die d).group g).issued < issueCount img die g) && issueRecord img die g ((s.die d).group g).issued == op.record

/-- ISSUE_ORDER (R226, R481): nothing is issued, the event is raised and the job ends. -/
def State.issueOrder (s : State) (d unit site : Nat) : State := s.fatal d unit site Ev.ISSUE_ORDER 0

/-- OPM (R184, R185, R226, R280). A macro word that is not 16-byte aligned, or not in data memory, raises a load access fault
(DEDUCED from R209 and R184, log 144). -/
def execOpm (d : DieId) (c : CoreId) (p : Progress) (f7 : BitVec 7) (rd rs1 : Fin 32) (s : State) :
    Host.Outcome State Fault Refusal :=
  .next (
    if !s.coreRuns d c then s
    else
      let s1 := s.progress d c p
      let g := f7.toNat
      if 3 < g then (if s.coreInJob d c then s1.trap d c Trap.illegal else s)
      else match s1.refuse? d c g false with
        | some r => s1.retire d c rd (refusal r)
        | none =>
          let x := (s1.die d).group g
          let k := (s1.die d).core c
          let a := k.reg rs1
          if !s1.settled d c || 16 ≤ x.fifo.length then s
          else if a % 16 != 0 || 2 ^ 18 ≤ a then s1.trap d c Trap.loadFault
          else
            let op := k.captureMacro c x.nextTicket a
            if s1.inOrder d g op then (s1.issue d g op).retire d c rd x.nextTicket
            else s1.issueOrder d g op.site)

/-- OPF (R184, R185, R196, R200). -/
def execOpf (d : DieId) (c : CoreId) (p : Progress) (f7 : BitVec 7) (rd rs1 rs2 : Fin 32) (s : State) :
    Host.Outcome State Fault Refusal :=
  .next (
    if !s.coreRuns d c then s
    else
      let s1 := s.progress d c p
      let g := f7.toNat
      if 3 < g then (if s.coreInJob d c then s1.trap d c Trap.illegal else s)
      else match s1.refuse? d c g true with
        | some r => s1.retire d c rd (refusal r)
        | none =>
          let x := (s1.die d).group g
          let k := (s1.die d).core c
          if !s1.settled d c || 16 ≤ x.fifo.length then s
          else (s1.issue d g (k.captureFine c x.nextTicket (k.reg rs1) (k.reg rs2 % 2 ^ 32))).retire d c rd x.nextTicket)

/-- R186: what OPWAIT returns for a ticket: its status word, EXPIRED once it is older than the last 64 completions, or
nothing yet. A ticket that the group has not given out counts as one still to come (DESIGN CHOICE, log 46). -/
def Group.statusOf (x : Group) (t : Nat) : Option Nat :=
  let waiting := x.fifo.any (·.ticket = t) || (x.cur.map (·.op.ticket)) = some t
  if waiting then none
  else match x.hist.find? fun p => p.1 = t with
    | some p => some p.2
    | none => if (t + 2 ^ 16 - x.nextTicket) % 2 ^ 16 < 2 ^ 15 then none else some (2 ^ 19)

/-- OPWAIT (R184, R186). -/
def execOpwait (d : DieId) (c : CoreId) (p : Progress) (f7 : BitVec 7) (rd rs1 : Fin 32) (s : State) :
    Host.Outcome State Fault Refusal :=
  .next (
    if !s.coreInJob d c then s
    else
      let s1 := s.progress d c p
      if 3 < f7.toNat then s1.trap d c Trap.illegal
      else match ((s1.die d).group f7.toNat).statusOf (((s1.die d).core c).reg rs1 % 2 ^ 16) with
        | some w => s1.retire d c rd w
        | none => s)

/-- R481, R207: a stream unit of a macro-level group starts the next program of its list; the marks before that program are
of layer barriers that have completed. -/
def State.startInOrder (s : State) (d u idx : Nat) : Bool :=
  let (img, die) := s.imageOn d
  let x := (s.die d).sunit u
  s.levelOf d (u / 4) = 1 || match (startEntries img die u)[x.starts]? with
    | some (i, marks) => i = idx && decide (marks ≤ x.layers)
    | none => false

/-- SUSTART (R184, R185, R202, R481): a program queued on a stream unit. A unit beyond 15 has no owner. -/
def execSustart (d : DieId) (c : CoreId) (p : Progress) (f7 : BitVec 7) (rd rs1 rs2 : Fin 32) (s : State) :
    Host.Outcome State Fault Refusal :=
  .next (
    if !s.coreRuns d c then s
    else
      let s1 := s.progress d c p
      let k := (s1.die d).core c
      let u := k.reg rs1
      let idx := k.reg rs2
      if f7.toNat != 0 then (if s.coreInJob d c then s1.trap d c Trap.illegal else s)
      else if 16 ≤ u then s1.retire d c rd (refusal Reason.NOT_OWNER)
      else match s1.refuse? d c (u / 4) false with
        | some r => s1.retire d c rd (refusal r)
        | none =>
          if s1.rd (R.SU_PROGBASE_HANDLE d) = nullHandle then (s1.raiseRange d (0x10 + u)).retire d c rd (refusal Ev.RANGE)
          else if !s1.settled d c || 8 ≤ ((s1.die d).sunit u).waiting.length then s
          else if !s1.startInOrder d u idx then s1.issueOrder d (0x10 + u) 0
          else ((s1.updSunit d u fun x => { x with waiting := x.waiting ++ [idx], starts := x.starts + 1 }).wr
            (R.SU_BUSY_BUSY d) (setBit (s1.rd (R.SU_BUSY_BUSY d)) u)).retire d c rd 0)

/-- The program in whose sequence of fed offsets the n-th unused one falls: programs with the number they still take. -/
def pickFeed : List (Nat × SProg × Nat) → Nat → Option (Nat × SProg)
  | [], _ => none
  | (i, p, k) :: ps, n => if n < k then some (i, p) else pickFeed ps (n - k)

/-- R204: the feed program that the next fed offset is for: the one at the unit's head while it takes more, then those that
wait, in order. -/
def State.feedTarget (s : State) (d u : Nat) : Option (Nat × SProg) :=
  let x := (s.die d).sunit u
  let head := match x.prog with
    | some (i, b) => let p := parseProg b; if p.feed then [(i, p, p.total - x.made)] else []
    | none => []
  let later := x.waiting.filterMap fun i =>
    let p := parseProg (s.peek (s.rd (R.SU_PROGBASE_HANDLE d)) (64 * i) 64)
    if p.feed then some (i, p, p.total) else none
  pickFeed (head ++ later) x.feeds.length

/-- R204: the check of a fed offset as it arrives: the program, the code and the handle of the fault. -/
def State.arrivalFault (s : State) (d u off : Nat) : Option (Nat × Nat × Nat) :=
  match s.feedTarget d u with
  | some (i, p) => (s.feedFault p off).map fun code => (i, code, p.handle)
  | none => none

/-- SUFEED (R184, R204): a byte offset for the unit's feed-mode program, checked as it arrives. -/
def execSufeed (d : DieId) (c : CoreId) (p : Progress) (f7 : BitVec 7) (rd rs1 rs2 : Fin 32) (s : State) :
    Host.Outcome State Fault Refusal :=
  .next (
    if !s.coreRuns d c then s
    else
      let s1 := s.progress d c p
      let k := (s1.die d).core c
      let u := k.reg rs1
      let off := k.reg rs2
      if f7.toNat != 0 then (if s.coreInJob d c then s1.trap d c Trap.illegal else s)
      else if 16 ≤ u then s1.retire d c rd (refusal Reason.NOT_OWNER)
      else match s1.refuse? d c (u / 4) false with
        | some r => s1.retire d c rd (refusal r)
        | none =>
          if !s1.settled d c then s
          else
            match s1.arrivalFault d u off with
            | some (idx, code, h) => s1.unitFault d u idx code h
            | none => (s1.updSunit d u fun x => { x with feeds := x.feeds ++ [off] }).retire d c rd 0)

/-- SUWAIT (R184): the unit has finished every started program: 0, or the code of its fault. -/
def execSuwait (d : DieId) (c : CoreId) (p : Progress) (f7 : BitVec 7) (rd rs1 : Fin 32) (s : State) :
    Host.Outcome State Fault Refusal :=
  .next (
    if !s.coreInJob d c then s
    else
      let s1 := s.progress d c p
      let u := ((s1.die d).core c).reg rs1
      if f7.toNat != 0 then s1.trap d c Trap.illegal
      else if s1.unitIdle d u then s1.retire d c rd ((s1.die d).sunit u).failed
      else s)

/-- LBAR (R184, R207, R254, R280): the core arrives at a layer barrier with its mask. -/
def execLbar (d : DieId) (c : CoreId) (p : Progress) (f7 : BitVec 7) (rd rs1 : Fin 32) (s : State) :
    Host.Outcome State Fault Refusal :=
  .next (
    if !s.coreInJob d c then s
    else
      let s1 := s.progress d c p
      if f7.toNat != 0 then s1.trap d c Trap.illegal
      else if !s1.settled d c then s
      else s1.updCore d c fun k => { k with atBarrier := some (k.reg rs1 % 256 + 256 * rd.val), at_ := (s.die d).time })

/-- R207: the three conditions of a layer barrier. -/
def State.barrierReady (s : State) (d mask : Nat) : Bool :=
  let cores := (List.range 8).filter (bitOf mask)
  !cores.isEmpty && cores.all (fun c => (((s.die d).core c).atBarrier.map (· % 256)) = some mask) &&
    (List.range 4).all fun g => !cores.contains (s.ownerOf d g) ||
      (s.groupIdle d g && (List.range 4).all fun i => s.unitIdle d (4 * g + i))

/-- R481: the units of the groups that cores own have passed another layer barrier. -/
def State.passLayer (s : State) (d : Nat) (cores : List Nat) : State :=
  (List.range 16).foldl (fun (t : State) u =>
    if cores.contains (s.ownerOf d (u / 4)) then t.updSunit d u fun x => { x with layers := x.layers + 1 } else t) s

/-- R229: a fine-level group that a core of a mask owns leaves entries in one of its queues. -/
def State.leavesEntries (s : State) (d : Nat) (cores : List Nat) : Bool :=
  (List.range 3).any fun g => cores.contains (s.ownerOf d g) && s.levelOf d g = 1 && (List.range 128).any fun q =>
    !(mapGet [] (s.die d).queues q).isEmpty && [s.rd (R.QCH_QCFG_READER d q), s.rd (R.QCH_QCFG_WRITER d q)].any fun x =>
      x = g || (0x10 + 4 * g ≤ x && x < 0x14 + 4 * g)

/-- LAYER_BARRIER (R207): the barrier completes on every core of its mask and STRM_LAYER advances. Entries
that a fine-level group leaves there fail the barrier check of R229, with the job's invariants (DEDUCED, log 160). -/
def execLayerBarrier (d : DieId) (mask : BitVec 8) (s : State) : Host.Outcome State Fault Refusal :=
  .next (
    if (s.jobOn d).isSome && s.barrierReady d mask.toNat then
      let s1 := s.inc (R.STRM_LAYER_COUNT d) 1
      let n := s1.rd (R.STRM_LAYER_COUNT d)
      ((List.range 8).filter (bitOf mask.toNat)).foldl (fun (t : State) c =>
        let rd := ((((t.die d).core c).atBarrier).getD 0) / 256
        (t.updCore d c fun k => { k with atBarrier := none }).retire d c rd n)
        ((s1.passLayer d ((List.range 8).filter (bitOf mask.toNat))).updDie d fun x =>
          { x with leftover := x.leftover || s.leavesEntries d ((List.range 8).filter (bitOf mask.toNat)) })
    else s)

/-! ### Segments (R232, R233) -/

/-- The segments of a core's code in the image of the job on its die. -/
def State.segments (s : State) (d c : Nat) : List (List Byte) :=
  let (img, die) := s.imageOn d
  imgAll img Sec.CODE die c

/-- A segment written to a bank. -/
def Core.load (k : Core) (bank : Nat) (seg : List Byte) : Core :=
  if bank = 0 then { k with bank0 := seg } else { k with bank1 := seg }

/-- SEGMENT_PREFETCH (R232, R233): the die supervisor loads the segment that follows the active one into a bank; a load
that names the active bank is refused with IMEM_ACTIVE. -/
def execSegmentPrefetch (d : DieId) (c : CoreId) (bank : Fin 2) (s : State) : Host.Outcome State Fault Refusal :=
  .next (
    match s.jobOn d with
    | some j =>
      if !bitOf (s.rd (R.CHIVE_RUN_RUN d)) c then s
      else if s.activeBank d c = bank.val then s.raise { code := Ev.IMEM_ACTIVE, src := d, unit := 0x20 + c.val, job := j.id }
      else match (s.segments d c)[((s.die d).core c).seg + 1]? with
        | some seg => if ((s.die d).core c).segReady then s else s.updCore d c fun k => { k.load bank seg with segReady := true }
        | none => s
    | none => s)

/-- ECALL_SEGMENT_END (R232): ECALL with a7 = 1 brings the core to its program boundary. -/
def execEcallSegmentEnd (d : DieId) (c : CoreId) (p : Progress) (s : State) : Host.Outcome State Fault Refusal :=
  let s1 := s.progress d c p
  .next (if s.coreInJob d c && ((s1.die d).core c).reg 17 = 1 then
      s1.updCore d c fun k => { k with atBoundary := true, at_ := (s.die d).time }
    else s)

/-- BANK_SWAP (R232, R233): at the boundary, with the next segment loaded, the banks swap and the core starts at
0x0004_0000 with its registers and data memory unchanged. -/
def execBankSwap (d : DieId) (c : CoreId) (s : State) : Host.Outcome State Fault Refusal :=
  let k := (s.die d).core c
  .next (
    if k.atBoundary && k.segReady && (s.jobOn d).isSome then
      (s.updCore d c fun k => { k with atBoundary := false, segReady := false, seg := k.seg + 1, pc := 0x40000 }).wr
        (R.CHIVE_STATUS_ACTIVE_BANK d) (setBits (s.rd (R.CHIVE_STATUS_ACTIVE_BANK d)) c.val 1 (1 - s.activeBank d c))
    else s)

/-- ECALL_JOB_END (R232, R269): ECALL with a7 = 0 ends the core's part of the job. -/
def execEcallJobEnd (d : DieId) (c : CoreId) (p : Progress) (s : State) : Host.Outcome State Fault Refusal :=
  let s1 := s.progress d c p
  .next (
    if s.coreInJob d c && ((s1.die d).core c).reg 17 = 0 then
      (s1.updCore d c fun k => { k with ended := true }).updJob (s.jobIdOn d) fun j =>
        { j with coresEnded := setBit j.coresEnded (8 * d.val + c.val) }
    else s)

/-! ### Debug halts (R108, R211, R396) -/

/-- DEBUG_HALT (R211, R108): with service rights, a core's issue and fetch stop, and the operations in progress in its
groups restart. -/
def execDebugHalt (d : DieId) (c : CoreId) (s : State) : Host.Outcome State Fault Refusal :=
  .next (
    if s.on R.SEC_STATE_SERVICE && s.inServ d && !((s.die d).core c).debugHalt then
      let s1 := (s.updCore d c fun k => { k with debugHalt := true }).showHalted d
      (List.range 4).foldl (fun (t : State) g => if t.ownerOf d g = c.val then t.restartGroup d g else t) s1
    else s)

/-- DEBUG_RESUME (R211): the halted core goes on. -/
def execDebugResume (d : DieId) (c : CoreId) (s : State) : Host.Outcome State Fault Refusal :=
  .next (
    if s.on R.SEC_STATE_SERVICE && ((s.die d).core c).debugHalt then
      (s.updCore d c fun k => { k with debugHalt := false }).showHalted d
    else s)

end Sys2Proof.Machine
end

