-- ==== Sys2Proof/Machine/FabricCheck.lean ====
section
/-! DEFINITION. The checks of a received frame (R328, R337), its acknowledgement (R335, R336), the loss of a peer
(R336), and the start of a session (R334, R394, R395). -/

namespace Sys2Proof.Machine

/-! ### The checks of R337 -/

/-- R5, R337: a frame dropped for cause k. FAB_FRAME_DROP is raised for the first of a cause and then once per 1,000 µs, and
RANGE with it where that is the check's code (DEDUCED, log 154); causes 0, 6 and 10 only count. -/
def State.frameDrop (s : State) (k : Nat) : State :=
  let s1 := s.inc (R.FAB_DROP_COUNT k) 1
  let due := match mapFind s.fab.dropAt k with
    | some t => decide (t + 1000000 ≤ s.time)
    | none => true
  if k = 0 || k = 6 || k = 10 || !due then s1
  else
    let s2 := (s1.updFab fun f => { f with dropAt := mapPut f.dropAt k s.time }).raise { code := Ev.FAB_FRAME_DROP, unit := Unit.FABRIC }
    if [1, 2, 3, 4, 7, 8].contains k then s2.raiseRange 8 Unit.FABRIC else s2

/-- R332: the bytes of a frame's Ethernet header as the part is configured. -/
def State.ethLen (s : State) : Nat := if s.on R.FAB_CFG_VLAN_EN then 18 else 14

/-- R328, R330: check 0: the destination is the port's own address, and the EtherType and the VLAN are as configured. -/
def State.ethOk (s : State) (p : Nat) (f : List Byte) : Bool :=
  f.take 6 == macOf (s.rd R.FAB_EPID_EPID) p &&
    (if s.on R.FAB_CFG_VLAN_EN then
      slice f 12 2 == [0x81, 0x00] && beNat (slice f 14 2) % 2 ^ 12 = s.rd R.FAB_CFG_VID && beNat (slice f 16 2) = s.rd R.FAB_CFG_ETYPE
     else beNat (slice f 12 2) = s.rd R.FAB_CFG_ETYPE)

/-- R333, R266: the entries of an ENTRY frame's payload: reserved tag bits zero, and a token carries TOKEN alone. -/
def entriesOk (n : Nat) (pay : List Byte) : Bool :=
  (List.range n).all fun i =>
    let t := leAt pay (2056 * i) 8
    t < 16 && (!bitOf t 2 || t = 4)

/-- R337: check 1 on a frame's header and payload. -/
def frameFormOk (b : List Byte) : Bool :=
  let h := parseAcxia (b.take 48)
  b.length = 64 + h.len && acxiaOk (b.take 48) && (h.type != Ft.ENTRY || entriesOk h.nent (slice b 48 h.len))

/-- What a received frame comes to after the checks that all types share: another state, or a header and payload. -/
inductive Rx where
  | done (s : State)
  | frame (h : Hdr) (pay : List Byte)

/-- R335: check 5 and the direction of a PSN from the cumulative one: ahead within the window, or behind. -/
def psnAhead (cum psn : Nat) : Nat := (psn + 2 ^ 24 - cum) % 2 ^ 24

/-- R336: a PSN that has been received. -/
def Conn.received (c : Conn) (psn : Nat) : Bool := decide (2 ^ 24 - 1024 ≤ psnAhead c.rxCum psn) || c.rxSeen.contains psn

/-- R337: checks 10, 0, 1, 3, 2 and 4 of a frame of a type on a port. A frame of another type is not this command's. -/
def State.rxHead (s : State) (p : Nat) (f : List Byte) (type : Nat) : Rx :=
  let n := f.length
  let b := (f.take (n - 4)).drop s.ethLen
  let h := parseAcxia (b.take 48)
  let pay := slice b 48 h.len
  let tag := slice b (48 + h.len) 16
  if !s.portsUp.contains p then .done s
  else if n < 4 || f.drop (n - 4) != fcs (f.take (n - 4)) then .done (s.frameDrop 10)
  else if !s.ethOk p f || 9216 < n then .done (s.frameDrop 0)
  else if !frameFormOk b then .done (s.frameDrop 1)
  else if h.type != type then .done s
  else if type = Ft.KEYX then
    (if tag != zeros 16 then .done (s.frameDrop 2)
     else if h.dst != s.rd R.FAB_EPID_EPID then .done (s.frameDrop 4) else .frame h pay)
  else
    match s.peerOf h.src, s.peerKey h.src with
    | some _, some key =>
      if tag != frameTag key h (b.take (48 + h.len)) then .done (s.frameDrop 2)
      else if h.dst != s.rd R.FAB_EPID_EPID then .done (s.frameDrop 4)
      else .frame h pay
    | some _, none => .done (s.frameDrop 2)
    | none, _ => .done (s.frameDrop 3)

/-- R336: a duplicate acknowledged again; that of an ATOMIC has its stored reply sent again. -/
def State.duplicate (s : State) (h : Hdr) : State :=
  let s1 := (s.frameDrop 6).sendAck h.src
  match (s.conn h.src).replies.find? (·.1 = h.psn) with
  | some (_, b) => if h.type = Ft.ATOMIC then s1.sendFrame h.src (parseAcxia b) [] else s1
  | none => s1

/-- R337: checks 10 to 6 of a frame that consumes a PSN. -/
def State.rxFrame (s : State) (p : Nat) (f : List Byte) (type : Nat) : Rx :=
  match s.rxHead p f type with
  | .done t => .done t
  | .frame h pay =>
    let c := s.conn h.src
    if c.received h.psn then .done (s.duplicate h)
    else if 1024 ≤ psnAhead c.rxCum h.psn then .done (s.frameDrop 5)
    else .frame h pay

/-- The cumulative PSN moved over the frames received without a gap (fuel: the frames). -/
def Conn.advance : Nat → Conn → Conn
  | 0, c => c
  | f + 1, c =>
    if c.rxSeen.contains c.rxCum then
      Conn.advance f { c with rxCum := (c.rxCum + 1) % 2 ^ 24, rxSeen := c.rxSeen.filter (· != c.rxCum) }
    else c

/-- R335: a frame recorded as received, and an ACK sent for every sixteenth. -/
def State.accept (s : State) (h : Hdr) : State :=
  let c := s.conn h.src
  let c1 := Conn.advance (c.rxSeen.length + 1) { c with rxSeen := h.psn :: c.rxSeen }
  let c2 := { c1 with ackCnt := c.ackCnt + 1, ackAt := if c.ackCnt = 0 then s.time else c.ackAt }
  let s1 := s.putConn c2
  if 16 ≤ c2.ackCnt then s1.sendAck h.src else s1

/-! ### The loss of a peer (R336) -/

/-- The jobs with a channel, a pending remote request or a held write involving a peer. -/
def State.jobsWith (s : State) (epid : Nat) : List Nat :=
  let fromMems := (s.fab.mems.filter (·.epid = epid)).map fun m => s.jobIdOn m.die
  let fromBinds := (s.fab.binds.filter fun b => s.rd (R.FAB_RXTAB_SRC b.1) = epid && !b.2.closed).map fun b => b.2.job
  let fromPosts := (s.fab.posts.filter fun q => leAt q.rec' 0 8 % 2 ^ 17 = epid).map fun q => s.jobIdOn q.die
  let fromHeld := (s.fab.held.filter (·.epid = epid)).map fun w => s.jobIdOn (hDie w.handle)
  ((fromMems ++ fromBinds ++ fromPosts ++ fromHeld).filter (· != 0)).eraseDups

/-- R342: a result written to a core's data memory, the second word before the first. -/
def State.remoteResult (s : State) (d c res code old : Nat) : State :=
  s.updCore d c fun k =>
    let m1 := mapPutBytes k.dmem (res + 8) (leBytes 8 old)
    { k with dmem := mapPutBytes m1 res (leBytes 8 (1 + code * 2 ^ 16)) }

/-- R336: a peer lost: FAB_PEER_LOST raised, its requests completed with that code, its held writes discarded, its
channels closed, and the jobs that involve it ended. -/
def State.peerLost (s : State) (epid : Nat) : State :=
  let jobs := s.jobsWith epid
  let mine (q : Post) : Bool := leAt q.rec' 0 8 % 2 ^ 17 = epid
  let s1 := s.raise { code := Ev.FAB_PEER_LOST, unit := Unit.FABRIC }
  let s2 := (s1.fab.posts.filter mine).foldl (fun t q => t.remoteResult q.die q.core (leAt q.rec' 0x30 8 % 2 ^ 18) Ev.FAB_PEER_LOST 0) s1
  let s3 := s2.updFab fun f =>
    { f with
      posts := f.posts.filter fun q => !mine q
      held := f.held.filter (·.epid != epid)
      mems := f.mems.map fun m => if m.epid = epid then { m with closed := true } else m
      keyx := f.keyx.filter (·.epid != epid) }
  let s4 := jobs.foldl (fun t j => t.endJob j 1 Ev.FAB_PEER_LOST) s3
  s4.putConn { s4.conn epid with unacked := [], heldTx := [] }

end Sys2Proof.Machine
end

