-- ==== Sys2Proof/Machine/Windows.lean ====
section
/-! DEFINITION. A core's accesses beyond its own data memory (R209, R250–R254, R279–R285, R342, R344, R345): window loads
and stores, sealed stores, scoped atomics, descriptor slots, copies, and the remote request port. -/

namespace Sys2Proof.Machine

/-! ### The address map (R209) -/

/-- Where an address of a core lies, outside data and instruction memory. -/
inductive Region where
  | status (q off : Nat)
  | port (off : Nat)
  | window (h off : Nat)
  | sealedWin (h off : Nat)
  | outside
  deriving DecidableEq, Repr

/-- R209: the bytes of private data memory. -/
def dataBytes : Nat := 0x4_0000

/-- Bytes of private data memory written. -/
def Core.put (k : Core) (a : Nat) (bs : List Byte) : Core := { k with dmem := mapPutBytes k.dmem a bs }

/-- R209: the region of an address. -/
def regionOf (a : Nat) : Region :=
  if 0x10_0000 ≤ a && a < 0x10_0400 then .status ((a - 0x10_0000) / 8) (a % 8)
  else if 0x10_2000 ≤ a && a < 0x10_2040 then .port (a - 0x10_2000)
  else if a / 2 ^ 48 = 0x0001 then .window (bits a 32 16) (bits a 0 32)
  else if a / 2 ^ 48 = 0x0101 then .sealedWin (bits a 32 16) (bits a 0 32)
  else .outside

/-- R268: the status word of a queue. -/
def State.statusWord (s : State) (d q : Nat) : Nat :=
  let f (x : Fld) : Nat := s.rd x * 2 ^ x.lo
  f (R.QCH_QSTAT_COUNT d q) + s.rd (R.QCH_QCFG_CAP d q) * 2 ^ 10 + s.rd (R.QCH_QCFG_CHAN d q) * 2 ^ 20 + f (R.QCH_QSTAT_WCLOSED d q) +
    f (R.QCH_QSTAT_RCLOSED d q) + f (R.QCH_QSTAT_PEER_CLOSED d q) + f (R.QCH_QSTAT_STALLED d q) + f (R.QCH_QSTAT_PUSHED d q) +
    f (R.QCH_QSTAT_DISCARDED d q)

/-- Two byte ranges share a byte. -/
def overlap (a n b m : Nat) : Bool := decide (a < b + m) && decide (b < a + n)

/-- A tensor's bytes meet a range of a handle. -/
def TDesc.meets (t : TDesc) (h off n : Nat) : Bool :=
  t.handle = h && decide (t.interval.1 < ((off + n : Nat) : Int)) && decide ((off : Int) ≤ t.interval.2)

/-- R279: an access of a core meets one of its outstanding accesses. -/
def State.tracked (s : State) (d c h off n : Nat) : Bool :=
  (s.flights.any fun f => f.mid = coreMid d c && f.chan = 0 && f.handle = h && overlap f.off f.bytes.length off n) ||
    (List.range 8).any fun e => (s.die e).copies.any fun j =>
      j.mid = coreMid d c && ((parseT j.dst).meets h off n || (parseT j.src).meets h off n)

/-- R279: the accesses of a core that are outstanding: its window stores on their way, and its copies, which hold both their
ranges. -/
def State.outstanding (s : State) (d c : Nat) : Nat :=
  (s.flights.filter fun f => f.mid = coreMid d c && f.chan = 0).length +
    2 * sumN ((List.range 8).map fun e => ((s.die e).copies.filter fun j => j.mid = coreMid d c).length)

/-- R279, R299, R301: an access of a core must wait: it meets an outstanding one, 16 are outstanding, or it falls on a stack
that issues no accesses. -/
def State.mustWait (s : State) (d c h off n : Nat) : Bool :=
  s.tracked d c h off n || 16 ≤ s.outstanding d c || s.accessWaits h off n

/-- R209, R245, R261: a core may read n bytes of a handle. -/
def State.mayLoad (s : State) (h off n : Nat) : Bool :=
  s.handleOk h && s.hBound h && s.hAttr h Attr.CRD && !s.readForbidden h && !s.hStale h && decide (off + n ≤ s.hLen h)

/-- R209, R245, R261: a core may write n bytes of a handle. -/
def State.mayStore (s : State) (h off n : Nat) : Bool :=
  s.handleOk h && s.hBound h && s.hAttr h Attr.CWR && !s.writeForbidden h && !s.hStale h && decide (off + n ≤ s.hLen h)

/-- A core as an initiator. -/
def State.coreWho (s : State) (d c : Nat) : Who := { mid := coreMid d c, job := s.jobIdOn d }

/-- A loaded value as rd receives it. -/
def loadExt (n : Nat) (isSigned : Bool) (x : Nat) : Nat := if isSigned then ofSigned 64 (toSigned (8 * n) x) else x

/-- The bytes of a stored register. -/
def Core.storeBytes (k : Core) (rs2 n : Nat) : List Byte := leBytes n (k.reg rs2)

/-! ### Loads and stores (R209, R279, R281) -/

/-- WINDOW_LOAD (R209, R257, R268, R279): a load of a core: a queue's status word, a handle's bytes, or, at an address of
its private data memory, the bytes there. -/
def execWindowLoad (d : DieId) (c : CoreId) (p : Progress) (rd : Fin 32) (addr : Word64) (width : AccessWidth)
    (isSigned : Bool) (ups : List Upset) (s : State) : Host.Outcome State Fault Refusal :=
  let n := width.bytes
  .next (
    if !s.coreInJob d c then s
    else
      let s1 := (s.plant ups).progress d c p
      if addr.toNat + n ≤ dataBytes then
        s1.retireAccess d c rd (loadExt n isSigned (leNat (((s1.die d).core c).bytes addr.toNat n)))
      else match regionOf addr.toNat with
      | .status q o =>
        if o + n ≤ 8 then s1.retireAccess d c rd (loadExt n isSigned (bits (s1.statusWord d q) (8 * o) (8 * n)))
        else s1.trap d c Trap.loadFault
      | .window h o =>
        if !s1.mayLoad h o n then s1.trap d c Trap.loadFault
        else if s1.mustWait d c h o n then s
        else
          let g := (s1.noteTorn h (s1.coreWho d c)).read h o n (s1.coreWho d c)
          if g.ue then (g.st.noteUe h true (s1.jobIdOn d)).trap d c Trap.loadFault
          else g.st.retireAccess d c rd (loadExt n isSigned (leNat g.bytes))
      | _ => s1.trap d c Trap.loadFault)

/-- R281, R282: a write of a core issued: within the die it lands at once, in issue order; across a bridge it lands
later (log 48). The state, and whether it was taken: a narrow write over an uncorrectable word is refused with a bus error
(R255, R293), at once or where it lands. -/
def State.issueWrite (s : State) (d c h off : Nat) (bs : List Byte) (isSealed : Bool) : State × Bool :=
  let home := (s.place h off).die
  let fl : Flight := { mid := coreMid d c, chan := 0, handle := h, off := off, bytes := bs, isSealed := isSealed,
                       seq := s.flightSeq, at_ := (s.die home).time }
  if isSealed || home != d then ({ s with flights := s.flights ++ [fl], flightSeq := s.flightSeq + 1 }, true)
  else s.writeBy h off bs (s.coreWho d c)

/-- The slot that an offset of a descriptor-table region lies in: the handle and, from bit 16 on, the slot's number. Below
slot 16,384 this is its descriptor reference (R191); a slot beyond has none and is still stored to. -/
def slotRef (h off : Nat) : Nat := h + off / 64 * 2 ^ 16

/-- R33: 64 bytes committed to a slot that `slotRef` gives. -/
def State.putSlot (s : State) (ref : Nat) (b : List Byte) : State :=
  { s.write (refHandle ref) (64 * (ref / 2 ^ 16)) (fit 64 b) with badSlots := s.badSlots.filter (· != ref) }

/-- R250: bytes put in the core's staging buffer for a slot; a new slot starts it afresh (DESIGN CHOICE, log 49). -/
def Core.stage (k : Core) (ref off : Nat) (bs : List Byte) : Core :=
  let old := if k.stageRef = some ref then fit 64 k.staging else zeros 64
  { k with stageRef := some ref, staging := putAt old off bs }

/-- What a store does by its region: a retired instruction, a trap, or a wait, in which nothing changes. -/
def State.coreStore (s : State) (d c n a : Nat) (bs : List Byte) : Option State :=
  let fault := s.trap d c Trap.storeFault
  let put (h o : Nat) (isSealed : Bool) : Option State :=
    if s.mustWait d c h o n || (isSealed && 32 ≤ s.sealPend (s.place h o).die) then none
    else
      let (s1, ok) := s.issueWrite d c h o bs isSealed
      some (if ok then s1.retireAccess d c 0 0 else s1.trap d c Trap.storeFault)
  if a + n ≤ dataBytes then some ((s.updCore d c fun k => k.put a bs).retireAccess d c 0 0)
  else match regionOf a with
  | .port o =>
    if n = 8 && o % 8 = 0 && o < 0x38 then
      some ((s.updCore d c fun k => { k with remote := k.remote.setIfInBounds (o / 8) (BitVec.ofNat 64 (leNat bs)) }).retireAccess d c 0 0)
    else if n = 8 && o = 0x38 then none
    else some fault
  | .window h o =>
    if !s.mayStore h o n then some fault
    else if s.hAttr h Attr.DESC then
      if o % 64 + n ≤ 0x38 then some ((s.updCore d c fun k => k.stage (slotRef h o) (o % 64) bs).retireAccess d c 0 0)
      else if o % 64 = 0x38 && n = 8 then none
      else some fault
    else put h o false
  | .sealedWin h o => if n < 4 || o % n != 0 || !s.mayStore h o n || s.hAttr h Attr.DESC then some fault else put h o true
  | _ => some fault

/-- A store instruction of a core. -/
def State.storeBy (s : State) (d c : Nat) (p : Progress) (rs2 a n : Nat) (ups : List Upset) : State :=
  if !s.coreInJob d c then s
  else
    let s1 := (s.plant ups).progress d c p
    (s1.coreStore d c n a (((s1.die d).core c).storeBytes rs2 n)).getD s

/-- WINDOW_STORE (R209, R245, R250, R281, R342): a store of a core: a handle's bytes, the staging of a descriptor slot or of a
remote request, or, at an address of its private data memory, the bytes there. -/
def execWindowStore (d : DieId) (c : CoreId) (p : Progress) (rs2 : Fin 32) (addr : Word64) (width : AccessWidth)
    (ups : List Upset) (s : State) : Host.Outcome State Fault Refusal :=
  .next (s.storeBy d c p rs2 addr.toNat width.bytes ups)

/-- SEALED_STORE (R209, R282): a naturally aligned store of 4 or 8 bytes through the sealed window, held at its
destination; it waits while the die holds 32. -/
def execSealedStore (d : DieId) (c : CoreId) (p : Progress) (rs2 : Fin 32) (addr : Word64) (width : AccessWidth) (s : State) :
    Host.Outcome State Fault Refusal := .next (s.storeBy d c p rs2 addr.toNat width.bytes [])

/-- FENCE (R280): every earlier access, atomic and copy of the core has landed, and every remote write has been
acknowledged. -/
def execFence (d : DieId) (c : CoreId) (p : Progress) (s : State) : Host.Outcome State Fault Refusal :=
  .next (
    if !s.coreInJob d c then s
    else
      let s1 := s.progress d c p
      if s1.settled d c && !(s1.fab.posts.any fun q => q.die = d.val && q.core = c.val) then s1.retire d c 0 0 else s)

/-! ### Scoped atomics (R283, R284) -/

/-- R283: what memory receives: `op` the operation, w its width in bits, the old value, rs2, and rd before. -/
def samoNew (op w old rs2 rd : Nat) : Nat :=
  let b := rs2 % 2 ^ w
  match op with
  | 0 => (old + b) % 2 ^ w
  | 1 => if toSigned w old < toSigned w b then b else old
  | 2 => if old < b then b else old
  | 3 => b
  | _ => if old = rd % 2 ^ w then b else old

/-- R283, R284: a scoped atomic of a core. -/
def State.samo (s : State) (d c : Nat) (p : Progress) (op : Nat) (rd rs1 rs2 : Nat) (scope : Nat) (wide : Bool)
    (ups : List Upset) : State :=
  if !s.coreInJob d c then s
  else
    let s1 := (s.plant ups).progress d c p
    let k := (s1.die d).core c
    let n := if wide then 8 else 4
    match regionOf (k.reg rs1) with
    | .window h o =>
      let w := s1.coreWho d c
      if o % n != 0 || !s1.mayLoad h o n || !s1.mayStore h o n || s1.hAttr h Attr.DESC then s1.trap d c Trap.storeFault
      else if s1.mustWait d c h o n then s
      else if 1 ≤ scope && s1.flights.any (fun f => f.mid = coreMid d c) then s
      else if scope = 3 && s1.fab.posts.any (fun q => q.die = d && q.core = c) then s
      else
        let g := (s1.noteTorn h w).read h o n w
        if g.ue then (g.st.noteUe h true (s1.jobIdOn d)).trap d c Trap.storeFault
        else
          let old := leNat g.bytes
          (g.st.write h o (leBytes n (samoNew op (8 * n) old (k.reg rs2) (k.reg rd)))).retire d c rd (loadExt n true old)
    | _ => s1.trap d c Trap.storeFault

/-- SAMO_ADD (R283). -/
def execSamoAdd (d : DieId) (c : CoreId) (p : Progress) (rd rs1 rs2 : Fin 32) (scope : Fin 4) (wide : Bool)
    (ups : List Upset) (s : State) : Host.Outcome State Fault Refusal := .next (s.samo d c p 0 rd rs1 rs2 scope wide ups)

/-- SAMO_MAX (R283). -/
def execSamoMax (d : DieId) (c : CoreId) (p : Progress) (rd rs1 rs2 : Fin 32) (scope : Fin 4) (wide : Bool)
    (ups : List Upset) (s : State) : Host.Outcome State Fault Refusal := .next (s.samo d c p 1 rd rs1 rs2 scope wide ups)

/-- SAMO_MAXU (R283). -/
def execSamoMaxu (d : DieId) (c : CoreId) (p : Progress) (rd rs1 rs2 : Fin 32) (scope : Fin 4) (wide : Bool)
    (ups : List Upset) (s : State) : Host.Outcome State Fault Refusal := .next (s.samo d c p 2 rd rs1 rs2 scope wide ups)

/-- SAMO_SWAP (R283). -/
def execSamoSwap (d : DieId) (c : CoreId) (p : Progress) (rd rs1 rs2 : Fin 32) (scope : Fin 4) (wide : Bool)
    (ups : List Upset) (s : State) : Host.Outcome State Fault Refusal := .next (s.samo d c p 3 rd rs1 rs2 scope wide ups)

/-- SAMO_CAS (R283). -/
def execSamoCas (d : DieId) (c : CoreId) (p : Progress) (rd rs1 rs2 : Fin 32) (scope : Fin 4) (wide : Bool)
    (ups : List Upset) (s : State) : Host.Outcome State Fault Refusal := .next (s.samo d c p 4 rd rs1 rs2 scope wide ups)

/-! ### Descriptor slots and copies (R250–R254) -/

/-- R250: a creation that is refused or fails: recorded and raised; `drop` leaves the slot not valid. -/
def State.creationFault (s : State) (d ref code : Nat) (drop : Bool) : State :=
  let s1 := ((s.wr (R.SPAD_TDFAULT_CODE d) code).wr (R.SPAD_TDFAULT_HANDLE d) (refHandle ref)).wr (R.SPAD_TDFAULT_SLOT d) (ref / 2 ^ 16)
  ({ s1 with badSlots := if drop && !s1.badSlots.contains ref then ref :: s1.badSlots else s1.badSlots }.spadCode d code).raise
    { code := code, src := d, unit := Unit.SPAD, job := s.jobIdOn d, detail := refHandle ref }

/-- R250: the slot may take a creation: it is not pending and holds no descriptor of another TYPE. -/
def State.slotFree (s : State) (ref : Nat) : Bool :=
  let t := leNat (s.peek (refHandle ref) (64 * (ref / 2 ^ 16)) 1)
  !(s.pendSlots.any fun p => p.1 = ref) && (t = 0 || t = 0x10 || t = 0x11)

/-- R250: a handle that a run-time tensor may not name. -/
def State.tensorBarred (s : State) (h : Nat) : Bool :=
  s.hAttr h Attr.CT || s.hAttr h Attr.KEY || s.hAttr h Attr.PROBE || s.hAttr h Attr.DESC

/-- R250, R261: the code with which a tensor's creation fails, in order. -/
def State.tensorFault (s : State) (b : List Byte) : Option Nat :=
  let t := parseT b
  if !s.tAligned t false then some Ev.ALIGN
  else if !s.tInRange b || s.tensorBarred t.handle then some Ev.RANGE
  else if s.hStale t.handle then some Ev.STALE_UNIT
  else none

/-- The store of the last word of a slot by a core: the reference and the 64 bytes, if the core may write there. -/
def State.slotCommit (s : State) (d c addr value : Nat) : Option (Nat × List Byte) :=
  match regionOf addr with
  | .window h o =>
    if s.mayStore h o 8 && s.hAttr h Attr.DESC && o % 64 = 0x38 then
      let k := (s.die d).core c
      some (slotRef h o, putAt (if k.stageRef = some (slotRef h o) then fit 64 k.staging else zeros 64) 0x38 (leBytes 8 value))
    else none
  | _ => none

/-- TENSOR_CREATE (R250): the store to offset 0x38 of a slot commits a tensor descriptor; any TYPE but 0x10 and 0x11 is
refused here. -/
def execTensorCreate (d : DieId) (c : CoreId) (p : Progress) (addr value : Word64) (s : State) :
    Host.Outcome State Fault Refusal :=
  .next (
    if !s.coreInJob d c then s
    else
      let s1 := s.progress d c p
      match s1.slotCommit d c addr.toNat value.toNat with
      | none => s1.trap d c Trap.storeFault
      | some (ref, b) =>
        let s2 := (s1.updCore d c fun k => { k with stageRef := none, staging := [] }).retireAccess d c 0 0
        if leAt b 0 1 = 0x11 then s
        else if leAt b 0 1 != 0x10 || !s1.slotFree ref then s2.creationFault d ref Ev.RANGE false
        else match s1.tensorFault b with
          | some code => s2.creationFault d ref code true
          | none => s2.putSlot ref b)

/-- R251: two tensors that a copy may join. -/
def TDesc.same (a b : TDesc) : Bool :=
  a.ndim = b.ndim && a.n0 = b.n0 && a.n1 = b.n1 && a.n2 = b.n2 && a.n3 = b.n3 && a.fmt = b.fmt && a.mod == b.mod && a.blk = b.blk

/-- R253: a copy that moves whole rows. -/
def contiguous (a b : TDesc) : Bool := a.s0 = a.unit && b.s0 = b.unit

/-- R250–R253, R261: the code with which a copy request fails at creation, in order; `src` the bytes of the slot that SRC
names. -/
def State.copyFault (s : State) (b src : List Byte) : Option Nat :=
  let t := parseT b
  let f := parseT src
  let barred (h : Nat) : Bool := s.tensorBarred h || s.hAttr h Attr.CONST
  if !s.tAligned t true || !s.tAligned f true then some Ev.ALIGN
  else if !s.tInRange b || !s.tInRange src || !(f.type = 0x10 || f.type = 0x11) || !t.same f || barred t.handle || barred f.handle ||
      (!contiguous t f && (t.blk != 0 || t.bits = 4)) then some Ev.RANGE
  else if s.hStale t.handle || s.hStale f.handle then some Ev.STALE_UNIT
  else if t.handle = f.handle && decide (t.interval.1 ≤ f.interval.2) && decide (f.interval.1 ≤ t.interval.2) then some Ev.OVERLAP
  else none

/-- The bytes of the slot that a copy's SRC names; zeros where there is none. -/
def State.copySource (s : State) (r : Nat) : List Byte :=
  if refNamesSlot r && s.slotOk r && !s.badSlots.contains (refKey r) then s.peek (refHandle r) (64 * refSlot r) 64 else zeros 64

/-- R279: a tensor's bytes meet an outstanding access of a core. -/
def State.trackedTensor (s : State) (d c : Nat) (t : TDesc) : Bool :=
  s.tracked d c t.handle t.interval.1.toNat (t.interval.2 + 1 - t.interval.1).toNat

/-- COPY_REQUEST (R251, R252, R279): a descriptor of TYPE 0x11 committed to a slot is queued on the copy unit of the die
that holds the slot; it waits while an outstanding access of the core meets either range, or the two do not fit beside
those outstanding. -/
def execCopyRequest (d : DieId) (c : CoreId) (p : Progress) (addr value : Word64) (s : State) :
    Host.Outcome State Fault Refusal :=
  .next (
    if !s.coreInJob d c then s
    else
      let s1 := s.progress d c p
      match s1.slotCommit d c addr.toNat value.toNat with
      | none => s1.trap d c Trap.storeFault
      | some (ref, b) =>
        let s2 := (s1.updCore d c fun k => { k with stageRef := none, staging := [] }).retireAccess d c 0 0
        if leAt b 0 1 != 0x11 then s
        else if !s1.slotFree ref then s2.creationFault d ref Ev.RANGE false
        else
          let src := s1.copySource (parseT b).src
          match s1.copyFault b src with
          | some code => s2.creationFault d ref code true
          | none =>
            let e := hDie (refHandle ref)
            if 15 ≤ s1.outstanding d c || s1.trackedTensor d c (parseT b) || s1.trackedTensor d c (parseT src) then s
            else (s2.putSlot ref b).updDie e fun x =>
              { x with copies := x.copies ++ [{ ref := ref, mid := coreMid d c, dst := b, src := src, at_ := (s.die e).time }] })

/-- R254: the copy status word. -/
def cstat (code : Nat) : Nat := 1 + 2 * b2n (code != 0) + code * 2 ^ 16

/-- The bytes that elements i to i + n − 1 of a tensor cover in a row. -/
def TDesc.coverIn (t : TDesc) (i n width u : Nat) : Nat :=
  (((List.range n).filter fun k => t.at_ (i + k) / width = u).length * t.bits) / 8

/-- R253, R255: elements stored from index i on, one access to each row: a row that they cover in part is read and corrected
first, and one that cannot be corrected is left as it is (DESIGN CHOICE, log 149). The flag tells of such a row. -/
def State.storeSpan (s : State) (t : TDesc) (i : Nat) (xs : List Nat) (w : Who) : State × Bool :=
  let width := s.hWidth t.handle
  let part := (s.units t i xs.length).filter fun u => t.coverIn i xs.length width u < width
  let (s1, bad) := s.readUnits t.handle part w
  ((List.range xs.length).foldl (fun (a : State) k =>
    if bad.contains (t.at_ (i + k) / width) then a else a.writeElem t (i + k) (xs.getD k 0)) s1, !bad.isEmpty)

/-- R253: the rows in scratchpad that a step of a transposing copy touches, by bank: those beyond the first of each bank add
a step each (R242). -/
def State.copyConflicts (s : State) (f t : TDesc) (i n : Nat) : Nat :=
  let rows (x : TDesc) : List Nat :=
    if s.hSpad x.handle then (s.units x i n).map fun u => (s.place x.handle (u * 128)).unit + hDie x.handle * 2 ^ 22 else []
  let all := (rows f ++ rows t).eraseDups
  all.length - (all.map (· / 65536)).eraseDups.length

/-- R253: the elements that the next step of a copy moves: the rest of a line of a contiguous copy, or 16 elements along
dimension 0 of a transposing one. -/
def CopyJob.span (j : CopyJob) : Nat :=
  let t := parseT j.dst
  let f := parseT j.src
  let line := j.done % f.n0
  if contiguous t f then f.n0 - line else min 16 (f.n0 - line)

/-- R299, R301: the next step of a copy waits for a stack that issues no accesses. -/
def State.copyHeld (s : State) (j : CopyJob) : Bool :=
  [parseT j.dst, parseT j.src].any fun t =>
    (s.units t j.done j.span).any fun u => s.accessWaits t.handle (u * s.hWidth t.handle) (s.hWidth t.handle)

/-- R251, R253, R254: the next elements of the copy at the head of a die's copy unit moved. The rest of the copy follows. -/
def State.copyStep (s : State) (d : Nat) (j : CopyJob) : State :=
  let t := parseT j.dst
  let f := parseT j.src
  let w : Who := { mid := j.mid, job := s.jobIdOn d }
  let n := j.span
  let s0 := if contiguous t f then s else s.inc (R.SPAD_CONFLICTS_COUNT d) (s.copyConflicts f t j.done n)
  let (s1, xs, bad) := (s0.noteTorn f.handle w).readSpan f j.done n w
  let (s2, lost) := s1.storeSpan t j.done xs w
  let code := if j.fault != 0 then j.fault else if s.hTorn f.handle then Ev.TORN else if bad || lost then Ev.ECC_UE else 0
  s2.updDie d fun x => { x with copies := x.copies.mapIdx fun k q =>
    if k = 0 then { q with done := j.done + n, fault := code, at_ := x.time } else q }

/-- The copy at the head of a die's copy unit moved on to its last element (fuel: its elements). -/
def State.copyAll (d : Nat) : Nat → State → State
  | 0, s => s
  | k + 1, s =>
    match (s.die d).copies with
    | j :: _ => if decide (j.done < (parseT j.src).count) && !s.copyHeld j then State.copyAll d k (s.copyStep d j) else s
    | [] => s

/-- R253, R254, R262: the copy at the head of a die's copy unit done: the scale array of a contiguous block-scaled tensor
follows its elements, TORN is cleared or set, and CSTAT is set in its slot. -/
def State.copyDone (s : State) (d : Nat) (j : CopyJob) : State :=
  let t := parseT j.dst
  let f := parseT j.src
  let s0 := s.updDie d fun x => { x with copies := x.copies.drop 1 }
  let (s1, bad) : State × Bool :=
    if t.blk = 0 then (s0, false)
    else
      let g := s0.readScales f { mid := j.mid, job := s.jobIdOn d }
      (g.st.writeScales t g.bytes, g.ue)
  let code := if j.fault != 0 then j.fault else if bad then Ev.ECC_UE else 0
  (s1.setTorn t.handle (b2n (code != 0))).putSlot j.ref (putAt (fit 64 j.dst) 0x3C (leBytes 4 (cstat code)))

/-- COPY_RUN (R251, R253, R254, R262): the oldest request of a die's copy unit runs to its end, unless it must wait for a stack: every element that has not
been moved, and the scale array of a contiguous block-scaled tensor; CSTAT is set in its slot. -/
def execCopyRun (d : DieId) (ups : List Upset) (s : State) : Host.Outcome State Fault Refusal :=
  let s := s.plant ups
  .next (match (s.die d).copies with
    | j :: _ =>
      let s1 := State.copyAll d (parseT j.src).count s
      match (s1.die d).copies with
      | k :: _ => if k.done < (parseT k.src).count then s1 else s1.copyDone d k
      | [] => s1
    | [] => s)

/-! ### Remote requests (R342, R344, R345) -/

/-- The fields of a remote request record. -/
structure Remote where
  dest : Nat
  ach : Nat
  op : Nat
  aop : Nat
  aw64 : Nat
  srch : Nat
  dsth : Nat
  len : Nat
  soff : Nat
  doff : Nat
  opnd : Nat
  cmp : Nat
  res : Nat
  deriving DecidableEq, Repr

/-- R342: a record read from its 64 bytes. -/
def parseRemote (b : List Byte) : Remote :=
  let w := leAt b 0 8
  let v := leAt b 8 8
  { dest := bits w 0 17, ach := bits w 32 16, op := bits w 48 2, aop := bits w 50 3, aw64 := bits w 53 1,
    srch := bits v 0 16, dsth := bits v 16 16, len := bits v 32 32, soff := leAt b 0x10 8, doff := leAt b 0x18 8,
    opnd := leAt b 0x20 8, cmp := leAt b 0x28 8, res := bits (leAt b 0x30 8) 0 18 }

/-- R342: a record that its table allows and whose source may be read. -/
def State.remoteOk (s : State) (b : List Byte) : Bool :=
  let r := parseRemote b
  let w := leAt b 0 8
  bits w 17 15 = 0 && bits w 54 10 = 0 && bits (leAt b 0x30 8) 18 46 = 0 && leAt b 0x38 8 = 0 && r.op != 3 && r.res % 8 = 0 &&
    r.res + 16 ≤ 2 ^ 18 && r.doff < 2 ^ 48 &&
    (if r.op = 2 then
      r.aop ≤ 4 && r.srch = 0 && r.len = 0 && r.soff = 0 && r.doff % (if r.aw64 = 1 then 8 else 4) = 0 && (r.aop = 4 || r.cmp = 0)
     else
      r.aop = 0 && r.aw64 = 0 && 64 ≤ r.len && r.len ≤ 8192 && r.len % 64 = 0 && r.soff % 64 = 0 && r.doff % 64 = 0 &&
        r.opnd = 0 && r.cmp = 0 && s.mayLoad r.srch r.soff r.len)

/-- The key of a core's write numbers for a destination and an Acxia channel (R344). -/
def wseqKey (smid dest ach : Nat) : Nat := (smid * 2 ^ 17 + dest) * 2 ^ 16 + ach

/-- R344, R345: a posted request may leave: a plain write at once; a sealed one after the earlier writes of the core on
its channel to other endpoints, an atomic after every earlier remote write of the core, have been acknowledged. -/
def mayLeave (earlier : List Post) (q : Post) : Bool :=
  let r := parseRemote q.rec'
  let mine := earlier.filter fun e => e.die = q.die && e.core = q.core && (parseRemote e.rec').op != 2
  match r.op with
  | 0 => true
  | 1 => !(mine.any fun e => (parseRemote e.rec').ach = r.ach && (parseRemote e.rec').dest != r.dest)
  | _ => mine.isEmpty

/-- The frame of a posted request (R332, R342). -/
def Post.hdr (q : Post) : Hdr :=
  let r := parseRemote q.rec'
  if r.op = 2 then
    { type := Ft.ATOMIC, wseq := q.num, smid := coreMid q.die q.core, aop := r.aop, aw64 := r.aw64, handle := r.dsth,
      off := r.doff, aux := r.opnd }
  else
    { type := Ft.WRITE, isSealed := r.op, ach := r.ach, wseq := q.num, smid := coreMid q.die q.core, handle := r.dsth,
      off := r.doff }

/-- The state with a post changed. -/
def State.markSent (s : State) (q : Post) : State :=
  s.updFab fun f => { f with posts := f.posts.map fun x => if x == q then { x with sent := true } else x }

/-- R342: a posted request's frame sent. A source word that cannot be corrected traps the core (DEDUCED, log 47). -/
def State.sendPost (s : State) (q : Post) : State :=
  let r := parseRemote q.rec'
  if r.op = 2 then (s.markSent q).sendFrame r.dest q.hdr (if r.aop = 4 then leBytes 8 r.cmp else [])
  else
    let g := s.read r.srch r.soff r.len (s.coreWho q.die q.core)
    if g.ue then (g.st.updFab fun f => { f with posts := f.posts.filter (· != q) }).trap q.die q.core Trap.loadFault
    else (g.st.markSent q).sendFrame r.dest q.hdr g.bytes

/-- Every posted request that may leave now leaves, in order (`done` the ones before). A request to an endpoint without
a session waits for one. -/
def State.pumpF : List Post → List Post → State → State
  | _, [], s => s
  | done, q :: qs, s =>
    let go := !q.sent && mayLeave done q && (s.peerKey (parseRemote q.rec').dest).isSome
    State.pumpF (done ++ [q]) qs (if go then s.sendPost q else s)

def State.pump (s : State) : State := s.pumpF [] s.fab.posts

/-- R342: the 64 bytes of a core's staged record with its last word. -/
def Core.record (k : Core) (value : Nat) : List Byte := ((k.remote.toList.take 7).flatMap fun w => leBytes 8 w.toNat) ++ leBytes 8 value

/-- R342: a record posted by a store to the port's last word. A record that may not be sent completes at once with
RANGE. -/
def State.postRemote (s : State) (d c : Nat) (b : List Byte) : State :=
  let r := parseRemote b
  if s.remoteOk b then
    let key := wseqKey (coreMid d c) r.dest r.ach
    let num := if r.op = 2 then s.fab.reqNo % 2 ^ 32 else mapGet 0 s.fab.wseq key % 2 ^ 32
    (s.updFab fun f => { f with
      posts := f.posts ++ [{ die := d, core := c, rec' := b, num := num }]
      wseq := if r.op = 2 then f.wseq else mapPut f.wseq key (num + 1)
      reqNo := if r.op = 2 then num + 1 else f.reqNo }).pump
  else if r.res % 8 = 0 && r.res + 16 ≤ 2 ^ 18 then s.remoteResult d c r.res Ev.RANGE 0
  else s

/-- R342: a store to the request port's last word by a core that has fewer than 16 requests posted. -/
def State.remotePost (s : State) (d c : Nat) (p : Progress) (value : Nat) (ops : List Nat) : State :=
  if !s.coreInJob d c then s
  else
    let s1 := s.progress d c p
    let b := ((s1.die d).core c).record value
    if !ops.contains (parseRemote b).op || 16 ≤ (s1.fab.posts.filter fun q => q.die = d && q.core = c).length then s
    else (s1.retireAccess d c 0 0).postRemote d c b

/-- REMOTE_WRITE (R342): a plain WRITE posted; a record with OP 0b11 is refused here. -/
def execRemoteWrite (d : DieId) (c : CoreId) (p : Progress) (value : Word64) (s : State) : Host.Outcome State Fault Refusal :=
  .next (s.remotePost d c p value.toNat [0, 3])

/-- REMOTE_SEALED_WRITE (R344). -/
def execRemoteSealedWrite (d : DieId) (c : CoreId) (p : Progress) (value : Word64) (s : State) :
    Host.Outcome State Fault Refusal := .next (s.remotePost d c p value.toNat [1])

/-- REMOTE_ATOMIC (R345). -/
def execRemoteAtomic (d : DieId) (c : CoreId) (p : Progress) (value : Word64) (s : State) : Host.Outcome State Fault Refusal :=
  .next (s.remotePost d c p value.toNat [2])

end Sys2Proof.Machine
end

