-- ==== Sys2Proof/Machine/Keyx.lean ====
section
/-! DEFINITION. Fabric sessions (R334, R394, R395): the KEYX exchange, the peer table and the renewal of a connection. -/

namespace Sys2Proof.Machine

/-! ### Payloads (R394) -/

/-- A KEYX payload up to its signature. -/
def kxBody (kx peer : Nat) (nonce epub chain : List Byte) : List Byte :=
  leBytes 4 kx ++ leBytes 4 peer ++ fit 32 nonce ++ fit 64 epub ++ leBytes 4 chain.length ++ zeros 4 ++ chain

/-- The payload's fields. -/
def kxNonce (b : List Byte) : List Byte := slice b 8 32
def kxPub (b : List Byte) : List Byte := slice b 0x28 64
def kxLen (b : List Byte) : Nat := leAt b 0x68 4
def kxChain (b : List Byte) : List Byte := slice b 0x70 (kxLen b)
def kxSigned (b : List Byte) : List Byte := b.take (0x70 + kxLen b)
def kxSig (b : List Byte) : List Byte := slice b (0x70 + kxLen b) 384

/-- R394: a payload of a kind whose fields its table allows. -/
def State.kxForm (s : State) (kx : Nat) (b : List Byte) : Bool :=
  leAt b 0 4 = kx && leAt b 4 4 = s.rd R.FAB_EPID_EPID && leAt b 0x6C 4 = 0 && kxLen b ≤ 7000 &&
    (if kx = 3 then kxLen b = 0 else 0 < kxLen b) && b.length = 0x70 + kxLen b + 384

/-- R394: what a received INIT or RESP must meet: the chain verifies, EPID and DIK hash are a pair of the roster, MEAS1
to MEAS3 are an accepted set, and the signature over the payloads so far verifies. -/
def State.kxTrusted (s : State) (epid : Nat) (before b : List Byte) : Bool × State :=
  match Config.chainOf (kxChain b) with
  | some c =>
    let known := s.inst.roster.contains (epid, c.dik) && s.inst.accepted.contains ((c.meas.drop 1).take 3)
    if known then s.verify c.ak (kxSig b) (before ++ kxSigned b) else (false, s)
  | none => (false, s)

/-- R394: the session key. -/
def kxKey (nonceA nonceB shared : List Byte) (e1 e2 : Nat) : List Byte :=
  hkdf (nonceA ++ nonceB) shared (ascii "ACXIA" ++ leBytes 4 (min e1 e2) ++ leBytes 4 (max e1 e2)) 32

/-- R398: a KEYX refusal. -/
def State.kxRefuse (s : State) (code : Nat) : State :=
  (s.secLast code Src.KEYX 0).raise { code := code, unit := Unit.SECURITY }

/-- The exchange under way with a peer. -/
def State.keyx? (s : State) (epid : Nat) : Option Keyx := s.fab.keyx.find? (·.epid = epid)

/-- The state with an exchange put in place, or dropped. -/
def State.putKeyx (s : State) (epid : Nat) (k : Option Keyx) : State :=
  s.updFab fun f => { f with keyx := f.keyx.filter (·.epid != epid) ++ k.toList }

/-- A KEYX frame sent; it consumes no PSN. -/
def State.sendKeyx (s : State) (epid : Nat) (payload : List Byte) : State :=
  let h : Hdr := { type := Ft.KEYX, len := payload.length, src := s.rd R.FAB_EPID_EPID, dst := epid }
  match s.launch epid (h.toBytes ++ payload) with
  | some (_, t) => t
  | none => s

/-- A payload completed with the part's signature over the earlier payloads and itself; none where it cannot be made. -/
def State.kxSeal (s : State) (before body : List Byte) : Option (List Byte) × State :=
  match s.sign 1 (before ++ body) with
  | (some sig, t) => (some (body ++ sig), t)
  | (none, t) => (none, t)

/-- R394: an INIT sent to a peer. Without random bits it is refused with TRNG_FAIL (R370). -/
def State.kxStart (s : State) (epid : Nat) : State :=
  match s.draw 64 with
  | none => s.kxRefuse Ev.TRNG_FAIL
  | some (r, s1) =>
    let secret := scalarOf (r.drop 32)
    match s1.kxSeal [] (kxBody 1 epid (r.take 32) (ecPub secret) s1.akChain) with
    | (some pay, s2) =>
      (s2.putKeyx epid (some { epid := epid, initiator := true, secret := secret, init := pay, at_ := s.time })).sendKeyx epid pay
    | (none, s2) => s2

/-! ### A new session (R334, R395) -/

/-- The peer-table entry that a session takes: the peer's own, or the first that is not valid. -/
def State.peerEntry (s : State) (epid : Nat) : Option Nat :=
  match s.peerOf epid with
  | some i => some i
  | none => (List.range 4096).find? fun i => !s.on (R.FAB_PEERTAB_V i)

/-- The number that a write in waiting takes in the new WSEQ space: old number to new, by core and Acxia channel. -/
def renumber (epid : Nat) (waits : Post → Bool) (posts : List Post) : List Post × NMap Nat :=
  posts.foldl (fun acc q =>
    let r := parseRemote q.rec'
    let key := wseqKey (coreMid q.die q.core) epid r.ach
    if r.dest = epid && r.op != 2 && waits q then
      let n := mapGet 0 acc.2 key
      (acc.1 ++ [{ q with num := n }], mapPut acc.2 key (n + 1))
    else (acc.1 ++ [q], acc.2)) ([], [])

/-- R334, R395: the PSN and WSEQ spaces of both directions restart, and the frames and requests held back go out under
the new key, numbered afresh. -/
def State.restartConn (s : State) (epid : Nat) : State :=
  let c := s.conn epid
  let heldHas (q : Post) : Bool := c.heldTx.any fun b =>
    let h := parseAcxia b
    h.type = Ft.WRITE && h.smid = coreMid q.die q.core && h.ach = (parseRemote q.rec').ach && h.wseq = q.num
  let waits (q : Post) : Bool := !q.sent || heldHas q
  let (posts, nums) := renumber epid waits (s.fab.posts.map fun q =>
    if (parseRemote q.rec').dest = epid && heldHas q then { q with sent := false } else q)
  let others := c.heldTx.filter fun b => (parseAcxia b).type != Ft.WRITE
  let s1 := (s.putConn { epid := epid, replies := [] }).updFab fun f =>
    { f with posts := posts, wseq := nums.foldl (fun m p => mapPut m p.1 p.2) (f.wseq.filter fun p => p.1 / 2 ^ 16 % 2 ^ 17 != epid) }
  (others.foldl (fun t b => t.sendFrame epid (parseAcxia b) (b.drop 48)) s1).pump

/-- R334, R394: a session key installed and the peer's entry written. Which of the peer's ports are up is not among what
the exchange carries (free value, log 63). -/
def State.newSession (s : State) (epid : Nat) (key : List Byte) : State :=
  match s.peerEntry epid with
  | some i =>
    let (n, s0) := s.fresh
    let s1 := ((((s0.wr (R.FAB_PEERTAB_EPID i) epid).wr (R.FAB_PEERTAB_V i) 1).wr (R.FAB_PEERTAB_PORTS i) (Config.freeNat n % 256)).wr
      (R.FAB_PEERTAB_KEYSLOT i) i)
    let s2 := s1.updFab fun f => { f with keys := mapPut f.keys i key }
    (s2.putKeyx epid none).restartConn epid
  | none => (s.putKeyx epid none).kxRefuse Ev.RANGE

/-- R395: a connection that is due and whose frames are all acknowledged is renewed. -/
def State.renew (s : State) (epid : Nat) : State :=
  let c := s.conn epid
  if c.spent && c.unacked.isEmpty && (s.keyx? epid).isNone then s.kxStart epid else s

/-! ### The rows -/

/-- An accepted INIT answered with RESP, and the exchange kept until DONE comes. -/
def State.kxAnswer (s : State) (epid : Nat) (init : List Byte) : State :=
  match s.draw 64 with
  | none => s.kxRefuse Ev.TRNG_FAIL
  | some (r, s1) =>
    let secret := scalarOf (r.drop 32)
    match s1.kxSeal init (kxBody 2 epid (r.take 32) (ecPub secret) s1.akChain) with
    | (some pay, s2) =>
      (s2.putKeyx epid (some { epid := epid, initiator := false, secret := secret, init := init, resp := pay, at_ := s.time })).sendKeyx
        epid pay
    | (none, s2) => s2

/-- KEYX_INIT (R394, R395): a received INIT. Where both sent one, the part with the lower EPID keeps its own; an INIT
sent again gets the same answer. -/
def execKeyxInit (p : Fin 8) (frame : List Byte) (s : State) : Host.Outcome State Fault Refusal :=
  .next (match s.rxHead p frame Ft.KEYX with
    | .done t => t
    | .frame h b =>
      if leAt b 0 1 != 1 then s
      else if !s.kxForm 1 b then s.kxRefuse Ev.RANGE
      else
        match s.keyx? h.src with
        | some k =>
          if !k.initiator && k.init = b then s.sendKeyx h.src k.resp
          else if k.initiator && s.rd R.FAB_EPID_EPID < h.src then s
          else
            let (ok, s1) := s.kxTrusted h.src [] b
            if ok then s1.kxAnswer h.src b else s1.kxRefuse Ev.RANGE
        | none =>
          let (ok, s1) := s.kxTrusted h.src [] b
          if ok then s1.kxAnswer h.src b else s1.kxRefuse Ev.RANGE)

/-- R394: the session key of an exchange by the part's own secret and the other's public key; none where the agreement
is refused. -/
def State.kxAgree (s : State) (k : Keyx) (init resp : List Byte) (pub : List Byte) : Option (List Byte) × State :=
  match s.agree k.secret pub with
  | (some x, t) => (some (kxKey (kxNonce init) (kxNonce resp) x (s.rd R.FAB_EPID_EPID) k.epid), t)
  | (none, t) => (none, t)

/-- KEYX_RESP (R394): the answer to the part's INIT: checked in the same way, DONE sent, the session begun. A DONE
carries the initiator's nonce and ephemeral key again (DESIGN CHOICE, log 56). -/
def execKeyxResp (p : Fin 8) (frame : List Byte) (s : State) : Host.Outcome State Fault Refusal :=
  .next (match s.rxHead p frame Ft.KEYX with
    | .done t => t
    | .frame h b =>
      if leAt b 0 1 != 2 then s
      else if !s.kxForm 2 b then s.kxRefuse Ev.RANGE
      else
        match s.keyx? h.src with
        | some k =>
          if !k.initiator then s
          else
            match s.kxTrusted h.src k.init b with
            | (true, s1) =>
              match s1.kxAgree k k.init b (kxPub b) with
              | (some key, s2) =>
                match s2.kxSeal (k.init ++ b) (kxBody 3 h.src (kxNonce k.init) (kxPub k.init) []) with
                | (some pay, s3) => (s3.sendKeyx h.src pay).newSession h.src key
                | (none, s3) => s3
              | (none, s2) => s2.kxRefuse Ev.RANGE
            | (false, s1) => s1.kxRefuse Ev.RANGE
        | none => s)

/-- KEYX_DONE (R394): the exchange that the peer began completes. -/
def execKeyxDone (p : Fin 8) (frame : List Byte) (s : State) : Host.Outcome State Fault Refusal :=
  .next (match s.rxHead p frame Ft.KEYX with
    | .done t => t
    | .frame h b =>
      if leAt b 0 1 != 3 then s
      else if !s.kxForm 3 b then s.kxRefuse Ev.RANGE
      else
        match s.keyx? h.src with
        | some k =>
          if k.initiator then s
          else
            match Config.chainOf (kxChain k.init) with
            | some c =>
              match s.verify c.ak (kxSig b) (k.init ++ k.resp ++ kxSigned b) with
              | (true, s1) =>
                match s1.kxAgree k k.init k.resp (kxPub k.init) with
                | (some key, s2) => s2.newSession h.src key
                | (none, s2) => s2.kxRefuse Ev.RANGE
              | (false, s1) => s1.kxRefuse Ev.RANGE
            | none => s.kxRefuse Ev.RANGE
        | none => s)

/-- KEYX_INIT_RESEND (R394): 5 ms after the last sending an unanswered INIT is sent again; after 20 sendings the peer is
lost. -/
def execKeyxInitResend (epid : BitVec 17) (s : State) : Host.Outcome State Fault Refusal :=
  .next (match s.keyx? epid.toNat with
    | some k =>
      if !k.initiator || s.time < k.at_ + 5000000 then s
      else if 20 ≤ k.sends then s.peerLost epid.toNat
      else (s.putKeyx epid.toNat (some { k with sends := k.sends + 1, at_ := s.time })).sendKeyx epid.toNat k.init
    | none => s)

/-! ### Ports (R329) -/

/-- The lanes of one half of a port (0 lanes 0–3, 1 lanes 4–7) are in order. -/
def halfOk (lanes half : Nat) : Bool := bits lanes (4 * half) 4 = 15

/-- R329, R454: a port that goes down leaves service. -/
def State.portDown (s : State) (p : Nat) : State :=
  let s1 := (s.wr (R.FAB_PORT_UP p) 0).wr R.FAB_CAPS_PORTS (clearBit (s.rd R.FAB_CAPS_PORTS) p)
  (s1.raise { code := Ev.FAB_LINK_DOWN, unit := Unit.FABRIC }).raise
    { code := Ev.UNIT_OUT, unit := Unit.FABRIC, detail := Unit.FABRIC + p * 2 ^ 8 }

/-- LANE_FAULT (R329, R454): a lane in use faults: the port retrains to its other half, or goes down. -/
def execLaneFault (p : Fin 8) (lane : Fin 8) (s : State) : Host.Outcome State Fault Refusal :=
  .next (
    let lanes := s.rd (R.FAB_PORT_LANE_OK p)
    if !bitOf (s.rd R.FAB_CAPS_PORTS) p || !bitOf lanes lane then s
    else
      let half := lane.val / 4
      let s1 := s.wr (R.FAB_PORT_LANE_OK p) (clearBit lanes lane)
      let used := !s.on (R.FAB_PORT_DEGRADED p) || s.rd (R.FAB_PORT_HALF p) = half
      if !used then s1
      else if halfOk lanes (1 - half) then
        let s2 := (((s1.wr (R.FAB_PORT_DEGRADED p) 1).wr (R.FAB_PORT_HALF p) (1 - half)).wr (R.FAB_PORT_UP p) 0).sat
          (R.FAB_PORT_RETRAINS p) 1
        (s2.raise { code := Ev.FAB_LANE_DEGRADED, unit := Unit.FABRIC }).raise
          { code := Ev.UNIT_OUT, unit := Unit.FABRIC, detail := Unit.FABRIC + p.val * 2 ^ 8 }
      else s1.portDown p)

/-- The peers of the roster with which no session and no exchange is there. -/
def State.strangers (s : State) : List Nat :=
  (s.inst.roster.map (·.1)).filter fun e =>
    e != s.rd R.FAB_EPID_EPID && (s.peerKey e).isNone && (s.keyx? e).isNone

/-- PORT_UP (R329, R394): a port in service completes its training or retrain and carries frames. The part then begins
the exchange with each peer of the roster that it has no session with (DESIGN CHOICE, log 57). -/
def execPortUp (p : Fin 8) (s : State) : Host.Outcome State Fault Refusal :=
  .next (
    if !bitOf (s.rd R.FAB_CAPS_PORTS) p || s.on (R.FAB_PORT_UP p) || s.rd R.SEC_STATE_STAGE = 0 then s
    else
      let s1 := if s.rd (R.FAB_PORT_LANE_OK p) = 0 then s.wr (R.FAB_PORT_LANE_OK p) 0xFF else s
      let s2 := s1.wr (R.FAB_PORT_UP p) 1
      if s2.on R.FAB_CFG_ENABLE then s2.strangers.foldl State.kxStart s2 else s2)

end Sys2Proof.Machine
end

