-- ==== Sys2Proof/Machine/FabricRx.lean ====
section
/-! DEFINITION. Received frames (R335–R345): entries with their lineage and credit, writes and atomics, their replies,
acknowledgements, and the timers of the transport. -/

namespace Sys2Proof.Machine

/-! ### ENTRY frames (R338–R340) -/

/-- R338: the valid receive binding of a source and channel whose queue is the frame's. -/
def State.rxBinding (s : State) (h : Hdr) : Option Nat :=
  (List.range 256).find? fun i =>
    s.on (R.FAB_RXTAB_V i) && s.rd (R.FAB_RXTAB_SRC i) = h.src && s.rd (R.FAB_RXTAB_ACH i) = h.ach && s.rd (R.FAB_RXTAB_RQ i) = h.rq

/-- R339, R349: a lineage record that Sage imports: a class that travels, and no reserved bit. -/
def importable (b : List Byte) : Bool :=
  let r := parseLin b
  1 ≤ r.cls && r.cls ≤ 3 && bits (leAt b 0 1) 6 2 = 0

/-- R339: a record as the receiving part enters it: its class, floor, link and chain, under the receiving job
(DESIGN CHOICE, log 41). -/
def imported (job : Nat) (b : List Byte) : LinRec :=
  let r := parseLin b
  { cls := r.cls, floor := r.floor, link := r.link, job := job % 2 ^ 32, chain := r.chain }

/-- What placing entries comes to: the state, and a code other than 0 where the frame fails check 9. -/
structure Placed where
  st : State
  code : Nat := 0

/-- R339: one token taken in: its lineage imported, its index rewritten, its count begun. -/
def State.placeToken (s : State) (i : Nat) (b : RxBind) (bytes : List Byte) : Placed :=
  let x := parseDesc (bytes.take 64)
  let q := s.rd (R.FAB_RXTAB_RQ i)
  if b.cover != 0 then ⟨s, Ev.FAB_LINEAGE⟩
  else if !x.isCt then ⟨s.push b.die q { bytes := fit 2048 (bytes.take 64), token := true }, 0⟩
  else
    let rs := (List.range x.M).map fun m => slice bytes (64 + 32 * m) 32
    if !rs.all importable then ⟨s, Ev.FAB_LINEAGE⟩
    else
      match s.assign (rs.map (imported b.job)) with
      | some (idx, s1) =>
        let tok : QEntry := { bytes := fit 2048 (Desc.toBytes { x with lineage := idx }), token := true }
        ⟨(s1.push b.die q tok).updBind i fun y => { y with cover := x.entries }, 0⟩
      | none => ⟨s, Ev.LINEAGE_FULL⟩

/-- R338, R339: one entry of a frame placed in its queue. -/
def State.placeEntry (s : State) (i : Nat) (e : List Byte) : Placed :=
  match mapFind s.fab.binds i with
  | none => ⟨s, Ev.FAB_LINEAGE⟩
  | some b =>
    let t := leAt e 0 8
    if bitOf t 2 then s.placeToken i b (e.drop 8)
    else if bitOf t 1 && b.cover = 0 then ⟨s, Ev.FAB_LINEAGE⟩
    else
      let s1 := if bitOf t 1 then s.updBind i fun y => { y with cover := y.cover - 1 } else s
      let q : QEntry := { bytes := fit 2048 (e.drop 8), dataT := bitOf t 0, ct := bitOf t 1, void := bitOf t 3 }
      ⟨s1.push b.die (s.rd (R.FAB_RXTAB_RQ i)) q, 0⟩

/-- The entries of a frame placed in order, up to the first that fails. -/
def placeAll (i : Nat) : List (List Byte) → State → Placed
  | [], s => ⟨s, 0⟩
  | e :: es, s =>
    let r := s.placeEntry i e
    if r.code = 0 then placeAll i es r.st else ⟨s, r.code⟩

/-- R340: a frame's entries at their turn: placed, or discarded with a CLOSE where the reader end has closed. A frame
that fails check 9 places nothing. -/
def State.placeFrame (s : State) (i : Nat) (h : Hdr) (pay : List Byte) : Placed :=
  if ((mapFind s.fab.binds i).map (·.closed)).getD true then ⟨s.sendClose i h.nent, 0⟩
  else
    let r := placeAll i (chunks 2056 pay) s
    if r.code = 0 then r else ⟨s, r.code⟩

/-- R339: a frame that fails check 9: counted, the receiver's end closed, the receiving job ended. -/
def State.lineageFail (s : State) (i code : Nat) : State :=
  match mapFind s.fab.binds i with
  | some b =>
    let s1 := s.frameDrop 9
    let s2 := if code = Ev.LINEAGE_FULL then s1.raise { code := code, unit := Unit.SAGE, job := b.job } else s1
    let s3 := s2.raise { code := Ev.FAB_LINEAGE, unit := Unit.FABRIC, job := b.job, detail := s.rd (R.FAB_RXTAB_RQ i) * 2 ^ 16 }
    (s3.closeReader b.die (s.rd (R.FAB_RXTAB_RQ i))).endJob b.job 1 code
  | none => s

/-- The frames that arrived before their turn and whose turn has come, placed in PSN order (fuel: the frames). A frame
that fails check 9 at its turn has been acknowledged (log 41). -/
def State.placeEarly (epid : Nat) : Nat → State → State
  | 0, s => s
  | f + 1, s =>
    let c := s.conn epid
    let due := c.early.filter fun e => !c.rxSeen.contains e.1
    match due with
    | [] => s
    | e :: es =>
      let e0 := es.foldl (fun a x => if psnAhead a.1 x.1 < 2 ^ 23 then a else x) e
      let s1 := s.putConn { c with early := c.early.filter fun x => x.1 != e0.1 }
      let h := parseAcxia (e0.2.take 48)
      let s2 := match s1.rxBinding h with
        | some i =>
          let r := s1.placeFrame i h (e0.2.drop 48)
          if r.code = 0 then r.st else r.st.lineageFail i r.code
        | none => s1
      State.placeEarly epid f s2

/-- RX_ENTRY (R337–R341): checks 7 to 9, credit, and the entries in PSN order. -/
def execRxEntry (p : Fin 8) (frame : List Byte) (s : State) : Host.Outcome State Fault Refusal :=
  .next (match s.rxFrame p frame Ft.ENTRY with
    | .done t => t
    | .frame h pay =>
      match s.rxBinding h with
      | none => s.frameDrop 7
      | some i =>
        let credit := ((mapFind s.fab.binds i).map (·.credit)).getD 0
        if credit < h.nent then s.frameDrop 8
        else
          let paid := s.updBind i fun b => { b with credit := b.credit - h.nent }
          let c := s.conn h.src
          if h.psn = c.rxCum then
            let r := paid.placeFrame i h pay
            if r.code = 0 then State.placeEarly h.src (c.early.length + 1) (r.st.accept h) else s.lineageFail i r.code
          else (paid.putConn { c with early := c.early ++ [(h.psn, h.toBytes ++ pay)] }).accept h)

/-! ### WRITE and ATOMIC frames (R343–R345) -/

/-- The key of a source's writes on a channel, and the numbers that have landed: the next expected, and those beyond. -/
def lanedKey (smid ach : Nat) : Nat := smid * 2 ^ 16 + ach

/-- The next number beyond those landed without a gap (fuel: the numbers). -/
def landedNext : Nat → Nat × List Nat → Nat × List Nat
  | 0, x => x
  | f + 1, (n, seen) => if seen.contains n then landedNext f (n + 1, seen.filter (· != n)) else (n, seen)

/-- R344: a write number recorded as landed. -/
def State.noteLanded (s : State) (epid smid ach wseq : Nat) : State :=
  let c := s.conn epid
  let (n, seen) := mapGet (0, []) c.landed (lanedKey smid ach)
  s.putConn { c with landed := mapPut c.landed (lanedKey smid ach) (landedNext (seen.length + 1) (n, wseq :: seen)) }

/-- R16, R343: the code with which the destination refuses a write or an atomic that carries a SMID, 0 where it does not. -/
def State.remoteRefusal (s : State) (smid h off n : Nat) (atomic : Bool) : Nat :=
  if listedMid smid && s.mayStore h off n && !s.hAttr h Attr.DESC && (!atomic || s.mayLoad h off n) then 0 else Ev.RANGE

/-- R343: the WACK of a write. -/
def State.wack (s : State) (epid smid ach wseq code : Nat) : State :=
  s.sendFrame epid { type := Ft.WACK, ach := ach, smid := smid, aux := code + wseq * 2 ^ 32 } []

/-- R343, R255: a remote write lands, or is refused, and its WACK goes out; either way its number no longer holds a
sealed write back (DEDUCED, log 55). -/
def State.landRemote (s : State) (w : HeldWrite) : State :=
  let code := s.remoteRefusal w.smid w.handle w.off w.bytes.length false
  let who : Who := { mid := 0x300 + w.port, job := s.jobIdOn (hDie w.handle) }
  let (code2, s1) : Nat × State :=
    if code != 0 then (code, s)
    else
      let (t, ok) := s.writeBy w.handle w.off w.bytes who
      (if ok then 0 else Ev.ECC_UE, t)
  let s2 := if code = Ev.RANGE then s1.raise { code := Ev.RANGE, unit := Unit.FABRIC, detail := w.handle } else s1
  (s2.noteLanded w.epid w.smid w.ach w.wseq).wack w.epid w.smid w.ach w.wseq code2

/-- RX_WRITE (R343, R344): a plain WRITE lands; a sealed one is held where its die has room for it. -/
def execRxWrite (p : Fin 8) (frame : List Byte) (s : State) : Host.Outcome State Fault Refusal :=
  .next (match s.rxFrame p frame Ft.WRITE with
    | .done t => t
    | .frame h pay =>
      let w : HeldWrite := { epid := h.src, port := p, smid := h.smid, ach := h.ach, wseq := h.wseq, handle := h.handle, off := h.off, bytes := pay,
                             at_ := (s.die (s.place h.handle h.off).die).time }
      let refused := s.remoteRefusal h.smid h.handle h.off h.len false != 0
      if s.accessWaits h.handle h.off h.len then s
      else if h.isSealed = 0 || refused then (s.accept h).landRemote w
      else if 32 ≤ s.sealPend (s.place h.handle h.off).die then s.frameDrop 11
      else (s.accept h).updFab fun f => { f with held := f.held ++ [w] })

/-- RX_ATOMIC (R336, R343, R345): performed at the home as scope 3; the reply is kept for a duplicate. -/
def execRxAtomic (p : Fin 8) (frame : List Byte) (s : State) : Host.Outcome State Fault Refusal :=
  .next (match s.rxFrame p frame Ft.ATOMIC with
    | .done t => t
    | .frame h pay =>
      let n := if h.aw64 = 1 then 8 else 4
      let who : Who := { mid := 0x300 + p.val, job := s.jobIdOn (hDie h.handle) }
      let code := s.remoteRefusal h.smid h.handle h.off n true
      let s0 := s.accept h
      if s.accessWaits h.handle h.off n then s else
      let (code2, old, s1) : Nat × Nat × State :=
        if code != 0 then (code, 0, s0.raise { code := Ev.RANGE, unit := Unit.FABRIC, detail := h.handle })
        else
          let g := (s0.noteTorn h.handle who).read h.handle h.off n who
          if g.ue then (Ev.ECC_UE, 0, g.st.noteUe h.handle true who.job)
          else
            let old := leNat g.bytes
            (0, old, g.st.write h.handle h.off (leBytes n (samoNew h.aop (8 * n) old h.aux (leNat pay))))
      let reply : Hdr := { type := Ft.AREPLY, ach := code2, smid := h.smid, wseq := h.wseq, aux := old }
      let c := s1.conn h.src
      let kept := (c.replies ++ [(h.psn, reply.toBytes)]).drop (c.replies.length + 1 - 64)
      (s1.putConn { c with replies := kept }).sendFrame h.src reply [])

/-- SEALED_WRITE_LAND (R282, R344): the held sealed write that is number i, the cores' own before those from the fabric,
lands once every earlier write of its source and channel has landed. -/
def execSealedWriteLand (i : Nat) (s : State) : Host.Outcome State Fault Refusal :=
  let mine := s.flights.filter (·.isSealed)
  .next (match mine[i]? with
    | some f =>
      if s.flights.any fun g => g.mid = f.mid && g.chan = f.chan && decide (g.seq < f.seq) then s
      else if s.accessWaits f.handle f.off f.bytes.length then s else s.landWrite f
    | none =>
      match s.fab.held[i - mine.length]? with
      | some w =>
        let next := (mapGet (0, []) (s.conn w.epid).landed (lanedKey w.smid w.ach)).1
        if s.accessWaits w.handle w.off w.bytes.length then s
        else if next = w.wseq then (s.updFab fun f => { f with held := f.held.filter (· != w) }).landRemote w else s
      | none => s)

/-! ### Replies (R336, R342–R345) -/

/-- A request completed: its result written, its place given back, and the requests that waited for it sent. -/
def State.completePost (s : State) (q : Post) (code old : Nat) : State :=
  ((s.remoteResult q.die q.core (parseRemote q.rec').res code old).updFab fun f => { f with posts := f.posts.filter (· != q) }).pump

/-- The sent request that a reply names. -/
def State.postOf (s : State) (epid smid num : Nat) (isAtomic : Bool) (ach : Nat) : Option Post :=
  s.fab.posts.find? fun q =>
    let r := parseRemote q.rec'
    q.sent && r.dest = epid && coreMid q.die q.core = smid && q.num = num && ((r.op = 2) == isAtomic) && (isAtomic || r.ach = ach)

/-- RX_WACK (R343): a remote write completes. -/
def execRxWack (p : Fin 8) (frame : List Byte) (s : State) : Host.Outcome State Fault Refusal :=
  .next (match s.rxFrame p frame Ft.WACK with
    | .done t => t
    | .frame h _ =>
      let s1 := s.accept h
      match s1.postOf h.src h.smid (h.aux / 2 ^ 32) false h.ach with
      | some q => s1.completePost q (h.aux % 2 ^ 16) 0
      | none => s1)

/-- RX_AREPLY (R345): a remote atomic completes with the old value. -/
def execRxAreply (p : Fin 8) (frame : List Byte) (s : State) : Host.Outcome State Fault Refusal :=
  .next (match s.rxFrame p frame Ft.AREPLY with
    | .done t => t
    | .frame h _ =>
      let s1 := s.accept h
      match s1.postOf h.src h.smid h.wseq true 0 with
      | some q => s1.completePost q h.ach h.aux
      | none => s1)

/-- RX_CREDIT (R340): credit added to a fabric channel's member. -/
def execRxCredit (p : Fin 8) (frame : List Byte) (s : State) : Host.Outcome State Fault Refusal :=
  .next (match s.rxFrame p frame Ft.CREDIT with
    | .done t => t
    | .frame h _ =>
      let s1 := s.accept h
      s1.updFab fun f => { f with mems := f.mems.map fun m =>
        if m.epid = h.src && s1.rd (R.QCH_CHTAB0_ACH m.die m.ch) = h.ach && s1.rd (R.QCH_CHTAB1_RQ m.die m.ch) = h.rq
        then { m with credit := m.credit + h.aux } else m })

/-- RX_CLOSE (R276, R340): the member has closed; the sender's status takes the count, and PEER_CLOSED is raised for the
first in a job. -/
def execRxClose (p : Fin 8) (frame : List Byte) (s : State) : Host.Outcome State Fault Refusal :=
  .next (match s.rxFrame p frame Ft.CLOSE with
    | .done t => t
    | .frame h _ =>
      let hit (m : TxMem) : Bool := m.epid = h.src && s.rd (R.QCH_CHTAB0_ACH m.die m.ch) = h.ach
      let s1 := (s.accept h).updFab fun f => { f with mems := f.mems.map fun m => if hit m then { m with closed := true } else m }
      (s.fab.mems.filter hit).foldl (fun t m => t.discard m.die (s.rd (R.QCH_CHTAB0_SQ m.die m.ch)) h.aux) s1)

/-! ### Acknowledgement and retransmission (R335, R336) -/

/-- R333: the frames that an ACK covers. -/
def ackCovers (cum map psn : Nat) : Bool :=
  decide (psnAhead psn cum < 2 ^ 23) || (psnAhead (cum + 1) psn < 32 && bitOf map (psnAhead (cum + 1) psn))

/-- The frames that an ACK's bitmap shows missing while a later one has been received. -/
def ackMissing (cum map psn : Nat) : Bool :=
  let k := psnAhead (cum + 1) psn
  k < 32 && !bitOf map k && decide (2 ^ (k + 1) ≤ map)

/-- RX_ACK (R336): the frames covered are let go, gaps are sent again, and a connection due for renewal is renewed. -/
def execRxAck (p : Fin 8) (frame : List Byte) (s : State) : Host.Outcome State Fault Refusal :=
  .next (match s.rxHead p frame Ft.ACK with
    | .done t => t
    | .frame h _ =>
      let cum := bits h.aux 0 24
      let map := bits h.aux 24 32
      let c := s.conn h.src
      let s1 := s.putConn { c with unacked := c.unacked.filter fun f => !ackCovers cum map f.psn }
      let gaps := (s1.conn h.src).unacked.filter fun f => ackMissing cum map f.psn
      (gaps.foldl (fun t f => t.resend h.src f.psn) s1).renew h.src)

/-- ACK_TIMER (R335): 2 µs after the first frame not yet acknowledged. -/
def execAckTimer (epid : BitVec 17) (s : State) : Host.Outcome State Fault Refusal :=
  let c := s.conn epid.toNat
  .next (if c.ackCnt = 0 || s.time < c.ackAt + 2000 then s else s.sendAck epid.toNat)

/-- RETRANSMIT_TIMEOUT (R336): a frame not acknowledged within RTO_US is sent again; sent RETRIES + 1 times without an
ACK, its peer is lost. -/
def execRetransmitTimeout (epid : BitVec 17) (psn : BitVec 24) (s : State) : Host.Outcome State Fault Refusal :=
  .next (match (s.conn epid.toNat).unacked.find? (fun f => f.psn = psn.toNat) with
    | some f =>
      if s.time < f.at_ + s.rd R.FAB_RTO_RTO_US * 1000 then s
      else if s.rd R.FAB_RTO_RETRIES + 1 ≤ f.sends then s.peerLost epid.toNat
      else s.resend epid.toNat psn.toNat
    | none => s)

end Sys2Proof.Machine
end

