-- ==== Sys2Proof/Machine/Fine.lean ====
section
/-! DEFINITION. Fine operations (R196–R199): their selectors, the checks that end the job, and what each computes on one
vector of 512 words. -/

namespace Sys2Proof.Machine

/-! ### The fine word (R196, R197) -/

/-- A queue that a selector names has a capacity (R265); a window's queue that is a channel sender may not be pushed to
(R102). -/
def State.selOk (s : State) (d x : Nat) (dst : Bool) : Bool :=
  match s.sel d x with
  | .queue q => s.rd (R.QCH_QCFG_CAP d q) != 0 && !(dst && 0x80 ≤ x && s.rd (R.QCH_QCFG_READER d q) = 0x30)
  | .tile t => dst || s.tileUsed d t
  | .scalar => !dst
  | .none => true
  | .bad => false

/-- What a fine operation takes of its word: which selectors, and how it uses the rest. -/
structure FineForm where
  dst : Bool
  srcs : Nat
  imm : Bool := false
  mode : Bool := true
  openOnly : Bool := false
  modOnly : Bool := false
  keepsDst : Bool := false
  scalarOnly : Bool := false
  queueOnly : Bool := false
  deriving DecidableEq, Repr

/-- R190, R196, R197: the word's fields are legal and those not used are zero, or all ones. -/
def State.fineWordOk (s : State) (d : Nat) (op : Issued) (f : FineForm) : Bool :=
  let used (b : Bool) (x : Nat) (dst : Bool) : Bool := if b then x != 0xFF && s.selOk d x dst else x = 0xFF
  let isTile (x : Nat) : Bool := match s.sel d x with | .tile _ => true | _ => false
  let isQueue (x : Nat) : Bool := x < 0x80
  let same : Bool := match s.sel d op.fDst with
    | .queue q => (List.range f.srcs).any fun i => s.sel d (op.fSrc i) == .queue q
    | _ => false
  bits op.word 58 6 = 0 && used f.dst op.fDst true && used (1 ≤ f.srcs) (op.fSrc 0) false && used (2 ≤ f.srcs) (op.fSrc 1) false &&
    (f.imm || op.fImm = 0) && !(f.dst && same) &&
    (!f.keepsDst || (isTile op.fDst && s.selOk d op.fDst false)) &&
    (!f.scalarOnly || (s.sel d (op.fSrc 0) == .scalar && isTile op.fDst)) &&
    (!f.queueOnly || (isQueue (op.fSrc 0) && (!f.dst || isQueue op.fDst))) &&
    (if !f.mode then !op.fOpen && op.fFormat = 0 && op.fChain = 0 && op.fLimb = 0
     else if op.fOpen then !f.modOnly && op.fChain = 0 && op.fLimb = 0
     else
      !f.openOnly && op.fFormat = 0 &&
        (match s.chain? op.fChain with
         | some ch => decide (op.fLimb < ch.L + ch.K)
         | none => false))

/-- The prime of a fine operation (R196). -/
def State.finePrime (s : State) (op : Issued) : Nat := (s.chainOf op.fChain).prime op.fLimb

/-! ### Operands -/

/-- The words of an entry; a VOID one counts as zero (R479). -/
def QEntry.words (e : QEntry) : List Nat := if e.void then List.replicate 512 0 else (wordsOf (fit 2048 e.bytes)).take 512

/-- What an operand gives: it must wait, it faults, or its 512 words with the state after the pop and the entry's DATA
tag. -/
inductive Operand where
  | wait
  | fault
  | value (xs : List Nat) (s : State) (data : Bool)

/-- R183, R197, R266: source i of a fine operation taken. -/
def State.takeSrc (s : State) (d : Nat) (op : Issued) (i : Nat) : Operand :=
  match s.sel d (op.fSrc i) with
  | .queue q =>
    match s.queue d q with
    | [] => .wait
    | e :: _ => if e.ct || e.token then .fault else .value e.words (s.pop d q) e.dataT
  | .tile t => .value (s.tileWords d t) s false
  | .scalar => .value (List.replicate 512 ((if i = 0 then op.k1 else op.k2).headD 0)) s false
  | _ => .value [] s false

/-- A tile register written whole: its in-use flag is set (R99). -/
def State.putTile (s : State) (d t : Nat) (xs : List Nat) : State :=
  (s.updDie d fun x => { x with tiles := mapPut x.tiles t (xs.map (BitVec.ofNat 32)) }).wr (R.BASIL_INUSE_INUSE d)
    (setBit (s.rd (R.BASIL_INUSE_INUSE d)) t)

/-- A destination can take a vector now. -/
def State.dstReady (s : State) (d : Nat) (op : Issued) : Bool :=
  match s.sel d op.fDst with
  | .queue q => s.canPush d q
  | _ => true

/-- A vector put to a fine operation's destination. A vector formed from an entry with the DATA tag carries it (DEDUCED,
log 52). -/
def State.putDst (s : State) (d : Nat) (op : Issued) (xs : List Nat) (data : Bool) : State :=
  match s.sel d op.fDst with
  | .queue q => s.push d q { bytes := fit 2048 (bytesOf xs), dataT := data }
  | .tile t => s.putTile d t xs
  | _ => s

/-! ### Running a fine operation -/

/-- R198: an operation code is one of a group's fine operations. -/
def fineCode (g opc : Nat) : Bool :=
  (0x50 ≤ opc && opc ≤ 0x52) ||
    (match g with
     | 0 => 0x08 ≤ opc && opc ≤ 0x0A
     | 1 => opc = 0x12
     | 2 => (0x20 ≤ opc && opc ≤ 0x24) || (0x38 ≤ opc && opc ≤ 0x3E)
     | _ => false)

/-- The fine operation at the head of a group, if it may start (R187): its tile registers are not in the other engine's use
(R126). -/
def State.fineAtHead (s : State) (d g : Nat) : Option Issued :=
  let x := (s.die d).group g
  match x.fifo, x.cur with
  | op :: _, none => if op.fine && (s.jobOn d).isSome && s.unitOn d g && !s.tileBusy d g op then some op else none
  | _, _ => none

/-- The fine operation at the head of a group, if it is the one that a table row names and may start. -/
def State.headFine (s : State) (d g opc : Nat) : Option Issued :=
  match s.fineAtHead d g with
  | some op => if op.opc = opc then some op else none
  | none => none

/-- R126, R134: a fine operation that faults with RANGE whatever its word: Mint's unit 0 is not enabled (log 51), or an
operation issued before it is in flight and writes the same tile register. -/
def State.fineBarred (s : State) (d g : Nat) (op : Issued) : Bool :=
  (g = 1 && !s.mintEnabled d 1) || s.tileClash d g op

/-- R110, R132: the unit of a group is stale for a fine operation; Mint's fine operations run on unit 0 (DESIGN CHOICE,
log 51). -/
def State.fineStale (s : State) (d g : Nat) (op : Issued) : Bool :=
  let ep (i : Nat) : Nat := op.epochs.getD i 0
  match g with
  | 0 => !s.on (R.BASIL_STATUS_ENTRY_OK d) || s.rd (R.BASIL_EPOCH_EPOCH d) != ep 0
  | 1 => !s.on (R.MINT_STATUS_ENTRY_OK0 d) || s.rd (R.MINT_EPOCH_EPOCH0 d) != ep 1
  | _ => !s.on (R.PARS_STATUS_ENTRY_OK0 d) || s.rd (R.PARS_EPOCH_EPOCH d) != ep 3

/-- R186, R187: the fine operation at a group's head completes after n steps. -/
def State.doneFine (s : State) (d g n : Nat) (op : Issued) : State :=
  ((s.addSteps d g n).updGroup d g fun x =>
    { x with fifo := x.fifo.drop 1, hist := keepHist x.hist op.ticket (2 ^ 16 + op.site * 2 ^ 32), retries := 0 }).touchGroup d g

/-- R199: any fault of a fine operation ends the job; it writes nothing. -/
def State.fineFault (s : State) (d g code : Nat) (op : Issued) : State :=
  (s.lastFault d g code op.site).fatal d g op.site code 0

/-- R190: a fine operation at a group's head whose code names none of the group's operations faults with RANGE; any other
waits for its own table row. -/
def State.illegalFine (s : State) (d g : Nat) : State :=
  match s.fineAtHead d g with
  | some op => if fineCode g op.opc then s else s.fineFault d g Ev.RANGE op
  | none => s

/-- R83, R112, R134: what a group's STATUS shows of a fine operation that has a MODE; FROW runs in FULL (R198). -/
def State.fineMode (s : State) (d g : Nat) (op : Issued) : State :=
  match g with
  | 0 => s.basilRuns d (b2n op.fOpen) 0
  | 1 => s.wr (R.MINT_STATUS_MODE d) (b2n op.fOpen)
  | _ => s.wr (R.PARS_STATUS_MODE d) (b2n op.fOpen)

/-- A fine operation on vectors: checks, sources, the function, the destination. `fn` gives the result, or none for a
fault with RANGE. -/
def State.runFine (s : State) (d g opc : Nat) (f : FineForm) (extra : State → Issued → Bool)
    (fn : State → Issued → List Nat → List Nat → List Nat → Option (List Nat)) : State :=
  match s.headFine d g opc with
  | none => s.illegalFine d g
  | some op =>
    if !s.fineWordOk d op f || !extra s op || s.fineBarred d g op then s.fineFault d g Ev.RANGE op
    else if s.fineStale d g op then s.fineFault d g Ev.STALE_UNIT op
    else if f.dst && !s.dstReady d op then s
    else match s.takeSrc d op 0 with
      | .wait => s
      | .fault => s.fineFault d g Ev.RANGE op
      | .value a s1 da =>
        match (if 2 ≤ f.srcs then s1.takeSrc d op 1 else .value [] s1 false) with
        | .wait => s
        | .fault => s.fineFault d g Ev.RANGE op
        | .value b s2 db =>
          let old : List Nat := match s.sel d op.fDst with
            | .tile t => s.tileWords d t
            | _ => []
          let s3 := if f.mode then s2.fineMode d g op else s2
          match fn s3 op a b old with
          | none => s.fineFault d g Ev.RANGE op
          | some xs => ((if f.dst then s3.putDst d op xs (da || db) else s3).doneFine d g 1 op)

/-! ### Basil: FLDS, FXCH, FROW (R82, R198) -/

/-- FLDS (R198): SRC0 loaded as row IMM of the idle stationary register. -/
def execFlds (d : DieId) (s : State) : Host.Outcome State Fault Refusal :=
  let form : FineForm := { dst := false, srcs := 1, imm := true, mode := false }
  .next (match s.headFine d 0 0x08 with
    | none => s.illegalFine d 0
    | some op =>
      if !s.fineWordOk d op form || s.fineBarred d 0 op then s.fineFault d 0 Ev.RANGE op
      else if s.fineStale d 0 op then s.fineFault d 0 Ev.STALE_UNIT op
      else match s.takeSrc d op 0 with
        | .wait => s
        | .fault => s.fineFault d 0 Ev.RANGE op
        | .value xs s1 _ =>
          (s1.updDie d fun x => { x with statIdle := mapPut x.statIdle op.fImm (xs.map (BitVec.ofNat 32)) }).doneFine d 0 1 op)

/-- FXCH (R82, R198): the next FROW exchanges the two stationary registers. -/
def execFxch (d : DieId) (s : State) : Host.Outcome State Fault Refusal :=
  .next (match s.headFine d 0 0x09 with
    | none => s.illegalFine d 0
    | some op =>
      if !s.fineWordOk d op { dst := false, srcs := 0, mode := false } || s.fineBarred d 0 op then s.fineFault d 0 Ev.RANGE op
      else if s.fineStale d 0 op then s.fineFault d 0 Ev.STALE_UNIT op
      else (s.updDie d fun x => { x with exchange := true }).doneFine d 0 1 op)

/-- A row of a stationary register: what was loaded into it; any other row of a register whose contents a change of mode or
configuration took is a row of free values (R83, log 147). -/
def statRow (m : NMap (List Word32)) (lost : Option Nat) (r : Nat) : List Nat :=
  match mapFind m r, lost with
  | some ws, _ => ws.map (·.toNat)
  | none, some n => (wordsOf (slice (Config.freeBytes n 1048576) (2048 * r) 2048)).take 512
  | none, none => []

/-- Row r of the idle stationary register. -/
def Die.idleRow (x : Die) (r : Nat) : List Nat := statRow x.statIdle x.idleLost r

/-- R82, R83: row r of the stationary register that FROW streams against: the idle one where the two are exchanged first, else
the active one. -/
def Die.streamRow (x : Die) (r : Nat) : List Nat := if x.exchange then x.idleRow r else statRow x.statActive x.activeLost r

/-- R78, R79, R198: one output row of the 512 × 512 array: exact column sums reduced, or the reduction of R63 over the
row's elements, P to an array row (DEDUCED, log 50). -/
def frowOut (q : Nat) (isOpen : Bool) (f : Nat) (stat : Nat → List Nat) (row : List Nat) : List Nat :=
  let rows := ((List.range 512).map fun r => (stat r).toArray).toArray
  let rv := row.toArray
  (List.range 512).map fun c =>
    if isOpen then
      let leaves := (List.range 512).flatMap fun r =>
        ((unpackWord f (rv.getD r 0)).zip (unpackWord f ((rows.getD r #[]).getD c 0))).map fun p =>
          leafValue 0 [(decElem f 0 p.1, decElem f 0 p.2)]
      openReduce leaves.length 1 leaves fun _ => 0
    else (foldUpTo (fun acc r => acc + rv.getD r 0 * (rows.getD r #[]).getD c 0) 0 0 512) % q

/-- FROW (R198): SRC0 streamed as one row against the active register, the two exchanged first where FXCH asked for
it. -/
def execFrow (d : DieId) (s : State) : Host.Outcome State Fault Refusal :=
  let out := s.runFine d 0 0x0A { dst := true, srcs := 1 }
    (fun t op => !op.fOpen || (1 ≤ op.fFormat && op.fFormat ≤ 5 && t.on (R.BASIL_CFG_OPEN_EN d)))
    (fun t op a _ _ => some (frowOut (t.finePrime op) op.fOpen op.fFormat (t.die d).streamRow a))
  let ran := decide (((out.die d).group 0).fifo.length < ((s.die d).group 0).fifo.length)
  .next (if ran && (out.die d).exchange then
      out.updDie d fun x =>
        { x with statActive := x.statIdle, statIdle := x.statActive, exchange := false, activeLost := x.idleLost, idleLost := x.activeLost }
    else out)

/-! ### Mint: FPERMV (R118, R198) -/

/-- R118: word p of a permutation table applied to a vector; none for an invalid word. -/
def permWord (q : Nat) (isOpen : Bool) (xs : Array Nat) (w : Nat) : Option Nat :=
  let neg := bitOf w 31
  let zero := bitOf w 30
  if bits w 18 12 != 0 || (neg && zero) || 512 ≤ bits w 0 18 then none
  else
    let x := xs.getD (bits w 0 18) 0
    some (if zero then 0 else if neg then (if isOpen then x ^^^ 2 ^ 31 else (q - x % q) % q) else if isOpen then x else x % q)

/-- A list of options with none absent. -/
def allSome {α : Type} : List (Option α) → Option (List α)
  | [] => some []
  | none :: _ => none
  | some a :: as => (allSome as).map (a :: ·)

/-- FPERMV (R198). -/
def execFpermv (d : DieId) (s : State) : Host.Outcome State Fault Refusal :=
  .next (s.runFine d 1 0x12 { dst := true, srcs := 2 }
    (fun t op => (match t.sel d (op.fSrc 1) with | .tile _ => true | _ => false) && (!op.fOpen || op.fFormat = 0))
    (fun t op a b _ => allSome (b.map (permWord (t.finePrime op) op.fOpen a.toArray))))

/-! ### Parsley on one vector (R64, R131, R198) -/

/-- An element-wise function on 512 words. -/
def zip3 (fn : Nat → Nat → Nat → Nat) (a b c : List Nat) : List Nat :=
  let B := b.toArray
  let C := c.toArray
  a.zipIdx.map fun (p : Nat × Nat) => fn p.1 (B.getD p.2 0) (C.getD p.2 0)

/-- VADD to VMAC on one vector. -/
def State.fineMod (s : State) (d opc srcs : Nat) (mac : Bool) : State :=
  s.runFine d 2 opc { dst := true, srcs := srcs, modOnly := true, keepsDst := mac } (fun _ _ => true)
    (fun t op a b old => some (zip3 (modFn opc (t.finePrime op)) a b old))

/-- FADD to FMIN on one vector: FP32, or two BF16 elements to a word, computed in FP32 and rounded on store. A SCALAR is
FP32 bits (R123). -/
def fineOpen (opc f : Nat) (sa sb : Bool) (a b old : List Nat) : List Nat :=
  if f = 0 then zip3 (openFn opc) a b old
  else
    let up (x : Nat) : Nat := rne32 (decElem 1 0 x)
    let two (sc : Bool) (x i : Nat) : Nat := if sc then x else up (bits x (16 * i) 16)
    zip3 (fun x y z =>
      let r (i : Nat) : Nat := (storeElem 1 0 (dec32 (openFn opc (two sa x i) (two sb y i) (up (bits z (16 * i) 16))))).code
      r 0 + r 1 * 2 ^ 16) a b old

/-- FADD to FMIN as fine operations. -/
def State.fineFloat (s : State) (d opc : Nat) (mac : Bool) : State :=
  s.runFine d 2 opc { dst := true, srcs := 2, openOnly := true, keepsDst := mac }
    (fun t op => op.fFormat ≤ 1 && t.on (R.PARS_CFG_OPEN_EN d) && t.on (R.PARS_CAPS_FP32 d) &&
      (op.fFormat = 0 || t.on (R.PARS_CAPS_BF16 d)))
    (fun t op a b old => some (fineOpen opc op.fFormat (t.sel d (op.fSrc 0) == .scalar) (t.sel d (op.fSrc 1) == .scalar) a b old))

/-- FINE_VADD (R198). -/
def execFineVadd (d : DieId) (s : State) : Host.Outcome State Fault Refusal := .next (s.fineMod d 0x20 2 false)

/-- FINE_VSUB (R198). -/
def execFineVsub (d : DieId) (s : State) : Host.Outcome State Fault Refusal := .next (s.fineMod d 0x21 2 false)

/-- FINE_VNEG (R198). -/
def execFineVneg (d : DieId) (s : State) : Host.Outcome State Fault Refusal := .next (s.fineMod d 0x22 1 false)

/-- FINE_VMUL (R198). -/
def execFineVmul (d : DieId) (s : State) : Host.Outcome State Fault Refusal := .next (s.fineMod d 0x23 2 false)

/-- FINE_VMAC (R198): DST = SRC0 × SRC1 + DST, DST a tile register. -/
def execFineVmac (d : DieId) (s : State) : Host.Outcome State Fault Refusal := .next (s.fineMod d 0x24 2 true)

/-- FINE_FADD (R198). -/
def execFineFadd (d : DieId) (s : State) : Host.Outcome State Fault Refusal := .next (s.fineFloat d 0x38 false)

/-- FINE_FSUB (R198). -/
def execFineFsub (d : DieId) (s : State) : Host.Outcome State Fault Refusal := .next (s.fineFloat d 0x39 false)

/-- FINE_FMUL (R198). -/
def execFineFmul (d : DieId) (s : State) : Host.Outcome State Fault Refusal := .next (s.fineFloat d 0x3A false)

/-- FINE_FFMA (R198): DST = fma32(SRC0, SRC1, DST), DST a tile register. -/
def execFineFfma (d : DieId) (s : State) : Host.Outcome State Fault Refusal := .next (s.fineFloat d 0x3B true)

/-- FINE_FMAX (R198). -/
def execFineFmax (d : DieId) (s : State) : Host.Outcome State Fault Refusal := .next (s.fineFloat d 0x3C false)

/-- FINE_FMIN (R198). -/
def execFineFmin (d : DieId) (s : State) : Host.Outcome State Fault Refusal := .next (s.fineFloat d 0x3D false)

/-- FINE_FCVT (R198): FP32 SRC0 converted to FMT without scales; the codes are packed from the vector's first word on
and the rest is zero. -/
def execFineFcvt (d : DieId) (s : State) : Host.Outcome State Fault Refusal :=
  .next (s.runFine d 2 0x3E { dst := true, srcs := 1, openOnly := true }
    (fun t op => fmtOk op.fFormat 0 && t.on (R.PARS_CFG_OPEN_EN d) && t.on (R.PARS_CAPS_FP32 d))
    (fun _ op a _ _ =>
      let codes := a.map fun x => (storeElem op.fFormat 0 (dec32 x)).code
      some (wordsOf (fit 2048 (packElems (fmtBits op.fFormat) codes)))))

/-! ### QMOVE, QDROP, TSET -/

/-- The IMM field of the operation at a group's head lowered by what has been moved. -/
def Issued.lessImm (op : Issued) (n : Nat) : Issued := { op with word := setBits op.word 49 9 (op.fImm - n) }

/-- R198, R199: n entries moved or dropped, one step each; the operation completes with its last. -/
def State.afterMove (s : State) (d g n : Nat) (op : Issued) : State :=
  if op.fImm ≤ n then s.doneFine d g n op
  else ((s.addSteps d g n).updGroup d g fun x => { x with fifo := op.lessImm n :: x.fifo.drop 1 }).touchGroup d g

/-- One entry moved from queue q to queue p, while there is one and there is room: the state and how many of n. -/
def State.moveF (d q p : Nat) : Nat → State → Nat → State × Nat
  | 0, s, k => (s, k)
  | n + 1, s, k =>
    match s.queue d q with
    | e :: _ => if s.canPush d p then State.moveF d q p n ((s.pop d q).push d p e) (k + 1) else (s, k)
    | [] => (s, k)

/-- QMOVE (R198): IMM entries moved from queue SRC0 to queue DST with their tags, as far as entries and room allow; one
with the CT tag faults (R183). -/
def execQmove (d : DieId) (g : Fin 3) (s : State) : Host.Outcome State Fault Refusal :=
  .next (match s.headFine d g 0x50 with
    | none => s.illegalFine d g
    | some op =>
      if !s.fineWordOk d op { dst := true, srcs := 1, imm := true, mode := false, queueOnly := true } || op.fImm = 0 ||
          s.fineBarred d g op then
        s.fineFault d g Ev.RANGE op
      else if s.fineStale d g op then s.fineFault d g Ev.STALE_UNIT op
      else if ((s.queue d (op.fSrc 0)).take op.fImm).any (·.ct) then s.fineFault d g Ev.RANGE op
      else
        let (s1, n) := State.moveF d (op.fSrc 0) op.fDst op.fImm s 0
        if n = 0 then s else s1.afterMove d g n op)

/-- QDROP (R198): IMM entries of queue SRC0 popped and discarded, as far as there are any. -/
def execQdrop (d : DieId) (g : Fin 3) (s : State) : Host.Outcome State Fault Refusal :=
  .next (match s.headFine d g 0x51 with
    | none => s.illegalFine d g
    | some op =>
      if !s.fineWordOk d op { dst := false, srcs := 1, imm := true, mode := false, queueOnly := true } || op.fImm = 0 ||
          s.fineBarred d g op then
        s.fineFault d g Ev.RANGE op
      else if s.fineStale d g op then s.fineFault d g Ev.STALE_UNIT op
      else
        let es := (s.queue d (op.fSrc 0)).take op.fImm
        if es.any (·.ct) then s.fineFault d g Ev.RANGE op
        else if es.isEmpty then s
        else (s.popN d (op.fSrc 0) es.length).afterMove d g es.length op)

/-- TSET (R198): the SCALAR SRC0 written to all 512 words of tile register DST. -/
def execTset (d : DieId) (g : Fin 3) (s : State) : Host.Outcome State Fault Refusal :=
  .next (s.runFine d g 0x52 { dst := true, srcs := 1, mode := false, scalarOnly := true } (fun _ _ => true)
    (fun _ _ a _ _ => some a))

end Sys2Proof.Machine
end

