-- ==== Sys2Proof/Machine/JobStart.lean ====
section
/-! DEFINITION. Steps 2 to 6 of a job's life (R235): the job-start reset (R476), what the loader writes (R87, R216, R259,
R286, R338, R341), the hashing and capture of the inputs (R459, R461), a replay's restored inputs (R462), the release of
the cores (R188, R208, R233), and the natural end (R236). -/

namespace Sys2Proof.Machine

/-! ### Whether a job may start (R410, R419) -/

/-- R410, R419: on a die, every gap item reserved before a job has run; a check or self-test that is pending no more has
nothing left to run, and a reserved calibration runs (DEDUCED, log 134). -/
def State.gapsPassed (s : State) (d job : Nat) : Bool :=
  let p := s.paceOf d
  let due (item : Nat) : Bool :=
    if item = 0 then true
    else if item = 1 then p.pend = 2
    else chkAll.any fun u => 2 + u.val = item && s.checkPending d u
  !(p.gaps.any fun g => decide (g.2 ≤ job) && due g.1)

/-- R410: a job has its turn on every die that it binds. -/
def State.jobTurn (s : State) (j : Job) : Bool :=
  j.phase == .waiting && !(s.jobs.any fun k => k.live && decide (k.id < j.id) && k.dieMap.any j.dieMap.contains) &&
    j.dieMap.all fun d => s.gapsPassed d j.id

/-! ### The job-start reset (R476) -/

/-- R476: the fields that the job-start reset restores: the RWL fields and the LOCK bits of the engine, stream and queue
blocks of a die. -/
def jobStartFields (d : Nat) : List Fld :=
  (regsCd2 ++ regsCd3 ++ regsCd4 ++ regsCd5 ++ regsCd6 ++ regsCd7 ++ regsCdA).flatMap fun r =>
    (r.fields.filter fun f => f.acc == .rwl || r.lock == some (r.off, f.lo)).map fun f =>
      ({ addr := cdBase d + r.off, lo := f.lo, w := f.w, rst := f.rst } : Fld)

/-- R476: the job-start reset of a die. -/
def State.jobStartReset (s : State) (d : Nat) : State := (jobStartFields d).foldl (fun t f => t.wr f f.rst) s

/-- R235, R476: the units of a die enabled and the locks set again. -/
def State.enableDie (s : State) (d : Nat) : State :=
  let fs : List (Fld × Nat) := [
    (R.BASIL_CFG_ENABLE d, s.rd (R.BASIL_CAPS_PRESENT d)), (R.MINT_CFG_ENABLE0 d, s.rd (R.MINT_CAPS_PRESENT0 d)),
    (R.MINT_CFG_ENABLE1 d, s.rd (R.MINT_CAPS_PRESENT1 d)), (R.PARS_CFG_ENABLE d, s.rd (R.PARS_CAPS_PRESENT d)),
    (R.DILL_CFG_ENABLE0 d, s.rd (R.DILL_CAPS_PRESENT d)), (R.DILL_CFG_ENABLE1 d, s.rd (R.DILL_CAPS_PRESENT d)),
    (R.TARR_CFG_ENABLE d, s.rd (R.TARR_CAPS_PRESENT d)), (R.STRM_CFG_ENABLE d, 1), (R.QCH_CFG_ENABLE d, 1),
    (R.BASIL_CFG_LOCK d, 1), (R.MINT_CFG_LOCK d, 1), (R.PARS_CFG_LOCK d, 1), (R.DILL_CFG_LOCK d, 1),
    (R.TARR_CFG_LOCK d, 1), (R.STRM_CFG_LOCK d, 1), (R.QCH_CFG_LOCK d, 1)]
  fs.foldl (fun t p => t.wr p.1 p.2) s

/-! ### The regions that the loader writes: seeds, key orders, stream programs -/

/-- R87: element j of seed vector v of a prime q with root ψ. -/
def seedElem (logn q ψ v j : Nat) : Nat :=
  let N1 := n1Of logn
  let N2 := n2Of logn
  let ω := invMod q ψ
  match v with
  | 0 => powMod q ψ (N2 * j)
  | 1 => powMod q ψ (2 * N2 * j)
  | 2 => powMod q ψ j
  | 3 => powMod q ψ (2 * j)
  | 4 => powMod q ψ (2 * N1 * j)
  | 5 => powMod q ω (2 * N1 * j)
  | 6 => invMod q (2 ^ logn) * powMod q ω j % q
  | 7 => powMod q ω (2 * j)
  | _ => powMod q ω ((2 * j + 1) * N2)

/-- R87: the elements of vector v that are used. -/
def seedLen (logn v : Nat) : Nat := if v = 0 || v = 1 || v = 8 then n1Of logn else n2Of logn

/-- R87: the table of a chain: nine vectors of 512 residues for each prime. -/
def seedTable (c : Chain) : List Byte :=
  (List.range c.primes.length).flatMap fun i =>
    (List.range 9).flatMap fun v =>
      fit 2048 ((List.range (seedLen c.logn v)).flatMap fun j => leBytes 4 (seedElem c.logn (c.prime i) (c.root i) v j))

/-- R87: the region of a die: the directory of 64 entries in its first 2,048 bytes, then the tables. -/
def seedRegion (chains : List Chain) : List Byte :=
  let r := chains.foldl (fun (a : List Byte × List Byte) c =>
    (putAt a.1 (8 * c.id) (leBytes 8 (2048 + a.2.length)), a.2 ++ seedTable c)) (zeros 2048, [])
  r.1 ++ r.2

/-- A region of the loader's own at an index of a die's table, filled with bytes: in durable banks (LOC 1) or in the
die's stacked memory (LOC 2); none where there is no room. -/
def State.putRegion (s : State) (d i loc attr : Nat) (bs : List Byte) : Option State :=
  let len := ceilDiv bs.length 2048 * 2048
  let h := d * 256 + i
  let s1 := if s.on (R.SPAD_HTAB0_V d i) then s.freeEntry h else s
  if loc = 1 then
    (((s1.putStackEntry d i 1 attr len 0 0xF 0).wr (R.SPAD_HTAB0_BOUND d i) 0).bindSpad d i).map fun t => t.write h 0 (fit len bs)
  else (s1.placeRange 2 d len).map fun a => (s1.putStackEntry d i 2 attr len a 0xF 0).write h 0 (fit len bs)

/-- The indices of the loader's own regions. -/
abbrev seedIdx : Nat := 0xF0
abbrev progIdx : Nat := 0xF1
abbrev orderIdx : Nat := 0xF8

/-- R87: the seed vectors of the image's chains on a die; a die without durable banks has none (log 72). -/
def State.putSeeds (s : State) (d : Nat) (img : List Byte) : State :=
  match s.putRegion d seedIdx 1 (2 ^ Attr.CONST) (seedRegion ((imgChains img).map parseChain)) with
  | some t => t.wr (R.BASIL_TSEED_HANDLE d) (d * 256 + seedIdx)
  | none => s

/-- R216: a key order with the handle of the installed region in place of each requirement. -/
def State.workingOrder (s : State) (d : Nat) (j : Job) (img order : List Byte) : List Byte :=
  (chunks 16 order).flatMap fun e =>
    putAt e 4 (leBytes 2 ((s.keyFor d j.inputs (imgKreq img (leAt e 4 2))).getD nullHandle))

/-- R216: the working key order of a context on a die. -/
def State.putOrder (s : State) (d ctx : Nat) (j : Job) (img : List Byte) (i : Nat) : Option State :=
  let order := imgOne img Sec.KEYORDER i ctx
  let base : Fld := if ctx = 0 then R.DILL_KOBASE_HANDLE0 d else R.DILL_KOBASE_HANDLE1 d
  if order.isEmpty then some (s.wr base nullHandle)
  else (s.putRegion d (orderIdx + ctx) 2 (2 ^ Attr.KEY) (s.workingOrder d j img order)).map fun t => t.wr base (d * 256 + orderIdx + ctx)

/-- R202: the stream programs of a die. -/
def State.putProgs (s : State) (d : Nat) (img : List Byte) (i : Nat) : Option State :=
  let progs := imgOne img Sec.STREAMS i 0
  if progs.isEmpty then some (s.wr (R.SU_PROGBASE_HANDLE d) nullHandle)
  else (s.putRegion d progIdx 2 0 progs).map fun t => t.wr (R.SU_PROGBASE_HANDLE d) (d * 256 + progIdx)

/-! ### Buffers (R257, R259) -/

/-- R259: the transient buffers of an image bound, zeroed and clean; none where one does not fit now. -/
def State.bindTransients : List Nat → State → Option State
  | [], s => some s
  | h :: hs, s =>
    if s.hLoc h = 0 then
      match s.bindSpad (hDie h) (hIdx h) with
      | some t => State.bindTransients hs (t.zeroRange h)
      | none => none
    else State.bindTransients hs s

/-- The handle of the buffer that receives constant table i of an accepted image: what R215 wrote over the buffer number
where a relocation names it. -/
def constHandle (img : List Byte) (dies : List Nat) (m : List (Nat × Nat)) (i : Nat) : Option Nat :=
  let no := leAt (((imgEntry img i).bytes img)) 2 2
  if (imgRelocs img).contains (i, 2) then some no else handleOf m (dies.getD (imgEntry img i).die 8) no

/-- R257, R259: a STALE durable buffer written again from the image. -/
def State.refresh (s : State) (img : List Byte) (dies : List Nat) (m : List (Nat × Nat)) (h : Nat) : State :=
  let is := (List.range (leAt img 6 2)).filter fun i => (imgEntry img i).type = Sec.CONST && constHandle img dies m i == some h
  is.foldl (fun t i =>
    let b := (imgEntry img i).bytes img
    t.write h (leAt b 8 8) (slice b 64 (leAt b 0x10 8))) ((s.zeroRange h).setStale h 0)

/-- R259: a durable buffer that must be written again spans a bank whose scrub has not completed. -/
def State.scrubPending (s : State) (h : Nat) : Bool :=
  s.hStale h && s.hAttr h Attr.CONST && s.hSpad h &&
    (List.range (s.rd (R.SPAD_HTAB0_BANK_CNT (hDie h) (hIdx h)))).any fun k =>
      bitOf (s.die (hDie h)).scrubbing (s.rd (R.SPAD_HTAB0_BANK_LO (hDie h) (hIdx h)) + k)

/-- R259: every STALE buffer of an image with CONST refreshed. -/
def State.refreshStale (s : State) (img : List Byte) (dies : List Nat) (m : List (Nat × Nat)) : State :=
  (m.map (·.2)).foldl (fun t h => if t.hStale h && t.hAttr h Attr.CONST then t.refresh img dies m h else t) s

/-! ### The fabric (R338, R340, R341, R347) -/

/-- R347: a receive entry is used by a running job. -/
def State.rxUsed (s : State) (i : Nat) : Bool :=
  match mapFind s.fab.binds i with
  | some b => s.jobs.any fun j => j.id = b.job && j.phase == .running
  | none => false

/-- An entry of the receive table names a source and channel. -/
def State.rxNames (s : State) (i src ach : Nat) : Bool :=
  s.on (R.FAB_RXTAB_V i) && s.rd (R.FAB_RXTAB_SRC i) = src && s.rd (R.FAB_RXTAB_ACH i) = ach

/-- R338: an image's receive bindings find entries: no running job's entry has the same source and channel (DESIGN
CHOICE, log 73). -/
def State.rxRoom (s : State) (img : List Byte) : Bool :=
  let free := (List.range 256).filter fun i => !s.rxUsed i
  decide ((imgAllRx img).length ≤ free.length) &&
    !((imgAllRx img).any fun r => (List.range 256).any fun i => s.rxUsed i && s.rxNames i r.2.1 r.2.2.1)

/-- R338, R340: one receive binding written and opened, with the queue's room as credit. -/
def State.openRx (s : State) (j : Job) (r : Nat × Nat × Nat × Nat) : State :=
  let d := j.dieMap.getD r.1 8
  let s0 := (List.range 256).foldl (fun (t : State) i =>
    if !t.rxUsed i && t.rxNames i r.2.1 r.2.2.1 then
      (t.wr (R.FAB_RXTAB_V i) 0).updFab fun f => { f with binds := mapDel f.binds i }
    else t) s
  match (List.range 256).find? fun i => !s0.rxUsed i && (mapFind s0.fab.binds i).map (·.job) != some j.id with
  | none => s0
  | some i =>
    let fs : List (Fld × Nat) := [
      (R.FAB_RXTAB_SRC i, r.2.1), (R.FAB_RXTAB_V i, 1), (R.FAB_RXTAB_DIE i, r.1), (R.FAB_RXTAB_ACH i, r.2.2.1),
      (R.FAB_RXTAB_RQ i, r.2.2.2)]
    let s1 := fs.foldl (fun t p => t.wr p.1 p.2) s0
    (s1.updFab fun f => { f with binds := mapPut f.binds i { job := j.id, die := d } }).grant i (s1.rd (R.QCH_QCFG_CAP d r.2.2.2))

/-- R341: a multicast group written. -/
def State.putMcast (s : State) (g : Nat × List Nat) : State :=
  (List.range 64).foldl (fun (t : State) i =>
    (t.wr (R.FAB_MCAST_EPID g.1 i) (g.2.getD i 0)).wr (R.FAB_MCAST_V g.1 i) (b2n (decide (i < g.2.length)))) s

/-- R340, R341: the members of the fabric channels of a die, with no credit. -/
def State.openMems (s : State) (img : List Byte) (i d : Nat) : State :=
  let ms : List TxMem := (((imgChans img i).zipIdx).filter fun p => p.1.en).flatMap fun (p : ChanRec × Nat) =>
    if p.1.kind = 1 then [({ die := d, ch := p.2, epid := p.1.dest } : TxMem)]
    else if p.1.kind = 2 then (imgMembers img p.1.dest).map fun e => ({ die := d, ch := p.2, epid := e } : TxMem)
    else []
  s.updFab fun f => { f with mems := f.mems.filter (·.die != d) ++ ms }

/-! ### Inputs: digests, captures and replays (R459, R461, R462) -/

/-- R391, R392: the host's access to a handle revoked: HOST, CRD and CWR cleared, its aperture windows closed. -/
def State.revokeHost (s : State) (h : Nat) : State :=
  let f := R.SPAD_HTAB0_ATTR (hDie h) (hIdx h)
  let s1 := s.wr f (clearBit (clearBit (clearBit (s.rd f) Attr.HOST) Attr.CRD) Attr.CWR)
  (List.range 64).foldl (fun (t : State) w => if t.rd (R.HIF_APWIN_HANDLE w) = h then t.wr (R.HIF_APWIN_EN w) 0 else t) s1

/-- R462: captured data written to a handle and its attribute made CT. -/
def State.restoreBuffer (s : State) (h : Nat) (bs : List Byte) : State :=
  (((s.revokeHost h).write h 0 bs).wr (R.SPAD_HTAB0_ATTR (hDie h) (hIdx h)) (2 ^ Attr.CT)).setTorn h 0

/-- R462: one captured input restored into the slot and the handles that its entry names. -/
def State.restoreInput (s : State) (j : Job) (ref : Nat) (obj : List Byte × List (List Byte)) : State :=
  let now := fit 64 (s.peek (refHandle ref) (64 * refSlot ref) 64)
  if leAt obj.1 0 1 = 0x10 then
    let t := { parseT obj.1 with handle := (parseT now).handle }
    let xs := unpackElems t.bits t.count (obj.2.getD 0 [])
    let s1 := ((s.revokeHost t.handle).writeElems t 0 xs).writeScales t (obj.2.getD 1 [])
    ((s1.wr (R.SPAD_HTAB0_ATTR (hDie t.handle) (hIdx t.handle)) (2 ^ Attr.CT)).setTorn t.handle 0).writeSlot ref
      (putAt obj.1 4 (leBytes 2 t.handle))
  else
    let x := parseDesc now
    let s1 := (x.handles.zip obj.2).foldl (fun (t : State) (p : Nat × List Byte) => t.restoreBuffer p.1 p.2) s
    let c := parseDesc obj.1
    let y := { c with h0 := x.h0, h1 := x.h1, h2 := x.h2 }
    if y.isCt then
      match s1.assignRecs 0 j.id (List.replicate y.M ({ cls := Cls.DERIVED, floor := 1, job := j.id % 2 ^ 32 } : LinRec)) with
      | (some l, s2) => (s2.writeSlot ref (Desc.toBytes { y with lineage := l })).bindDesc { y with lineage := l }
      | (none, s2) => s2.writeSlot ref (Desc.toBytes { y with lineage := 0 })
    else s1.writeSlot ref y.toBytes

/-- R462: the captured inputs of a replay restored. -/
def State.restoreAll (s : State) (j : Job) (c : Capture) : State :=
  (j.inputs.zip c.objs).foldl (fun (t : State) p => t.restoreInput j p.1.1 p.2) s

/-- R459, R461: every input hashed and copied in one pass: descriptors with their data, and IDIG values. -/
def State.hashInputs (s : State) (j : Job) : State × List (List Byte × List (List Byte)) × List (List Byte) :=
  j.inputs.foldl (fun (acc : State × List (List Byte × List (List Byte)) × List (List Byte)) p =>
    let g := acc.1.readSlot p.1 { mid := 2, job := j.id }
    let b := fit 64 g.bytes
    let (s1, data) := g.st.objData b j.id
    (s1, acc.2.1 ++ [(b, data)], acc.2.2 ++ [sha256 (digestHead b ++ chunkTree data.flatten)])) (s, [], [])

/-- R459: KEYDIG over the key regions of the job's working orders. -/
def State.keydig (s : State) (j : Job) (img : List Byte) : List Byte :=
  let one (ctx i : Nat) : List Byte :=
    let d := j.dieMap.getD i 8
    (chunks 16 (imgOne img Sec.KEYORDER i ctx)).flatMap fun e =>
      match s.keyFor d j.inputs (imgKreq img (leAt e 4 2)) with
      | some h => s.peek h 0 512 ++ (mapGet (0, []) s.keyBodies h).2
      | none => []
  sha256 (((List.range j.dieMap.length).flatMap (one 0)) ++ (List.range j.dieMap.length).flatMap (one 1))

/-- R461: a capture that may not be evicted: armed, or being replayed. -/
def State.pinned (s : State) (c : Capture) : Bool :=
  (s.on R.RPL_ARM_EN && s.rd R.RPL_ARM_JOBID = c.job) || s.jobs.any fun j => j.live && j.replayOf = c.job

/-- The captures left after the oldest that may go are evicted until `need` bytes fit (fuel: the captures). -/
def State.makeRoom (s : State) (need : Nat) : Nat → List Capture → List Capture
  | 0, cs => cs
  | f + 1, cs =>
    if sumN (cs.map (·.size)) + need ≤ s.reserveBytes then cs
    else
      match firstIdx (fun c => !s.pinned c) cs with
      | some i => s.makeRoom need f (cs.eraseIdx i)
      | none => cs

/-- RPL_USED as the captures stand. -/
def State.countCaptures (s : State) : State :=
  (s.wr R.RPL_USED_CAPTURES s.captures.length).wr R.RPL_USED_MIB (ceilDiv (sumN (s.captures.map (·.size))) (2 ^ 20))

/-- R461: a job's inputs captured, or RPL_FULL. A capture takes its descriptors and its data (DESIGN CHOICE, log 74). -/
def State.capture (s : State) (j : Job) (objs : List (List Byte × List (List Byte))) (idigs : List (List Byte)) : State :=
  let size := sumN (objs.map fun o => 64 + sumN (o.2.map (·.length)))
  let cs := s.makeRoom size s.captures.length s.captures
  if sumN (cs.map (·.size)) + size ≤ s.reserveBytes then
    let c : Capture := { job := j.id, digest := j.digest, seed := j.seed, inputs := j.inputs, objs := objs, idigs := idigs, odigest := [], size := size }
    ({ s with captures := cs ++ [c] }.countCaptures).updJob j.id fun k => { k with captured := true }
  else { s with captures := cs }.countCaptures.raise { code := Ev.RPL_FULL, unit := Unit.LOADER, job := j.id }

/-! ### The cores (R188, R208, R233) -/

/-- R188: the epochs of a die's units, in the order that an issue carries them. -/
def State.epochsOf (s : State) (d : Nat) : List Nat :=
  [s.rd (R.BASIL_EPOCH_EPOCH d), s.rd (R.MINT_EPOCH_EPOCH0 d), s.rd (R.MINT_EPOCH_EPOCH1 d), s.rd (R.PARS_EPOCH_EPOCH d),
   s.rd (R.TARR_EPOCH_EPOCH d), s.rd (R.DILL_EPOCH_EPOCH d)]

/-- R208, R233: a core prepared: registers zero, data memory from DATA, the first segment loaded into the inactive bank
and swapped in. -/
def State.prepareCore (s : State) (d c : Nat) (img : List Byte) (i : Nat) : State :=
  let bank := 1 - s.activeBank d c
  let old := (s.die d).core c
  let fresh : Core := { bank0 := old.bank0, bank1 := old.bank1, debugHalt := old.debugHalt, epochs := s.epochsOf d,
                        dmem := mapPutBytes [] 0 (imgOne img Sec.DATA i c) }
  (s.updCore d c fun _ => fresh.load bank (imgOne img Sec.CODE i c)).wr (R.CHIVE_STATUS_ACTIVE_BANK d)
    (setBits (s.rd (R.CHIVE_STATUS_ACTIVE_BANK d)) c 1 bank)

/-- R235 step 3: the die supervisor's part on a die. -/
def State.runCores (s : State) (d : Nat) (img : List Byte) (i : Nat) : State :=
  let cs := (List.range 7).filter fun c => imgHas img Sec.CODE i c
  let s1 := cs.foldl (fun (t : State) c => t.prepareCore d c img i) s
  let mask := sumN (cs.map fun c => 2 ^ c)
  ((s1.wr (R.CHIVE_RUN_RUN d) mask).wr (R.CHIVE_STATUS_TRAPPED d) 0).showHalted d

/-! ### JOB_START -/

/-- R235 step 2 on one die: what the loader writes; none where a region finds no room. -/
def State.loadDie (s : State) (j : Job) (img : List Byte) (i : Nat) : Option State :=
  let d := j.dieMap.getD i 8
  let s1 := ((((s.jobStartReset d).configDie d img i).putSeeds d img).enableDie d)
  let s2 := ((s1.wr (R.DILL_ORDER_NEXT0 d) 0).wr (R.DILL_ORDER_NEXT1 d) 0).wr (R.STRM_LAYER_COUNT d) 0
  let s3 : State := (s2.updDie d fun x => { x with groups := Vector.replicate 4 {}, sunits := Vector.replicate 16 {}, txns := [] }).wr
    (R.SU_BUSY_BUSY d) 0
  match s3.putOrder d 0 j img i with
  | some s4 =>
    match s4.putOrder d 1 j img i with
    | some s5 => s5.putProgs d img i
    | none => none
  | none => none

/-- R235 step 2 on every die, by logical number. -/
def State.loadDies (j : Job) (img : List Byte) : List Nat → State → Option State
  | [], s => some s
  | i :: is, s =>
    match s.loadDie j img i with
    | some t => State.loadDies j img is t
    | none => none

/-- R235 step 2: the configuration of a job; none where its buffers or regions find no room yet, or a scrub of a bank that must be
written again is pending (R259). -/
def State.configJob (s : State) (j : Job) (img : List Byte) : Option State :=
  let m := mapGet [] s.slotBufs j.slot
  let s0 := j.dieMap.foldl (fun (t : State) d => t.updPace d fun p => { p with gaps := p.gaps.filter fun g => decide (j.id < g.2) }) s
  match if (m.map (·.2)).any s0.scrubPending then none else State.bindTransients (m.map (·.2)) s0 with
  | none => none
  | some s1 =>
    match State.loadDies j img (List.range j.dieMap.length) (s1.refreshStale img (mapGet [] s.slotDies j.slot) m) with
    | none => none
    | some s2 =>
      let s3 := (imgAllRx img).foldl (fun (t : State) r => t.openRx j r) s2
      let s4 := (imgAllMcast img).foldl State.putMcast s3
      some ((List.range j.dieMap.length).foldl (fun (t : State) i => t.openMems img i (j.dieMap.getD i 8)) s4)

/-- R235 steps 2 and 3, R459–R462: a job whose turn has come is configured, its inputs are restored or hashed, and its
cores run. -/
def State.startJob (s : State) (j : Job) : State :=
  let img := s.image j.slot
  match if s.rxRoom img then s.configJob j img else none with
  | none => s
  | some s1 =>
    let cap : Option Capture := if j.replayOf = 0 then none else s1.captures.find? fun c => c.job = j.replayOf
    let s2 : State := match cap with
      | some c => s1.restoreAll j c
      | none => s1
    let (s3, objs, idigs) := s2.hashInputs j
    let s4 := s3.updJob j.id fun k => { k with phase := .running, idigs := idigs, keydig := s3.keydig j img }
    let wrong := match cap with
      | some c => c.idigs != idigs
      | none => false
    if wrong then (s4.wr R.RPL_STATUS_CODE Ev.RANGE).endJob j.id 1 Ev.RANGE
    else
      let s5 := if s4.on R.RPL_CFG_CAPTURE then s4.capture j objs idigs else s4
      (List.range j.dieMap.length).foldl (fun (t : State) i => t.runCores (j.dieMap.getD i 8) img i) s5

/-- JOB_START (R235 steps 2 and 3, R410): the job waits until its turn has come. -/
def execJobStart (job : BitVec 48) (ups : List Upset) (s : State) : Host.Outcome State Fault Refusal :=
  .next (match s.job? job.toNat with
    | some j => if s.jobTurn j then (s.plant ups).startJob j else s
    | none => s)

/-! ### JOB_COMPLETE -/

/-- R235 step 4: every core with code has ended, and every group is idle; the stream units too (DEDUCED, log 75). -/
def State.workDone (s : State) (j : Job) : Bool :=
  let img := s.image j.slot
  (List.range j.dieMap.length).all fun i =>
    let d := j.dieMap.getD i 8
    ((List.range 7).all fun c => !imgHas img Sec.CODE i c || ((s.die d).core c).ended) &&
      (List.range 4).all (fun g => s.groupIdle d g) && (List.range 16).all fun u => s.unitIdle d u

/-- JOB_COMPLETE (R235 steps 5 and 6, R236): the invariants checked, and the job ended completed or failed. -/
def execJobComplete (job : BitVec 48) (ups : List Upset) (s : State) : Host.Outcome State Fault Refusal :=
  .next (match s.job? job.toNat with
    | some j =>
      if j.phase == .running && s.workDone j then
        let s1 := s.plant ups
        if s1.jobDone j then s1.endJob j.id 0 0
        else (s1.raise { code := Ev.JOB_INVARIANT, unit := Unit.LOADER, job := j.id }).endJob j.id 2 Ev.JOB_INVARIANT
      else s
    | none => s)

end Sys2Proof.Machine
end

