-- ==== Sys2Proof/Machine/SecRequests.lean ====
section
/-! DEFINITION. The security service requests of mailbox channel 0 (R384–R386, R139, R140, R167, R377): shares, key sets,
firmware images and the SVN floor. -/

namespace Sys2Proof.Machine

/-- R372: a commit to the counter store that fails: Sage is frozen. -/
def State.counterFail (s : State) : State :=
  (s.wr R.SAGE_STATE_FROZEN 1).raise { code := Ev.COUNTER_FAIL, unit := Unit.SECURITY }

/-- A request of an operation served when it is there: refused with RANGE where its fields break R384. -/
def State.serve (s : State) (op : Nat) (f : State → List Byte → State) : State :=
  match s.power.on, s.request? op with
  | true, some b => if requestOk b then f s b else s.reply b Ev.RANGE
  | _, _ => s

/-! ### INSTALL_SHARE (R386) -/

/-- Every residue of consecutive limbs of N words is below its limb's prime (R25). -/
def residuesOk (N : Nat) (primes : List Nat) (bs : List Byte) : Bool :=
  ((chunks (4 * N) bs).zip primes).all fun p => (wordsOf p.1).all (· < p.2)

/-- R386: the header of a share package is for this part, and for a chain that is installed (DEDUCED, log 81). -/
def State.shareHeaderOk (s : State) (p : Config.SharePkg) : Bool :=
  p.epid = s.rd R.FAB_EPID_EPID && p.dik == Config.dikHash && decide (s.sec.epoch < p.epoch) && decide (p.epoch < 2 ^ 32) &&
    (match s.chain? p.chain with
     | some c => p.logn = c.logn && p.limbs = c.L
     | none => false) &&
    p.ct.length = p.limbs * 2 ^ p.logn * 4 && p.ct.length ≤ 2 ^ 25

/-- R386: the share of a package opened: none where the point is refused, the tag fails, or a residue is not below its
prime. -/
def State.openShare (s : State) (p : Config.SharePkg) : Option (List Byte) × State :=
  match s.agree (Config.xk s.sec.flash.keyNo) p.eph with
  | (some x, t) =>
    match gcmDecrypt (hkdf p.salt x p.info 32) p.iv p.aad p.ct p.tag with
    | some body => (if residuesOk (2 ^ p.logn) (s.chainOf p.chain).primes body then some body else none, t)
    | none => (none, t)
  | (none, t) => (none, t)

/-- R358, R386: an accepted share installed, in the order of R386. `fail` is the commit to the counter store that fails (1
EPOCH, 2 SPENT, 3 ALLOWSEQ; 0 none). -/
def State.installShare (s : State) (b : List Byte) (p : Config.SharePkg) (body seed : List Byte) (fail : Fin 4) : State :=
  let sh : Share := { epoch := p.epoch, keyset := p.keyset, chain := p.chain, logn := p.logn, limbs := p.limbs, policy := p.policy, seed := seed, body := body }
  if fail = 1 then s.counterFail.reply b Ev.COUNTER_FAIL
  else
    let s1 := s.updSec fun x => { x with epoch := p.epoch }
    if fail = 2 then s1.counterFail.reply b Ev.COUNTER_FAIL
    else
      let s2 := s1.updSec fun x => { x with spent := 0 }
      if fail = 3 then s2.counterFail.reply b Ev.COUNTER_FAIL
      else
        let s3 := s2.updSec fun x => { x with allowSeq := 0, flash := { x.flash with share := some sh } }
        let s4 := s3.updSage fun g => { g with allow := none, tickets := g.tickets.filter (·.epoch = p.epoch), share := if s.regionFits then some sh else none }
        let s5 := (s4.wr R.SEC_STATE_SHARE (b2n s.regionFits)).noteEpoch
        (s5.extend 6 (leBytes 4 p.epoch ++ leBytes 8 p.keyset ++ sha256 p.policy)).reply b 0

/-- INSTALL_SHARE (R386): the signature is checked before the rest (DESIGN CHOICE, log 165). -/
def execInstallShare (pkg : List Byte) (fail : Fin 4) (s : State) : Host.Outcome State Fault Refusal :=
  .next (s.serve 1 fun s b =>
    let bs := packageOf b pkg
    let p := Config.shareOf bs
    let (ok, s1) := s.verify p.modulus p.sig (bs.take p.len)
    if !(ok && sha256 p.modulus == s.inst.keyAuth) then s1.reply b Ev.SIG_BAD
    else if !s1.shareHeaderOk p then s1.reply b Ev.RANGE
    else
      match s1.openShare p with
      | (none, s2) => s2.reply b Ev.RANGE
      | (some body, s2) =>
        match s2.draw 32 with
        | none => s2.reply b Ev.TRNG_FAIL
        | some (seed, s3) => s3.installShare b p body seed fail)

/-! ### INSTALL_KEYSET (R139, R167, R385) -/

/-- A header slot of a key body. -/
def bodySlot (b : List Byte) (j : Nat) : List Byte := slice b (64 * j) 64

/-- R139, R167: the checks that every kind shares: no header malformed, the slots of the key alike but for DIGIT and SEED,
the others zero. -/
def keySlotsOk (b : List Byte) : Bool :=
  let k := parseHdr (bodySlot b 0)
  1 ≤ k.dmax && k.dmax ≤ 8 && (List.range 8).all fun j =>
    let x := fit 64 (bodySlot b j)
    if j < k.dmax then !hdrMalformed x && (parseHdr x).digit = j && hdrCommon x == hdrCommon (bodySlot b 0) else allZero x

/-- R139: a RELIN or GALOIS key's fields against its chain. -/
def ringKeyOk (k : KeyHdr) (c : Chain) : Bool :=
  c.K != 0 && k.logn = c.logn && 1 ≤ k.lo && k.lo ≤ k.hi && k.hi ≤ c.L && k.dmax = c.digits k.hi &&
    (if k.kind = 1 then k.param = 0 else k.param % 2 = 1 && k.param != 1 && k.param < 2 * c.N)

/-- R163, R167: a BOOT key's fields. -/
def bootKeyOk (k : KeyHdr) : Bool :=
  let n := bits k.param 0 13
  k.lo = 1 && k.hi = 1 && bits k.param 13 4 * (k.dmax / 2) ≤ 32 && 10 ≤ k.logn && k.logn ≤ 12 && k.dmax % 2 = 0 &&
    256 ≤ n && n ≤ 2048 && n % 64 = 0

/-- R160, R167: an LWEKS key's fields against its chain. -/
def lweKeyOk (k : KeyHdr) (c : Chain) : Bool :=
  let near := if k.keyOut = 1 then k.keyIn else k.keyOut
  let far := if k.keyOut = 1 then k.keyOut else k.keyIn
  k.lo = 1 && k.hi = 1 && k.baseLog * k.dmax ≤ 32 && pairAllowed k.keyIn k.keyOut && 64 ≤ k.dimLwe && k.dimLwe ≤ 4096 &&
    k.dimLwe % 64 = 0 && (far != 2 || k.dimLwe = 1024 || k.dimLwe = 2048 || k.dimLwe = 4096) &&
    (if near = 2 then 10 ≤ k.logn && k.logn ≤ 12 else k.logn = c.logn)

/-- The primes of a key's b-half words, each with the bytes of the words that it bounds, in the order of the body (R137,
R160, R163). -/
def keyBlocks (k : KeyHdr) (c : Chain) : List (Nat × Nat) :=
  if k.kind = 1 || k.kind = 2 then
    (List.range (k.hi + c.K)).map fun i => (c.prime (c.ext k.hi i), k.dmax * c.N * 4)
  else if k.kind = 3 then [(c.prime 0, bits k.param 0 13 * k.dmax * 2 ^ k.logn * 4)]
  else [(c.prime 0, 4 * k.dimIn * k.dmax)]

/-- Blocks of bytes whose words are each below the block's prime. -/
def blocksBelow : List (Nat × Nat) → List Byte → Bool
  | [], _ => true
  | (q, n) :: ps, bs => (wordsOf (bs.take n)).all (· < q) && blocksBelow ps (bs.drop n)

/-- R136, R160, R163: the bytes that a key occupies. -/
def keyBytes (k : KeyHdr) (c : Chain) : Nat := 4096 + sumN ((keyBlocks k c).map (·.2))

/-- R139, R167: a key's body may be installed. That its KEYSET is the package's is an inference (DEDUCED, log 82). -/
def State.keyLegal (s : State) (keyset : Nat) (b : List Byte) : Bool :=
  let k := parseHdr (bodySlot b 0)
  match s.chain? k.chain with
  | some c =>
    keySlotsOk b && k.keyset = keyset &&
      (if k.kind = 1 || k.kind = 2 then ringKeyOk k c
       else if k.kind = 3 then bootKeyOk k
       else k.kind = 4 && lweKeyOk k c) &&
      decide (keyBytes k c ≤ b.length) && blocksBelow (keyBlocks k c) (b.drop 4096)
  | none => false

/-- R140: an admitted job's key order names a region. -/
def State.keyInUse (s : State) (h : Nat) : Bool := s.jobs.any fun j => j.live && (s.jobKeys j).contains h

/-- The region on a die that holds the key that a body would install: the same header but for its seeds. -/
def State.keyRegion (s : State) (d : Nat) (b : List Byte) : Option Nat :=
  (s.keyBodies.find? fun p => hDie p.1 = d && hdrCommon (s.peek p.1 0 64) == hdrCommon (bodySlot b 0)).map (·.1)

/-- A key region freed. -/
def State.dropKey (s : State) (h : Nat) : State := { s.freeEntry h with keyBodies := mapDel s.keyBodies h }

/-- R137, R245, R246: a key installed on a die, in place of the same key if it is there and not in use. -/
def State.putKey (s : State) (d keyset : Nat) (b sha : List Byte) : Option State :=
  let old := s.keyRegion d b
  if !s.inServ d || (old.any s.keyInUse) then none
  else
    let s1 := match old with
      | some h => s.dropKey h
      | none => s
    let len := ceilDiv b.length 2048 * 2048
    match s1.freeIndex d, s1.placeRange 2 d len with
    | some i, some a =>
      let h := d * 256 + i
      let s2 := (s1.putStackEntry d i 2 (2 ^ Attr.KEY) len a 0xF 0).write h 0 b
      some { s2 with keyBodies := mapPut s2.keyBodies h (keyset, sha) }
    | _, _ => none

/-- The keys of a package installed, entry by entry and die by die: all of them or none. -/
def State.putKeys (keyset : Nat) : List (Nat × List Byte × List Byte) → State → Option State
  | [], s => some s
  | (d, b, sha) :: ks, s => (s.putKey d keyset b sha).bind (State.putKeys keyset ks)

/-- R385: the keys of a package, one for each die of its mask. -/
def pkgKeys (p : Config.KeysetPkg) : List (Nat × List Byte × List Byte) :=
  (p.entries.zip p.bodies).flatMap fun e => ((List.range 8).filter (bitOf e.1.1)).map fun d => (d, e.2, e.1.2.2)

/-- R385: every body is the one that its entry describes. -/
def pkgBodiesOk (p : Config.KeysetPkg) : Bool :=
  p.entries.length = p.bodies.length && (p.entries.zip p.bodies).all fun e => e.2.length = e.1.2.1 && sha256 e.2 == e.1.2.2

/-- INSTALL_KEYSET (R385): the signature, the chains, the bodies, then R139 for each key; nothing is changed unless all
of it is installed. -/
def execInstallKeyset (pkg : List Byte) (s : State) : Host.Outcome State Fault Refusal :=
  .next (s.serve 2 fun s b =>
    let bs := packageOf b pkg
    let p := Config.keysetOf bs
    let (ok, s1) := s.verify p.modulus p.sig (bs.take p.len)
    if !(ok && sha256 p.modulus == s.inst.keyAuth) then s1.reply b Ev.SIG_BAD
    else if !(p.chains.all s1.chainLoads && pkgBodiesOk p) then s1.reply b Ev.RANGE
    else
      let s2 := s1.putChains p.chains
      if p.bodies.all (s2.keyLegal p.keyset) then
        match State.putKeys p.keyset (pkgKeys p) s2 with
        | some t => t.reply b 0
        | none => s1.reply b Ev.RANGE
      else s1.reply b Ev.RANGE)

/-- RETIRE_KEYSET (R140, R385): the key regions of a key set freed, unless one of them is in use. The 8 bytes at ADDR name
the key set (DESIGN CHOICE, log 80). -/
def execRetireKeyset (pkg : List Byte) (s : State) : Host.Outcome State Fault Refusal :=
  .next (s.serve 3 fun s b =>
    let ks := leAt (packageOf b pkg) 0 8
    let hs := (s.keyBodies.filter fun p => p.2.1 = ks).map (·.1)
    if hs.any s.keyInUse then s.reply b Ev.RANGE else (hs.foldl State.dropKey s).reply b 0)

/-! ### STAGE_FIRMWARE and COMMIT_SVN (R376, R377, R385) -/

/-- The flash with an image written to the slot that was not booted. -/
def State.stageImage (s : State) (kind : Nat) (img : List Byte) : Flash :=
  let f := s.sec.flash
  let sp := 1 - s.rd R.SEC_STATE_SLOT_SP
  let dz := 1 - s.rd R.SEC_STATE_SLOT_DZ
  if kind = 1 then { f with sp := f.sp.set sp img }
  else if kind = 2 then { f with hub := f.hub.set dz img }
  else if kind = 3 then { f with sup := f.sup.set dz img }
  else { f with config := img }

/-- STAGE_FIRMWARE (R385): a valid image of any kind, with an SVN of at least the floor, is written and takes effect at the
next reset. What fails its signature is refused with SIG_BAD, and everything else with RANGE. -/
def execStageFirmware (pkg : List Byte) (s : State) : Host.Outcome State Fault Refusal :=
  .next (s.serve 4 fun s b =>
    let img := packageOf b pkg
    let kind := fwKind img
    let s1 := s.call
    if !(1 ≤ kind && kind ≤ 4 && fwForm img kind && decide (s.rd R.SEC_SVN_FLOOR ≤ fwSvn img)) then s1.reply b Ev.RANGE
    else if !(if kind = 4 then s.configValid img else s.fwValid img kind) then s1.reply b Ev.SIG_BAD
    else (s1.updSec fun x => { x with flash := s.stageImage kind img }).reply b 0)

/-- COMMIT_SVN (R377): the floor raised to a value no higher than the SVN of both running images, once STAGE is 4. The 4
bytes at ADDR give the value (DESIGN CHOICE, log 80). -/
def execCommitSvn (pkg : List Byte) (s : State) : Host.Outcome State Fault Refusal :=
  .next (s.serve 5 fun s b =>
    let v := leAt (packageOf b pkg) 0 4
    if s.rd R.SEC_STATE_STAGE = 4 && v ≤ 64 && v ≤ s.rd R.SEC_SVN_RUNNING && v ≤ s.sec.svnDz then
      ({ s with fuses := mapPut s.fuses R.SEC_SVN_FLOOR.key (max v (s.rd R.SEC_SVN_FLOOR)) }).reply b 0
    else s.reply b Ev.RANGE)

end Sys2Proof.Machine
end

