-- ==== Sys2Proof/Machine/Ingest.lean ====
section
/-! DEFINITION. Ingest (R387–R392): the checks of each filing in their order, the revocation of host access, and the commit
of the filings in entry order. -/

namespace Sys2Proof.Machine

/-- R387: the argument block's header. -/
structure IngestArgs where
  nfil : Nat
  period : Nat
  keyset : Nat
  deriving DecidableEq, Repr

/-- R387: an argument block of the length that its header calls for. -/
def parseIngest (b : List Byte) (len : Nat) : Option IngestArgs :=
  let n := leAt b 2 2
  let ok := b.length = len && leAt b 0 1 = 1 && leAt b 1 1 = 0 && 1 ≤ n && n ≤ 512 && len = 64 + 1408 * n && allZero (slice b 0x10 48)
  if ok then some { nfil := n, period := leAt b 4 4, keyset := leAt b 8 8 } else none

/-- R387: filing entry i. -/
def filingAt (b : List Byte) (i : Nat) : List Byte := slice b (64 + 1408 * i) 1408

/-- R387, R388: the parts of a filing entry. -/
def filHdr (f : List Byte) : List Byte := slice f 0 0x80
def filSig (f : List Byte) : List Byte := slice f 0x80 384
def filDref (f : List Byte) : Nat := leAt f 0x200 4
def filH0 (f : List Byte) : Nat := leAt f 0x204 2
def filH1 (f : List Byte) : Nat := leAt f 0x206 2
def filCert (f : List Byte) : List Byte := slice f 0x240 832
def filDesc (f : List Byte) : List Byte := slice f 0x40 64

/-- R390 check 1: the entry's own fields. -/
def filEntryOk (f : List Byte) : Bool := bits (filDref f) 30 2 = 0 && leAt f 0x208 8 = 0 && allZero (slice f 0x210 48)

/-- R389: the bytes of one polynomial buffer of a filing of one ciphertext. -/
def filBytes (x : Desc) : Nat := x.level * x.N * 4

/-- R390 check 2: an admitted job names a slot, as an input or within a region of its image's buffers. -/
def State.slotNamed (s : State) (r : Nat) : Bool :=
  s.jobs.any fun j => j.live && ((j.inputs.any fun p => refKey p.1 = refKey r) ||
    (mapGet [] s.slotBufs j.slot).any fun b => b.2 = refHandle r)

/-- R390 check 2: a staging handle. -/
def State.stagingOk (s : State) (h n : Nat) : Bool :=
  s.handleOk h && s.hBound h && 2 ≤ s.hLoc h && s.hAttr h Attr.HOST && !s.writeForbidden h && !s.hAttr h Attr.DESC && decide (n ≤ s.hLen h) &&
    !s.namedByJob h

/-- What the filings of one INGEST hold while they are verified: staging handles and slots (log 85). -/
structure Holds where
  handles : List Nat := []
  slots : List Nat := []
  deriving DecidableEq, Repr

/-- R390 check 2. -/
def State.filHandlesOk (s : State) (held : Holds) (f : List Byte) : Bool :=
  let n := filBytes (parseDesc (filDesc f))
  let d := filDref f
  filH0 f != filH1 f && s.stagingOk (filH0 f) n && s.stagingOk (filH1 f) n && refNamesSlot d && s.slotOk d && !s.slotNamed d &&
    !(s.pendSlots.any fun p => p.1 = refKey d) && !held.handles.contains (filH0 f) && !held.handles.contains (filH1 f) &&
    !held.slots.contains (refKey d)

/-- R388, R390 check 3: a certificate's fields for a period and a key set. -/
def certFieldsOk (c : List Byte) (a : IngestArgs) : Bool :=
  leAt c 0 4 = 0x31544346 && leAt c 4 4 = 1 && 1 ≤ leAt c 8 4 && leAt c 8 4 ≤ 0xFFFFFFFE && leAt c 0x14 4 = 0 && allZero (slice c 0x20 32) &&
    leAt c 0x18 8 = a.keyset && leAt c 0xC 4 ≤ a.period && a.period ≤ leAt c 0x10 4

/-- R390: a verified certificate kept in the cache of 65,536; a full cache drops its oldest (DESIGN CHOICE, log 85). -/
def State.cacheCert (s : State) (key : List Byte) : State :=
  s.updSec fun x => { x with certs := (if x.certs.length < 65536 then x.certs else x.certs.drop 1) ++ [key] }

/-- R388, R390 check 3: the certificate is in the cache, or its RSIG verifies under the registry's key. -/
def State.certOk (s : State) (c registry : List Byte) (a : IngestArgs) : Bool × State :=
  if !certFieldsOk c a then (false, s)
  else
    let key := sha256 c
    if s.sec.certs.contains key then (true, s)
    else
      let (ok, s1) := s.verify registry (slice c 0x1C0 384) (c.take 0x1C0)
      if ok && sha256 registry == s.inst.registry then (true, s1.cacheCert key) else (false, s1)

/-- R34, R35, R388, R390 check 4: the header's fields, and its descriptor: of one ciphertext or of a group (R34), whose buffers
hold every member (R35). -/
def State.filHdrOk (s : State) (f : List Byte) (a : IngestArgs) : Bool :=
  let h := filHdr f
  let x := parseDesc (filDesc f)
  leAt h 0 4 = 0x314C4946 && leAt h 4 2 = 1 && leAt h 6 2 = 0 && leAt h 8 4 = leAt (filCert f) 8 4 && leAt h 0xC 4 = a.period &&
    allZero (slice h 0x30 16) && descReservedOk (filDesc f) && (x.type = 1 || x.type = 3) && x.polys = 2 && x.special = 0 && x.poison = 0 &&
    x.lineage = 0 && x.h0 = nullHandle && x.h1 = nullHandle && x.h2 = nullHandle && x.keyset = a.keyset &&
    match s.chain? x.chain with
    | some c => x.ringOk c && decide (x.handleBytes ≤ s.hLen (filH0 f)) && decide (x.handleBytes ≤ s.hLen (filH1 f))
    | none => false

/-- What became of a filing: the code that decided it (0 none), whether its handles' host access was revoked, and the
attributes that they had. -/
structure Filing where
  entry : List Byte
  code : Nat
  revoked : Bool := false
  attr0 : Nat := 0
  attr1 : Nat := 0
  deriving DecidableEq, Repr

/-- R390 checks 5a, 5b and 6, on the data as the part holds it; of a group, on the data of every member (DESIGN CHOICE,
log 86). -/
def State.filData (s : State) (f : List Byte) : State × Nat :=
  let x := parseDesc (filDesc f)
  let g0 := s.read (filH0 f) 0 x.handleBytes { mid := 1 }
  let g1 := g0.st.read (filH1 f) 0 x.handleBytes { mid := 1 }
  let ps := (s.chainOf x.chain).primes
  if !(residuesOk (x.M * x.N) ps g0.bytes && residuesOk (x.M * x.N) ps g1.bytes) then (g1.st, Ev.RANGE)
  else if !(chunkTree (g0.bytes ++ g1.bytes) == slice (filHdr f) 0x10 32) then (g1.st, Ev.DIGEST_BAD)
  else
    let (ok, s1) := g1.st.verify (slice (filCert f) 0x40 384) (filSig f) (filHdr f)
    (s1, if ok then 0 else Ev.SIG_BAD)

/-- R390, R391: the checks of a filing, in their order; host access is revoked before step 5. -/
def State.filCheck (s : State) (held : Holds) (registry : List Byte) (a : IngestArgs) (f : List Byte) : State × Holds × Filing :=
  if !(filEntryOk f && s.filHandlesOk held f) then (s, held, { entry := f, code := Ev.RANGE })
  else
    let held' : Holds := { handles := filH0 f :: filH1 f :: held.handles, slots := refKey (filDref f) :: held.slots }
    match s.certOk (filCert f) registry a with
    | (false, s1) => (s1, held', { entry := f, code := Ev.CERT_BAD })
    | (true, s1) =>
      if !s1.filHdrOk f a then (s1, held', { entry := f, code := Ev.RANGE })
      else
        let a0 := s1.rd (R.SPAD_HTAB0_ATTR (hDie (filH0 f)) (hIdx (filH0 f)))
        let a1 := s1.rd (R.SPAD_HTAB0_ATTR (hDie (filH1 f)) (hIdx (filH1 f)))
        let (s2, code) := ((s1.revokeHost (filH0 f)).revokeHost (filH1 f)).filData f
        (s2, held', { entry := f, code := code, revoked := true, attr0 := a0, attr1 := a1 })

/-- A handle's attributes set. -/
def State.setAttr (s : State) (h a : Nat) : State := s.wr (R.SPAD_HTAB0_ATTR (hDie h) (hIdx h)) a

/-- R387: a filing's RESULT written. -/
def State.filResult (s : State) (addr code accepted lineage : Nat) : State :=
  s.toHost (addr + 0x208) (leBytes 8 (code % 2 ^ 16 + accepted * 2 ^ 16 + lineage % 2 ^ 24 * 2 ^ 32))

/-- R392: a refused filing: its attributes restored, counted, recorded and raised. -/
def State.filRefuse (s : State) (e : Entry) (addr : Nat) (x : Filing) (code : Nat) : State :=
  let s1 := if x.revoked then (s.setAttr (filH0 x.entry) x.attr0).setAttr (filH1 x.entry) x.attr1 else s
  let s2 := (s1.sat R.SEC_INGEST_REFUSED 1).secLast code Src.INGEST e.tag
  (s2.raise { code := code, unit := Unit.SECURITY, detail := e.tag * 2 ^ 32 }).filResult addr code 0 0

/-- R392: a filing accepted: CT alone, a RECORD with LINK = CONTRIB (row 1 of R355) for each member (R350), its descriptor committed with its
handles, the bindings set, and RESULT written. Where no lineage record is free it is refused (DESIGN CHOICE, log 85). -/
def State.filAccept (s : State) (e : Entry) (addr : Nat) (x : Filing) : State × Nat :=
  let f := x.entry
  let r : LinRec := { cls := Cls.RECORD, floor := 1, link := leAt (filHdr f) 8 4 }
  match s.assign (List.replicate (parseDesc (filDesc f)).M r) with
  | none => (s.filRefuse e addr x Ev.LINEAGE_FULL, Ev.LINEAGE_FULL)
  | some (l, s1) =>
    let y := { parseDesc (filDesc f) with h0 := filH0 f, h1 := filH1 f, lineage := l }
    let s2 := (s1.setAttr (filH0 f) (2 ^ Attr.CT)).setAttr (filH1 f) (2 ^ Attr.CT)
    let s3 := ((s2.writeSlot (filDref f) y.toBytes).bindDesc y).sat R.SEC_INGEST_ACCEPTED 1
    (s3.filResult addr 0 1 l, 0)

/-- R392: the filings committed in entry order: the state and the code of the first that was refused. -/
def State.filCommit (s : State) (e : Entry) (addr : Nat) : List Filing → Nat → Nat → State × Nat
  | [], _, first => (s, first)
  | x :: xs, i, first =>
    let a := addr + 64 + 1408 * i
    let (t, code) := if x.code = 0 then s.filAccept e a x else (s.filRefuse e a x x.code, x.code)
    t.filCommit e addr xs (i + 1) (if first = 0 then code else first)

/-- R311: an INGEST entry's own fields. -/
def State.ingestEntryOk (s : State) (e : Entry) : Bool :=
  s.entryOk e && e.kind = 3 && e.q 8 = 0 && aligned64 (e.q 0x10) && decide (e.q 0x18 < 2 ^ 32) && e.q 0x20 = 0 && e.q 0x28 = 0 && e.q 0x30 = 0

/-- INGEST (R387–R392). `registry` is the public key of the filer registry, which the configuration names by its hash.
Without Sage's table every INGEST is refused (R348, R381). -/
def execIngest (r : Fin 64) (entry : List Byte) (args : List Byte) (registry : List Byte) (ups : List Upset) (s : State) :
    Host.Outcome State Fault Refusal :=
  .next ((s.plant ups).onEntry r entry 1 fun s e =>
    if !(s.ingestEntryOk e && s.on R.SAGE_CFG_ENABLE) then s.refuseEntry e Ev.RANGE Unit.HOST
    else
      match parseIngest args (e.q 0x18) with
      | none => (s.secLast Ev.RANGE Src.INGEST e.tag).refuseEntry e Ev.RANGE Unit.SECURITY
      | some a =>
        let (s1, _, xs) := (List.range a.nfil).foldl (fun (acc : State × Holds × List Filing) i =>
          let (t, h, x) := acc.1.filCheck acc.2.1 registry a (filingAt args i)
          (t, h, acc.2.2 ++ [x])) (s, {}, [])
        let (s2, code) := s1.filCommit e (e.q 0x10) xs 0 0
        s2.postFor e { code := code })

end Sys2Proof.Machine
end

