-- ==== Sys2Proof/Machine/Package.lean ====
section
/-! DEFINITION. The package (R424–R447): the input voltage, the power dies, PWRGOOD and the rails, the clocks, the
alerts, and the SMBus target. -/

namespace Sys2Proof.Machine

/-- The state with the package's own state changed. -/
def State.updPower (s : State) (f : Power → Power) : State := { s with power := f s.power }

/-! ### The input (R429, R431, R437–R439) -/

/-- The shutdown causes of PKG_LASTOFF (R448). -/
abbrev Off.UNDERVOLTAGE : Nat := 1
abbrev Off.OVERVOLTAGE : Nat := 2
abbrev Off.THERMTRIP : Nat := 3
abbrev Off.PD_FAULT : Nat := 4
abbrev Off.XTAL : Nat := 5
abbrev Off.PWRGOOD : Nat := 6

/-- VIN_UNDERVOLTAGE (R429): a supply shutdown. -/
def execVinUndervoltage (s : State) : Host.Outcome State Fault Refusal :=
  .next (if s.power.on then s.shutdown Off.UNDERVOLTAGE 0 0 else s)

/-- VIN_OVERVOLTAGE (R429): a supply shutdown. -/
def execVinOvervoltage (s : State) : Host.Outcome State Fault Refusal :=
  .next (if s.power.on then s.shutdown Off.OVERVOLTAGE 0 0 else s)

/-- R429: VIN enters a band: its event raised once per entry. -/
def State.enterBand (s : State) (band code : Nat) : State :=
  if s.power.on && s.power.band != band then
    (s.updPower fun p => { p with band := band }).raise { code := code, unit := Unit.POWER }
  else s

/-- VIN_LOW (R429): operation continues. -/
def execVinLow (s : State) : Host.Outcome State Fault Refusal := .next (s.enterBand 1 Ev.VIN_LOW)

/-- VIN_HIGH (R429): operation continues. -/
def execVinHigh (s : State) : Host.Outcome State Fault Refusal := .next (s.enterBand 2 Ev.VIN_HIGH)

/-- VIN52_APPLY (R431, R441 step 1): the input is there. -/
def execVin52Apply (s : State) : Host.Outcome State Fault Refusal := .next (s.updPower fun p => { p with vin52 := true })

/-- VIN52_LOSS (R437, R439): below 20 V: the part is off, PD0's latch is lost and THERMTRIP_N is released. -/
def execVin52Loss (s : State) : Host.Outcome State Fault Refusal :=
  .next (
    let t := if s.power.on then s.powerOff else s
    t.updPower fun p => { p with vin52 := false, trip := false, latch := (0, 0, 0), rising := false })

/-- THERMTRIP (R438, R439): a supply shutdown, with THERMTRIP_N driven low. -/
def execThermtrip (die : Fin 10) (s : State) : Host.Outcome State Fault Refusal :=
  .next (if s.power.on then (s.shutdown Off.THERMTRIP 0 die).updPower fun p => { p with trip := true } else s)

/-! ### Power dies and clocks (R428, R433) -/

/-- R433: a power die stops: its bits in PKG_PD. -/
def State.stopPd (s : State) (k : Nat) : State :=
  ((s.wr R.PKG_PD_FAULT (setBit (s.rd R.PKG_PD_FAULT) k)).wr R.PKG_PD_ON (clearBit (s.rd R.PKG_PD_ON) k)).wr R.PKG_CLK_PDCLK
    (clearBit (s.rd R.PKG_CLK_PDCLK) k)

/-- PD_FAULT (R433): a TLB-8D goes on after its first fault; any other fault shuts the part down. -/
def execPdFault (pd : Fin 6) (s : State) : Host.Outcome State Fault Refusal :=
  .next (
    if s.power.on && bitOf (s.rd R.CAPS_PD_PRESENT) pd && !bitOf (s.rd R.PKG_PD_FAULT) pd then
      if s.rd R.PKG_CAPS_PD_COUNT = 6 && s.rd R.PKG_PD_FAULT = 0 then
        (s.stopPd pd).raise { code := Ev.PD_FAULT, unit := Unit.POWER }
      else s.shutdown Off.PD_FAULT pd 0
    else s)

/-- XTAL_LOSS (R428): a supply shutdown. -/
def execXtalLoss (s : State) : Host.Outcome State Fault Refusal := .next (if s.power.on then s.shutdown Off.XTAL 0 0 else s)

/-- FREF_LOSS (R428): the port of a reference clock goes down. -/
def execFrefLoss (p : Fin 8) (s : State) : Host.Outcome State Fault Refusal :=
  .next (
    if s.power.on then
      let s1 := s.wr R.PKG_CLK_PORT (clearBit (s.rd R.PKG_CLK_PORT) p)
      if s1.on (R.FAB_PORT_UP p) then (s1.wr (R.FAB_PORT_UP p) 0).raise { code := Ev.FAB_LINK_DOWN, unit := Unit.FABRIC } else s1
    else s)

/-! ### PWRGOOD and the rails (R437, R441, R445) -/

/-- PWRGOOD_RISE (R437, R441 steps 3 and 4): with VIN52 in its operating range (10 mV units) the rails come up; after a
supply shutdown only if PWRGOOD has been low for 1 ms. -/
def execPwrgoodRise (low : Nat) (vin : Nat) (s : State) : Host.Outcome State Fault Refusal :=
  .next (
    if s.power.pwrgood then s
    else
      let off := s.power.latch.1
      let ok := s.power.vin52 && 4400 ≤ vin && vin ≤ 5800 && (off = 0 || off = Off.PWRGOOD || 1000000 ≤ low)
      s.updPower fun p => { p with pwrgood := true, rising := ok })

/-- RAILS_GOOD (R424, R433, R441 step 4): every register block resets, the strap is read, and every present power die is
tried, some of which may fail. -/
def execRailsGood (strap : BitVec 2) (fails : BitVec 6) (v6 : BitVec 16) (s : State) : Host.Outcome State Fault Refusal :=
  .next (
    if !s.power.rising then s
    else
      let s1 := { s with fuses := mapPut s.fuses R.PKG_CAPS_SMB_ADDR.key (0x58 + strap.toNat), power := { s.power with on := true, rising := false } }
      let bad := (List.range 6).filter fun k => bitOf (s1.rd R.CAPS_PD_PRESENT) k && bitOf fails.toNat k
      let up := bad.foldl clearBit (s1.rd R.CAPS_PD_PRESENT)
      if (s1.rd R.PKG_CAPS_PD_COUNT = 6 && bad.length ≤ 1) || bad.isEmpty then
        let fs : List (Fld × Nat) := [
          (R.PKG_PD_ON, up), (R.PKG_PD_FAULT, sumN (bad.map fun k => 2 ^ k)), (R.PKG_PD_V6, v6.toNat), (R.PKG_CLK_PDCLK, up),
          (R.PKG_CLK_MGMT, 1), (R.PKG_CLK_MPHY, s1.rd R.CAPS_DIE_PRESENT)]
        let s2 := fs.foldl (fun (t : State) p => t.wr p.1 p.2) s1
        if s2.power.resetn then s2.startUp else s2
      else s1.shutdown Off.PD_FAULT (bad.headD 0) 0)

/-- PWRGOOD_FALL (R439, R445): every job ends without a completion and the rails stop; THERMTRIP_N is released. -/
def execPwrgoodFall (s : State) : Host.Outcome State Fault Refusal :=
  .next (
    if !s.power.pwrgood then s
    else
      let t := if s.power.on then s.shutdown Off.PWRGOOD 0 0 else s
      t.updPower fun p => { p with pwrgood := false, rising := false, trip := false })

/-! ### Alerts (R440) -/

/-- R440: the condition of a cause holds now. -/
def State.alertHolds (s : State) (k : Nat) : Bool :=
  let dies := (List.range 8).filter s.present
  match k with
  | 0 => bitOf s.power.conds 0
  | 1 => s.riskCause.isSome
  | 2 => s.on R.PKG_PD_FAULT
  | 3 => s.power.band = 1
  | 4 => s.power.band = 2
  | 5 => s.power.vinBad || dies.any fun d => decide (0 < (s.paceOf d).held) || s.on (R.MEM_THERM_IMPL0 d) || s.on (R.MEM_THERM_IMPL1 d)
  | _ => dies.any fun d => 2 ≤ s.rd (R.MEM_THERM_LEVEL0 d) || 2 ≤ s.rd (R.MEM_THERM_LEVEL1 d)

/-- R440: a write of causes to clear: a cause whose condition still holds stays. -/
def State.clearAlerts (s : State) (w : Nat) : State :=
  (List.range 7).foldl (fun (t : State) k => if bitOf w k && !s.alertHolds k then t.wr (alertFld k) 0 else t) s

/-- PKG_ALERT bits 15:0. -/
def State.alertWord (s : State) : Nat :=
  sumN ((List.range 7).map fun k => s.rd (alertFld k) * 2 ^ k) + s.rd R.PKG_ALERT_MASK * 2 ^ 8

/-- R440: ALERT_N is low. -/
def State.alertLow (s : State) : Bool :=
  s.power.on && (List.range 7).any fun k => s.on (alertFld k) && !bitOf (s.rd R.PKG_ALERT_MASK) k

/-! ### The SMBus target (R447) -/

/-- R447: a Read Word answered, from rails good on. -/
def State.smbRead (s : State) (w : Nat) : State := { s with answer := if s.power.on then .data (leBytes 2 w) else .nack }

/-- SMB_STATE. -/
def execSmbState (s : State) : Host.Outcome State Fault Refusal :=
  .next (s.smbRead (s.rd R.PKG_STATE_PHASE + s.rd R.PKG_STATE_READY * 2 ^ 4 + s.rd R.ADM_STATE_STOP * 2 ^ 5 +
    s.rd R.SEC_STATE_SERVICE * 2 ^ 6))

/-- SMB_TJMAX: PKG_THERM bits 15:0. -/
def execSmbTjmax (s : State) : Host.Outcome State Fault Refusal :=
  .next (s.smbRead (s.rd R.PKG_THERM_TJMAX + s.rd R.PKG_THERM_DIE * 2 ^ 8))

/-- SMB_POWER. -/
def execSmbPower (s : State) : Host.Outcome State Fault Refusal := .next (s.smbRead (s.rd R.PWR_INPUT_POWER))

/-- SMB_VIN. -/
def execSmbVin (s : State) : Host.Outcome State Fault Refusal := .next (s.smbRead (s.rd R.PWR_INPUT_VIN))

/-- SMB_LIMIT_READ. -/
def execSmbLimitRead (s : State) : Host.Outcome State Fault Refusal := .next (s.smbRead (s.rd R.PWR_LIMIT_LIMIT))

/-- R414, R447: PWR_LIMIT held within P_FLOOR to P_MAX. -/
def State.setLimit (s : State) (w : Nat) : State :=
  s.wr R.PWR_LIMIT_LIMIT (max (s.rd R.PWR_CAPS_P_FLOOR) (min (s.rd R.PWR_CAPS_P_MAX) w))

/-- SMB_LIMIT_WRITE (R447): not acknowledged before a management core runs. -/
def execSmbLimitWrite (w : BitVec 16) (s : State) : Host.Outcome State Fault Refusal :=
  .next (
    if s.power.on && 2 ≤ s.rd R.SEC_STATE_STAGE && s.rd R.SEC_STATE_STAGE ≤ 4 then { s.setLimit w.toNat with answer := .none }
    else { s with answer := .nack })

/-- SMB_ALERT_READ. -/
def execSmbAlertRead (s : State) : Host.Outcome State Fault Refusal := .next (s.smbRead s.alertWord)

/-- SMB_ALERT_WRITE (R440, R447): causes cleared, the mask set. -/
def execSmbAlertWrite (w : BitVec 16) (s : State) : Host.Outcome State Fault Refusal :=
  .next (
    if s.power.on then { (s.clearAlerts w.toNat).wr R.PKG_ALERT_MASK (bits w.toNat 8 8) with answer := .none }
    else { s with answer := .nack })

/-- SMB_LASTOFF: PKG_LASTOFF bits 15:0. -/
def execSmbLastoff (s : State) : Host.Outcome State Fault Refusal :=
  .next (s.smbRead (s.rd R.PKG_LASTOFF_CAUSE + s.rd R.PKG_LASTOFF_PD * 2 ^ 4 + s.rd R.PKG_LASTOFF_DIE * 2 ^ 8))

/-- SMB_POWERDIES: PKG_PD bits 15:0. -/
def execSmbPowerdies (s : State) : Host.Outcome State Fault Refusal :=
  .next (s.smbRead (s.rd R.PKG_PD_ON + s.rd R.PKG_PD_FAULT * 2 ^ 8))

/-- The last plausible temperatures of the stacks that have reported. -/
def State.stackTemps (s : State) : List Int :=
  ((List.range 8).filter s.present).flatMap fun d =>
    (if (mapFind (s.die d).stackRep 0).isSome then [toSigned 8 (s.rd (R.MEM_THERM_TEMP0 d))] else []) ++
      (if (mapFind (s.die d).stackRep 1).isSome then [toSigned 8 (s.rd (R.MEM_THERM_TEMP1 d))] else [])

/-- SMB_STACKMAX: the highest last plausible stack temperature; 0 before a report. -/
def execSmbStackmax (s : State) : Host.Outcome State Fault Refusal :=
  .next (s.smbRead (match s.stackTemps with
    | [] => 0
    | t :: ts => ofSigned 16 (ts.foldl max t)))

/-- SMB_ALERT_RESPONSE (R447): the target gives its address while ALERT_N is low. -/
def execSmbAlertResponse (s : State) : Host.Outcome State Fault Refusal :=
  .next { s with answer := if s.alertLow then .data (leBytes 1 (2 * s.rd R.PKG_CAPS_SMB_ADDR)) else .nack }

end Sys2Proof.Machine
end

