-- ==== Sys2Proof/Machine/Live.lean ====
section
/-! DEFINITION. The read-only fields that show what the machine is doing (R13): busy bits, occupancies and counters are
read from the state itself. -/

namespace Sys2Proof.Machine

/-- A group has an operation in progress: one that waits for its pushes and commits, or one at its head (R177; DEDUCED,
log 150). -/
def State.groupBusy (s : State) (d g : Nat) : Bool := ((s.die d).group g).inProgress.isSome

/-- The Mint units that the operation in progress uses: those that a macro operation's XF names (R115), unit 0 for a fine one. -/
def State.mintBusy (s : State) (d u : Nat) : Bool :=
  match ((s.die d).group 1).inProgress with
  | some op => if op.fine then u = 0 else bitOf op.xf u
  | none => false

/-- The value that the device supplies for the field at bit `lo` of a register (R13), where it is no value that the model
keeps in the register file: CDn.BASIL_STATUS, MINT_STATUS, PARS_STATUS, DILL_STATUS, TARR_STATUS, STRM_STATUS (R112, R134,
R154, R175, R212), LDR_SLOTS (R239), SPAD_STATUS (R264), QCH_SEAL_PEND and QCH_QSTAT (R286), ADM_TIME, ADM_HORIZON and PACE_TIME (R421).
`i` counts the elements of an array. -/
def State.live (s : State) (name : String) (d i lo : Nat) : Option Nat :=
  match name with
  | "BASIL_STATUS" => if lo = 0 then some (b2n (s.groupBusy d 0)) else none
  | "MINT_STATUS" => if lo < 2 then some (b2n (s.mintBusy d lo)) else none
  | "PARS_STATUS" => if lo = 0 then some (b2n (s.groupBusy d 2)) else none
  | "TARR_STATUS" => if lo = 0 then some (b2n (s.groupBusy d 3)) else none
  | "DILL_STATUS" => if lo < 2 then some (b2n ((s.dillCtx d lo).active)) else none
  | "STRM_STATUS" =>
    some (if lo = 0 then sumN ((List.range 4).map fun g => b2n (s.groupBusy d g) * 2 ^ g)
      else ((s.die d).group ((lo - 16) / 5)).fifo.length)
  | "LDR_SLOTS" => if lo = 16 then some (sumN ((List.range 16).map fun k => b2n (s.slotInUse k) * 2 ^ k)) else none
  | "SPAD_STATUS" => if lo = 0 then some (b2n (!(s.die d).copies.isEmpty)) else none
  | "QCH_SEAL_PEND" => some (s.sealPend d)
  | "QCH_QSTAT" =>
    if lo = 10 then some (s.rd (R.QCH_QCFG_CAP d i)) else if lo = 20 then some (s.rd (R.QCH_QCFG_CHAN d i)) else none
  | "ADM_TIME" => some s.time
  | "ADM_HORIZON" => if s.inServ i then none else some 0
  | "PACE_TIME" => some (s.die d).time
  | _ => none

/-- What a field of a register holds when it is read. -/
def State.fieldNow (s : State) (r : RegRow) (addr d i : Nat) (f : FRow) : Nat :=
  match s.live r.name d i f.lo with
  | some v => v % 2 ^ f.w
  | none => s.rd (f.fld addr)

/-- The value of a register as its fields hold it. -/
def State.regWord (s : State) (r : RegRow) (addr d i : Nat) : Nat :=
  sumN (r.fields.map fun f => s.fieldNow r addr d i f * 2 ^ f.lo)

/-- R13: what a register returns to a reader: its value, with write-only fields zero. -/
def State.readWord (s : State) (r : RegRow) (addr d i : Nat) : Nat :=
  sumN (r.fields.map fun f => if f.acc = .wo then 0 else s.fieldNow r addr d i f * 2 ^ f.lo)

/-- R324: the channels of a word of the mailbox block that a reader sees: those that it is an end of. -/
def State.mbxSeen (s : State) (mid w : Nat) : Nat :=
  sumN ((List.range 32).map fun m =>
    if bitOf w m && mid != 0 && (mid = s.rd (R.MBX_BIND_SENDER m) || mid = s.rd (R.MBX_BIND_RECEIVER m)) then 2 ^ m else 0)

/-- R324: the word that a reader gets of a register: of the mailbox's, the bits of its own channels, and of a channel's data the
message that is held for it. -/
def State.wordFor (s : State) (mid : Nat) (r : RegRow) (b d i : Nat) : Nat :=
  match r.name with
  | "MBX_DB" => s.mbxSeen mid (s.rd R.MBX_DB_DB)
  | "MBX_MASK" => s.mbxSeen mid (s.rd R.MBX_MASK_MASK)
  | "MBX_STATUS" => s.mbxSeen mid (s.rd R.MBX_STATUS_FULL) + s.mbxSeen mid (s.rd R.MBX_STATUS_REFUSED) * 2 ^ 32
  | "MBX_DATA" => if mid != 0 && mid = s.rd (R.MBX_BIND_RECEIVER i) then leNat (slice (mbxBytes s.mbxSlot i) ((b - 0x21000) % 0x80) 8) else 0
  | _ => s.readWord r b d i

/-! ### Reads of the base address registers (R305, R307, R315, R324, R471) -/

/-- The element of a register's outer array at an address, given where its window begins. -/
def RegRow.elem (r : RegRow) (b base : Nat) : Nat :=
  match r.dims with
  | (_, st) :: _ => (b - base - r.off) / st
  | [] => 0

/-- R465, R466: the n bytes at an address of BAR0 as a reader sees them; a reserved offset, and a register of an absent die,
read zero. -/
def State.bar0Bytes (s : State) (mid addr n : Nat) : List Byte :=
  (List.range n).map fun k =>
    match regAt (addr + k) with
    | some (r, b, die) =>
      let d := die.getD 0
      let base := match die with
        | some d => cdBase d
        | none => 0
      if die.isSome && !s.present d then 0
      else BitVec.ofNat 8 (s.wordFor mid r b d (r.elem b base) / 2 ^ (8 * (addr + k - b)))
    | none => 0

/-- R307: a host read of n bytes of BAR0, which carries MID 0x100: naturally aligned 4-byte and 8-byte reads are answered with
data, any other with Unsupported Request. -/
def State.bar0Read (s : State) (addr n : Nat) : Answer :=
  if (n = 4 || n = 8) && addr % n = 0 then .data (s.bar0Bytes 0x100 addr n) else .unsupported

/-- R305: what a page of BAR2 belongs to. -/
inductive Page where
  | sq (r : Nat)
  | cq (c : Nat)
  | eq
  | mbx (m : Nat)
  | unused
  deriving DecidableEq, Repr

/-- R305: the doorbell pages, 4 KiB each. -/
def pageOf (k : Nat) : Page :=
  if k < 64 then .sq k else if k < 128 then .cq (k - 64) else if k = 128 then .eq
  else if 160 ≤ k && k < 192 then .mbx (k - 160) else .unused

/-- R305, R315, R324: the n bytes at an offset of a page of BAR2: a doorbell returns the value that the part holds, a mailbox
page what its channel offers; offsets beyond these and other pages read zero. -/
def State.bar2Read (s : State) (page off n : Nat) : List Byte :=
  let word (v : Nat) : List Byte := slice (leBytes 4 v ++ zeros 4092) off n
  match pageOf page with
  | .sq r => fit n (word (s.rd (R.SQ_STATE_TAIL r)))
  | .cq c => fit n (word (s.rd (R.CQ_STATE_HEAD c)))
  | .eq => fit n (word (s.rd R.HIF_EQ_STATE_HEAD))
  | .mbx m => if s.mbxHost m = 0 || 0x80 < off + n then zeros n else s.bar0Bytes (s.mbxHost m) (0x21000 + 0x80 * m + off) n
  | .unused => zeros n

/-- R305: class code of the one physical function, a processing accelerator. -/
abbrev classCode : Nat := 0x120000

/-- R305: the sizes of BAR0 and BAR2, in bytes. -/
abbrev bar0Size : Nat := 64 * 2 ^ 20
abbrev bar2Size : Nat := 2 ^ 20

end Sys2Proof.Machine
end

