-- ==== Sys2Proof/Machine/Replay.lean ====
section
/-! DEFINITION. The replay registers (R460, R463, R464): the reserve's configuration and the arm. -/

namespace Sys2Proof.Machine

/-- R472, R464: who writes RPL_CFG and RPL_ARM. -/
def replayMid (mid : Nat) : Bool := isMgmt mid || mid = 0x100

/-- R460: a reserve of some GiB leaves the first 1 GiB and every LOC 3 handle alone; an empty one overlaps nothing. -/
def State.reserveFits (s : State) (gib : Nat) : Bool :=
  let top := s.spaceBytes 3 0 - gib * 2 ^ 30
  gib = 0 || decide (gib * 2 ^ 30 + 2 ^ 30 ≤ s.spaceBytes 3 0) && (s.ranges 3 0).all fun r => decide (r.1 + r.2 ≤ top)

/-- R460, R474: the value written to RPL_CFG. Captures that no longer fit are evicted, oldest first (DESIGN CHOICE,
log 90). -/
def State.putReplayCfg (s : State) (v : Nat) : State :=
  if s.on R.RPL_CFG_LOCK then s
  else if s.jobs.any Job.live || !s.reserveFits (bits v 16 10) then s.raiseRange 8 Unit.NONE
  else
    let s1 := ((s.wr R.RPL_CFG_CAPTURE (bits v 0 1)).wr R.RPL_CFG_RESERVE_GIB (bits v 16 10)).wr R.RPL_CFG_LOCK (bits v 63 1)
    { s1 with captures := s1.makeRoom 0 s1.captures.length s1.captures }.countCaptures

/-- R463: the value written to RPL_ARM. -/
def State.putReplayArm (s : State) (v : Nat) : State :=
  let id := bits v 0 48
  let en := bitOf v 63
  let found := s.captures.any fun c => c.job = id
  let s1 := ((s.wr R.RPL_ARM_JOBID id).wr R.RPL_ARM_EN (b2n (en && found))).wr R.RPL_STATUS_ARMED (b2n (en && found))
  if en then s1.wr R.RPL_STATUS_NOTFOUND (b2n (!found)) else s1

/-- RPL_ARM_WRITE (R463, R464, R472): a write of all 64 bits. -/
def execRplArmWrite (mid : BitVec 12) (value : Word64) (s : State) : Host.Outcome State Fault Refusal :=
  .next <|
    if !s.power.on || (isHostMid mid.toNat && !s.hostUp) then s
    else if replayMid mid.toNat then s.putReplayArm value.toNat
    else s.raiseRange 8 Unit.NONE

/-- RPL_CFG_WRITE (R460, R464, R472, R474): a write of all 64 bits. -/
def execRplCfgWrite (mid : BitVec 12) (value : Word64) (s : State) : Host.Outcome State Fault Refusal :=
  .next <|
    if !s.power.on || (isHostMid mid.toNat && !s.hostUp) then s
    else if replayMid mid.toNat then s.putReplayCfg value.toNat
    else s.raiseRange 8 Unit.NONE

end Sys2Proof.Machine
end

