-- ==== Sys2Proof/Machine/RegWrite.lean ====
section
/-! DEFINITION. A write to a register of BAR0 (R13, R442, R465–R475): who may write it, the width and the half it covers,
access codes, locks, and what the owning chapters add. A write to a register whose write has a row of its own does what
that row does; a request in PACE_REQ waits for the rows that bring what it measures (DESIGN CHOICE, log 91). -/

namespace Sys2Proof.Machine

/-! ### Writers (R472) -/

/-- R472: whether a MID may write a register of a group of writers. Registers of a mailbox channel are told apart by
channel (R324). -/
def mayWrite (service : Bool) (mid : Nat) : Writers → Bool
  | .hostRings => mid = 0x100 || mid = 2 || mid = 3
  | .replay => replayMid mid
  | .mgmt => isMgmt mid
  | .perChannel => listedMid mid
  | .secOnly => mid = 1
  | .mgmtCores => mid = 2 || mid = 3
  | .twin => mid = 1 || mid = 0x200
  | .mgmtDebug => isMgmt mid || mid = 0x200
  | .margin => mid = 1 || (mid = 0x200 && service)

/-- R235 step 3: a die supervisor, core 7 of its die, sets CHIVE_RUN. -/
def supervisor (r : RegRow) (die : Option Nat) (mid : Nat) : Bool :=
  match die with
  | some d => r.name = "CHIVE_RUN" && mid = coreMid d 7
  | none => false

/-- R13: a field that a write can change or act on. -/
def FRow.writable (f : FRow) : Bool := f.acc != .ro

/-! ### Fields (R13, R471, R474) -/

/-- The part of a write that falls on a register: its first bit, how many bits it covers, and their value. -/
structure Put where
  lo : Nat
  n : Nat
  v : Nat
  deriving DecidableEq, Repr

/-- The bits of a write that fall on a field, as the field counts them, zero where it does not reach. -/
def Put.onto (p : Put) (f : FRow) : Nat := bits (p.v * 2 ^ p.lo) f.lo f.w

/-- A mask of the field's bits that a write covers. -/
def Put.mask (p : Put) (f : FRow) : Nat := bits ((2 ^ p.n - 1) * 2 ^ p.lo) f.lo f.w

/-- R471: a field's value after a write: the covered bits written, the others held. -/
def Put.merge (p : Put) (f : FRow) (old : Nat) : Nat := old &&& (2 ^ f.w - 1 - p.mask f) ||| p.onto f

/-- R13: the value that an access code gives a field. -/
def Put.result (p : Put) (f : FRow) (isLocked : Bool) (old : Nat) : Nat :=
  match f.acc with
  | .rw => p.merge f old
  | .ro => old
  | .wo => old
  | .w1c => old &&& (2 ^ f.w - 1 - p.onto f)
  | .rw1s => old ||| p.onto f
  | .rwl => if isLocked then old else p.merge f old

/-- R310, R326, R289, R347 and the stall limits: what a register holds for a value written to the field at its bit 0:
BASE registers keep bits 11:0 zero, a limit below 10 holds 10, a time-out below 2 holds 2, and a larger split holds
3,840. -/
def held (name : String) (lo v : Nat) : Nat :=
  if lo != 0 then v
  else if name = "SQ_BASE" || name = "CQ_BASE" || name = "HIF_EQ_BASE" then v / 4096 * 4096
  else if name.endsWith "STALL_LIMIT" || name = "SPAD_RTMO" then max 10 v
  else if name = "FAB_RTO" then max 2 v
  else if name = "MEM_SPLIT" then min 3840 v
  else v

/-- R474: the lock of a register is set. -/
def State.isLocked (s : State) (r : RegRow) (die : Option Nat) : Bool :=
  match r.lock with
  | some (o, b) => s.on ⟨(match die with | some d => cdBase d | none => 0) + o, b, 1, 0, false⟩
  | none => false

/-- R473: the fields of a register written in one step. -/
def State.putFields (s : State) (r : RegRow) (addr : Nat) (isLocked : Bool) (p : Put) : State :=
  r.fields.foldl (fun (t : State) f =>
    if f.writable && p.mask f != 0 then
      let old := s.rd (f.fld addr)
      let new := p.result f isLocked old
      t.wr (f.fld addr) (if new = old then old else held r.name f.lo new)
    else t) s

/-- R471: a register's value with a write merged in: the half that is not covered is the held one. -/
def Put.word (p : Put) (old : Nat) : Nat := setBits old p.lo p.n p.v

/-! ### What the owning chapters add -/

/-- R310: a write to a ring's BASE or CFG while its EN bit (given) is 1 is ignored, unless it clears EN. -/
def ringKept (isOn : Bool) (en : Option Nat) (p : Put) : Bool :=
  isOn && match en with
    | some b => !(decide (p.lo ≤ b) && decide (b < p.lo + p.n) && !bitOf (p.v * 2 ^ p.lo) b)
    | none => true

/-- R310: a ring's CFG, with EN at bit `en`, would enable a ring of a size outside 4 to 12. -/
def sizeBad (w en : Nat) : Bool := bitOf w en && (bits w 0 4 < 4 || 12 < bits w 0 4)

/-- The writes that a register's own chapter has ignored (R286, R310, R347, and the notes on SU_PROGBASE and
DILL_KOBASE). `i` counts the elements of the outer array from its base. -/
def State.keeps (s : State) (name : String) (d i : Nat) (p : Put) : Bool :=
  match name with
  | "SQ_BASE" => ringKept (s.on (R.SQ_CFG_EN i)) none p
  | "SQ_CFG" => ringKept (s.on (R.SQ_CFG_EN i)) (some 24) p
  | "CQ_BASE" => ringKept (s.on (R.CQ_CFG_EN i)) none p
  | "CQ_CFG" => ringKept (s.on (R.CQ_CFG_EN i)) (some 32) p
  | "HIF_EQ_BASE" => ringKept (s.on R.HIF_EQ_CFG_EN) none p
  | "HIF_EQ_CFG" => ringKept (s.on R.HIF_EQ_CFG_EN) (some 24) p
  | "SU_PROGBASE" => s.rd (R.SU_BUSY_BUSY d) != 0
  | "DILL_KOBASE" => (s.dillCtx d 0).active || (s.dillCtx d 1).active
  | "QCH_QCFG" | "QCH_CHTAB0" | "QCH_CHTAB1" | "QCH_CHRECV" => (s.jobOn d).isSome
  | "FAB_RXTAB" => s.rxUsed i
  | "FAB_MCAST" => s.mcastInUse i
  | _ => false

/-- A ring whose size is changed starts again with head and tail at 0 (DEDUCED, log 92). -/
def State.restartRing (s : State) (name : String) (i : Nat) : State :=
  match name with
  | "SQ_CFG" => { (s.wr (R.SQ_STATE_HEAD i) 0).wr (R.SQ_STATE_TAIL i) 0 with sqTimes := mapDel s.sqTimes i }
  | "CQ_CFG" => ((s.wr (R.CQ_STATE_HEAD i) 0).wr (R.CQ_STATE_TAIL i) 0).wr (R.CQ_STATE_PHASE i) 1
  | _ => (s.wr R.HIF_EQ_STATE_HEAD 0).wr R.HIF_EQ_STATE_TAIL 0

/-- R316, R318: what enabling a ring does: POLL is written 0 for a submission ring; a completion ring whose tail is 0
starts with PHASE 1 (DEDUCED, log 92). -/
def State.enabledRing (s : State) (name : String) (i : Nat) : State :=
  match name with
  | "SQ_CFG" => s.setPoll i 0
  | "CQ_CFG" => if s.rd (R.CQ_STATE_TAIL i) = 0 then s.wr (R.CQ_STATE_PHASE i) 1 else s
  | _ => s

/-- R310: a write to a ring's CFG; `en` and `size` are its EN and LOG2SZ fields. One that would enable a ring of no legal size
is refused with RANGE; one that clears EN is taken whatever size it brings (DEDUCED, log 92). -/
def State.putRing (s : State) (r : RegRow) (addr i : Nat) (en size : Fld) (p : Put) : State :=
  if sizeBad (p.word (s.regWord r addr 0 i)) en.lo then s.raiseRange 8 Unit.NONE
  else
    let s1 := s.putFields r addr false p
    let s2 := if s1.rd size = s.rd size then s1 else s1.restartRing r.name i
    if s2.on en && !s.on en then s2.enabledRing r.name i else s2

/-- R469, R321: a write to a vector's control word: a message that waits is sent once the vector is unmasked. -/
def State.unmask (s : State) (v : Nat) : State :=
  if !s.on (R.MSIX_CTL_MASK v) && bitOf (s.rd (R.MSIX_PBA_PEND (v / 64))) (v % 64) then
    (s.wr (R.MSIX_PBA_PEND (v / 64)) (clearBit (s.rd (R.MSIX_PBA_PEND (v / 64))) (v % 64))).sendMsix v
  else s

/-- R208: the cores whose bit of CHIVE_RUN is 0 are held at their reset vector. -/
def State.holdCores (s : State) (d : Nat) : State :=
  ((List.range 7).foldl (fun (t : State) c =>
    if bitOf (s.rd (R.CHIVE_RUN_RUN d)) c then t else t.updCore d c fun k => { k with pc := 0x40000 }) s).showHalted d

/-- The state that a command's meaning answers. -/
def nextOr (s : State) : Host.Outcome State Fault Refusal → State
  | .next t => t
  | _ => s

/-- R324: a write to MBX_MASK: each channel's bit is its receiver's; a write that would change another's raises RANGE. -/
def State.putMask (s : State) (mid v : Nat) : State :=
  let old := s.rd R.MBX_MASK_MASK
  let changed := (List.range 32).filter fun m => bitOf v m != bitOf old m
  let mine (m : Nat) : Bool := mid = s.rd (R.MBX_BIND_RECEIVER m) && mid != 0
  let s1 := s.wr R.MBX_MASK_MASK (changed.foldl (fun w m => if mine m then setBits w m 1 (b2n (bitOf v m)) else w) old)
  if changed.all mine then s1 else s1.raiseRange 8 Unit.NONE

/-- R324: a write of ones to MBX_STATUS.REFUSED: each bit is its channel's sender's. -/
def State.putRefused (s : State) (mid v : Nat) : State :=
  let ms := (List.range 32).filter fun m => bitOf v m
  let mine (m : Nat) : Bool := mid = s.rd (R.MBX_BIND_SENDER m) && mid != 0
  let s1 := s.wr R.MBX_STATUS_REFUSED (ms.foldl (fun w m => if mine m then clearBit w m else w) (s.rd R.MBX_STATUS_REFUSED))
  if ms.all mine then s1 else s1.raiseRange 8 Unit.NONE

/-- R324: a write to the data of channel m at byte offset `o`, into its staging buffer. -/
def State.putStage (s : State) (mid m o : Nat) (bs : List Byte) : State :=
  if mid = 0 || mid != s.rd (R.MBX_BIND_SENDER m) then s.mbxDeny mid m
  else if !s.mbxLive m then s
  else { s with mbxStage := mapPutBytes s.mbxStage (64 * m + o) bs }

/-- R258: a write to SPAD_TWIN_CTL: its request begins when the half that holds OP is written (R471). -/
def State.putTwin (s : State) (r : RegRow) (addr d mid : Nat) (p : Put) : State :=
  let s1 := s.putFields r addr false p
  let w := p.word (s.regWord r addr d 0)
  let bank : Fin 64 := Fin.ofNat 64 (bits w 0 6)
  let row : BitVec 16 := BitVec.ofNat 16 (bits w 16 16)
  let m : BitVec 12 := BitVec.ofNat 12 mid
  let die : DieId := Fin.ofNat 8 d
  if p.lo + p.n ≤ 32 then s1
  else if bits w 32 2 = 1 then nextOr s1 (execRawRd m die bank row s1)
  else if bits w 32 2 = 2 then nextOr s1 (execRawWr m die bank row s1)
  else if bits w 32 2 = 3 then nextOr s1 (execDecRd m die bank row s1)
  else s1

/-! ### The write -/

/-- A write that a register takes: a register with a rule of its own goes by it, the others field by field. -/
def State.putReg (s : State) (r : RegRow) (addr d i mid : Nat) (isLocked : Bool) (p : Put) : State :=
  let w := p.word (s.regWord r addr d i)
  let m : BitVec 12 := BitVec.ofNat 12 mid
  let die : DieId := Fin.ofNat 8 d
  let word : Word64 := BitVec.ofNat 64 w
  match r.name with
  | "SQ_CFG" => s.putRing r addr i (R.SQ_CFG_EN i) (R.SQ_CFG_LOG2SZ i) p
  | "CQ_CFG" => s.putRing r addr i (R.CQ_CFG_EN i) (R.CQ_CFG_LOG2SZ i) p
  | "HIF_EQ_CFG" => s.putRing r addr i R.HIF_EQ_CFG_EN R.HIF_EQ_CFG_LOG2SZ p
  | "MSIX_CTL" => (s.putFields r addr false p).unmask i
  | "CHIVE_RUN" => (s.putFields r addr false p).holdCores d
  | "MBX_MASK" => s.putMask mid p.v
  | "MBX_STATUS" => if p.lo + p.n ≤ 32 then s else s.putRefused mid (bits (p.v * 2 ^ p.lo) 32 32)
  | "MBX_DATA" => s.putStage mid i ((addr - 0x21000) % 0x80 + p.lo / 8) (leBytes (p.n / 8) p.v)
  | "MBX_DB" => (List.range 32).foldl (fun (t : State) k =>
      if bitOf p.v k then nextOr t (execMbxDbClear m (Fin.ofNat 32 k) t) else t) s
  | "MBX_SEND" => if bitOf p.v 0 then nextOr s (execMbxSend m (Fin.ofNat 32 i) s) else s
  | "PKG_ALERT" => (s.clearAlerts (bits p.v 0 7)).wr R.PKG_ALERT_MASK (bits p.v 8 8)
  | "PWR_LIMIT" => s.setLimit (bits p.v 0 16)
  | "RPL_CFG" => s.putReplayCfg w
  | "RPL_ARM" => if p.lo + p.n ≤ 32 then s.putFields r addr false p else s.putReplayArm w
  | "SPAD_PWR" => nextOr s (execSpadPwrWrite m die word s)
  | "SPAD_TWIN_CTL" => s.putTwin r addr d mid p
  | "MEM_TG_CTL" => nextOr s (execMemTgStart m die (if p.lo + p.n ≤ 32 then BitVec.ofNat 64 (clearBit w 34) else word) s)
  | "MEM_MARGIN_CTL" =>
    if p.lo = 0 && bitOf p.v 1 then nextOr s (execMarginStart m die (Fin.ofNat 2 (bits p.v 0 1)) s)
    else s.putFields r addr false p
  | "PACE_CAP" => nextOr s (execPaceCapWrite die m (BitVec.ofNat 32 p.v) s)
  | "PACE_REQ" => s.putPaceReq d mid w
  | _ => s.putFields r addr isLocked p

/-- R472: a write from a MID that may not write the register: ignored, with RANGE; a request register marks it refused too
(R258, R300, R301, R420). -/
def State.denied (s : State) (name : String) (src d mid : Nat) : State :=
  match name with
  | "SPAD_TWIN_CTL" => s.twinRefuse mid d
  | "MEM_TG_CTL" => nextOr s (execMemTgStart (BitVec.ofNat 12 mid) (Fin.ofNat 8 d) 0 s)
  | "MEM_MARGIN_CTL" => nextOr s (execMarginStart (BitVec.ofNat 12 mid) (Fin.ofNat 8 d) 0 s)
  | "PACE_REQ" => (s.wr (R.PACE_REQ_REFUSED d) 1).raiseRange d Unit.POWER
  | _ => s.raiseRange src Unit.NONE

/-- R466, R471–R474: a write of `p` to the register at an address, if there is one and its die is present. -/
def State.writeReg (s : State) (mid addr : Nat) (p : Put) : State :=
  match regAt addr with
  | none => s
  | some (r, b, die) =>
    let d := die.getD 0
    let i := r.elem b (match die with | some d => cdBase d | none => 0)
    let q : Put := { p with lo := 8 * (addr - b), n := min p.n (r.width - 8 * (addr - b)), v := p.v % 2 ^ (r.width - 8 * (addr - b)) }
    if die.isSome && !s.present d then s
    else if !r.fields.any FRow.writable then s
    else if !(mayWrite (s.on R.SEC_STATE_SERVICE) mid r.writers || supervisor r die mid) then
      s.denied r.name (die.getD 8) d mid
    else if s.keeps r.name d i q then s
    else s.putReg r b d i mid (s.isLocked r die) q

/-- R471: an 8-byte write to an array of 32-bit registers 4 bytes apart writes two of them; to any other 32-bit register, its
upper half is ignored. -/
def pairAt (addr : Nat) : Bool :=
  match regAt addr with
  | some (r, _, _) => r.width = 32 && ((r.dims.getLast?).map (·.2)) == some 4
  | none => false

/-- The source that an event of an access to an address of BAR0 names: its die, or the hub. -/
def srcOf (a : Nat) : Nat := if 0x0100_0000 ≤ a && a < 0x0180_0000 then (a - 0x0100_0000) / 0x0010_0000 else 8

/-- REG_WRITE (R16, R307, R471, R472): a write of `size` bytes to an address of BAR0. -/
def execRegWrite (mid : BitVec 12) (addr : BitVec 26) (size : Fin 9) (value : Word64) (s : State) :
    Host.Outcome State Fault Refusal :=
  let m := mid.toNat
  let a := addr.toNat
  let n := size.val
  .next <|
    if !s.power.on || (isHostMid m && !s.hostUp) then s
    else if (n != 4 && n != 8) || a % n != 0 then
      if isHostMid m then s else s.raiseRange (srcOf a) Unit.NONE
    else if !listedMid m then s.raiseRange (srcOf a) Unit.NONE
    else if n = 8 && pairAt a then
      (s.writeReg m a ⟨0, 32, bits value.toNat 0 32⟩).writeReg m (a + 4) ⟨0, 32, bits value.toNat 32 32⟩
    else s.writeReg m a ⟨0, 8 * n, value.toNat % 2 ^ (8 * n)⟩

end Sys2Proof.Machine
end

