-- ==== Sys2Proof/Machine/VerifyRun.lean ====
section
/-! DEFINITION. The verifier's model of an image's progress (R207, R228, R229, R481): actors, their pops and pushes, one
greedy run, and the order that queue entries and layer barriers give to the starts of operations (R181, R192). -/

namespace Sys2Proof.Machine

/-- A step of an actor: an operation of its issue list or a program of its start list starts, an entry is popped or
pushed (`tok`: it is a descriptor token), a layer ends. -/
inductive VStep where
  | start (idx : Nat)
  | pop (q : Nat) (tok : Bool)
  | push (q : Nat) (tok : Bool)
  | barrier
  deriving DecidableEq, Repr

/-- R218: a profile expanded; the items after an unmatched loop end are given back (fuel: the items). -/
def expandProf : Nat → List Nat → List VStep × List Nat
  | 0, its => ([], its)
  | _ + 1, [] => ([], [])
  | f + 1, it :: its =>
    let n := bits it 32 32
    match bits it 9 3 with
    | 0 =>
      let r := expandProf f its
      let one (tok : Bool) : VStep := if bitOf it 7 then .push (bits it 0 7) tok else .pop (bits it 0 7) tok
      ((List.replicate (min n 1) (one (bitOf it 8)) ++ List.replicate (n - 1) (one false)) ++ r.1, r.2)
    | 1 =>
      let body := expandProf f its
      let r := expandProf f body.2
      ((List.replicate n body.1).flatten ++ r.1, r.2)
    | 2 => ([], its)
    | _ =>
      let r := expandProf f its
      (VStep.barrier :: r.1, r.2)

def profSteps (prof : List Nat) : List VStep := (expandProf (prof.length + 1) prof).1

/-- The steps of a macro-level group: its operations in order, each with its profile. -/
def groupSteps (img : List Byte) (die g : Nat) : List VStep :=
  (imgList img die g).flatMap fun v => VStep.start v.idx :: profSteps (((graphOp img v.op.site).map (·.prof)).getD [])

/-- R229: the steps that GRAPH declares for a fine-level group. -/
def fineSteps (img : List Byte) (die g : Nat) : List VStep :=
  match (imgGraph img).find? fun r => r.kind = 2 && r.die = die && r.group = g with
  | some r => profSteps r.prof
  | none => []

/-- Program i of a logical die's stream table. -/
def imgProg (img : List Byte) (die i : Nat) : List Byte := slice (imgOne img Sec.STREAMS die 0) (64 * i) 64

/-- The entries that a program moves. -/
def SProg.entries (p : SProg) : Nat := p.total * p.xbytes / 2048

/-- The steps of a stream unit from its n-th start on. -/
def unitSteps (img : List Byte) (die : Nat) : List Nat → Nat → List VStep
  | [], _ => []
  | i :: is, n =>
    if i = 0xFFFF_FFFF then VStep.barrier :: unitSteps img die is n
    else
      let p := parseProg (imgProg img die i)
      VStep.start n :: (List.replicate p.entries (if p.dir = 0 then VStep.push p.queue false else VStep.pop p.queue false) ++
        unitSteps img die is (n + 1))

/-- The actors of an image: 20 for each logical die, its groups and then its stream units. -/
def actorSteps (img : List Byte) (a : Nat) : List VStep :=
  let die := a / 20
  let k := a % 20
  if k < 4 then (if groupMacro img die k then groupSteps img die k else fineSteps img die k) else unitSteps img die (startMarks img die (k - 4)) 0

/-- The state of the greedy run: each actor's remaining steps and what it knows (for each actor, the operations or
programs known to have started), the entries of each queue (128 × die + queue) with what their pusher knew, the starts
and the ends of operations, each with what the actor knew then, the layers ended by die, and a queue that held an entry
at a barrier. `roomy` leaves the capacities of the queues out. -/
structure VSim where
  roomy : Bool := false
  prog : List (List VStep)
  know : List (List Nat)
  qs : NMap (List (List Nat)) := []
  starts : List (Nat × Nat × List Nat) := []
  ends : List (Nat × Nat × List Nat) := []
  layers : NMap Nat := []
  dirty : Option Nat := none
  deriving DecidableEq, Repr

/-- What two actors know together. -/
def knowJoin (a b : List Nat) : List Nat := (List.range (max a.length b.length)).map fun i => max (a.getD i 0) (b.getD i 0)

/-- A queue of a logical die is fed by the fabric. -/
def fabricFed (img : List Byte) (die q : Nat) : Bool := (imgRx img die).any fun r => r.2.2 = q

/-- One step is possible now. -/
def VSim.can (m : VSim) (img : List Byte) (die : Nat) : VStep → Bool
  | .start _ => true
  | .pop q _ => fabricFed img die q || !(mapGet [] m.qs (128 * die + q)).isEmpty
  | .push q _ => m.roomy || decide ((mapGet [] m.qs (128 * die + q)).length < (imgQueue img die q).cap)
  | .barrier => false

/-- An actor's next step is possible: an operation starts only with its first entry at hand. -/
def VSim.ready (m : VSim) (img : List Byte) (a : Nat) : Bool :=
  match m.prog.getD a [] with
  | .start _ :: x :: _ => m.can img (a / 20) x
  | x :: _ => m.can img (a / 20) x
  | [] => false

/-- The operation under way of an actor has no step left: its end is noted with what the actor knows. -/
def VSim.noteEnd (m : VSim) (a : Nat) : VSim :=
  let k := m.know.getD a []
  let over' : Bool := match m.prog.getD a [] with
    | [] => true
    | .start _ :: _ => true
    | _ => false
  if a % 20 < 4 && over' then { m with ends := m.ends ++ [(a, k.getD a 0 - 1, k)] } else m

/-- An actor's next step taken. An operation starts with its first entry at hand, so its start knows what that entry's
pusher knew. -/
def VSim.take (m : VSim) (a : Nat) : VSim :=
  let k := m.know.getD a []
  match m.prog.getD a [] with
  | [] => m
  | x :: xs =>
    let m1 := { m with prog := modifyAt (fun _ => xs) m.prog a }
    let front (q : Nat) : List Nat := (mapGet [] m1.qs (128 * (a / 20) + q)).headD []
    (match x with
    | .start i =>
      let k' := modifyAt (fun _ => i + 1) k a
      let seen := match xs with
        | .pop q _ :: _ => knowJoin k' (front q)
        | _ => k'
      { m1 with know := modifyAt (fun _ => k') m1.know a, starts := if a % 20 < 4 then m1.starts ++ [(a, i, seen)] else m1.starts }
    | .pop q _ =>
      let key := 128 * (a / 20) + q
      { m1 with qs := mapSet [] m1.qs key ((mapGet [] m1.qs key).drop 1), know := modifyAt (fun _ => knowJoin k (front q)) m1.know a }
    | .push q _ =>
      let key := 128 * (a / 20) + q
      { m1 with qs := mapSet [] m1.qs key (mapGet [] m1.qs key ++ [k]) }
    | .barrier => m1).noteEnd a

/-- An actor advanced as far as it goes (fuel: its steps). -/
def VSim.advance (img : List Byte) (a : Nat) : Nat → VSim → VSim
  | 0, m => m
  | f + 1, m => if m.ready img a then VSim.advance img a f (m.take a) else m

/-- A channel moves the head of its sender queue where it may (R228): to every receiver with room, or to the fabric. -/
def VSim.moveChan (img : List Byte) (die : Nat) (c : ChanRec) : Nat → VSim → VSim
  | 0, m => m
  | f + 1, m =>
    let key := 128 * die + c.sq
    let ends := (c.recv.take c.nrecv).map fun r => (bits r 8 3, bits r 0 7)
    match mapGet [] m.qs key with
    | e :: es =>
      if !c.en then m
      else if c.kind != 0 then VSim.moveChan img die c f { m with qs := mapSet [] m.qs key es }
      else if ends.all fun r => m.can img r.1 (.push r.2 false) then
        VSim.moveChan img die c f { m with
          qs := ends.foldl (fun q r => mapSet [] q (128 * r.1 + r.2) (mapGet [] q (128 * r.1 + r.2) ++ [e])) (mapSet [] m.qs key es) }
      else m
    | [] => m

/-- The steps that are left in all. -/
def VSim.left (m : VSim) : Nat := sumN (m.prog.map (·.length))

/-- One round: every actor, then every channel. -/
def VSim.round (img : List Byte) (m : VSim) : VSim :=
  let m1 := (List.range m.prog.length).foldl (fun t a => VSim.advance img a (t.prog.getD a []).length t) m
  (List.range (imgDies img)).foldl (fun t i => (imgChans img i).foldl (fun t c => VSim.moveChan img i c 1024 t) t) m1

/-- The actors of a group on its die: the group itself and its four stream units. -/
def groupActors (g : Nat) : List Nat := g :: (List.range 4).map fun i => 4 + 4 * g + i

/-- R207: a group is at a barrier: some of its actors are, and the rest have none before them and no operation under way. -/
def VSim.parked (m : VSim) (die g : Nat) : Bool :=
  let p (k : Nat) : List VStep := m.prog.getD (20 * die + k) []
  let here (k : Nat) : Bool := (p k).head? = some .barrier
  let between (k : Nat) : Bool := match p k with
    | [] => true
    | .start _ :: _ => k < 4 && !(p k).contains .barrier
    | _ => false
  (groupActors g).any here && (groupActors g).all fun k => here k || between k

/-- The groups of a die that are at a barrier: the image names no core mask, so groups that are there together end one
layer (DESIGN CHOICE, log 157). -/
def VSim.parkedGroups (m : VSim) (die : Nat) : List Nat := (List.range 4).filter (m.parked die)

/-- R207: a layer of a die may end. -/
def VSim.atBarrier (m : VSim) (die : Nat) : Bool := !(m.parkedGroups die).isEmpty

/-- A queue of an image's die has an end at one of the groups or at one of their stream units. -/
def queueOf (img : List Byte) (die : Nat) (gs : List Nat) (q : Nat) : Bool :=
  let r := imgQueue img die q
  gs.any fun g => [r.reader, r.writer].any fun x => x = g || (0x10 + 4 * g ≤ x && x < 0x14 + 4 * g)

/-- A layer of a die ended: whatever the actors of the groups at the barrier have started is known to all of them, and
their queues should be empty. -/
def VSim.endLayer (m : VSim) (img : List Byte) (die : Nat) : VSim :=
  let gs := m.parkedGroups die
  let mine (a : Nat) : Bool := a / 20 = die && gs.any fun g => (groupActors g).contains (a % 20)
  let all := (List.range m.know.length).foldl (fun k a => if mine a then knowJoin k (m.know.getD a []) else k) []
  { m with
    prog := (List.range m.prog.length).map fun a =>
      let p := m.prog.getD a []
      if mine a && p.head? = some .barrier then p.drop 1 else p
    know := (List.range m.know.length).map fun a => if mine a then all else m.know.getD a []
    layers := mapPut m.layers die (mapGet 0 m.layers die + 1)
    dirty := match m.dirty with
      | some k => some k
      | none => (m.qs.find? fun p => p.1 / 128 = die && queueOf img die gs (p.1 % 128)).map (·.1) }

/-- The greedy run (R228): rounds, and the end of a layer where no actor can go on (fuel: the steps). -/
def VSim.run (img : List Byte) : Nat → VSim → VSim
  | 0, m => m
  | f + 1, m =>
    let m1 := m.round img
    if m1 = m then
      match (List.range (imgDies img)).find? m.atBarrier with
      | some d => VSim.run img f (m.endLayer img d)
      | none => m
    else VSim.run img f m1

/-- The greedy run of an image from its start. -/
def simulate (img : List Byte) (roomy : Bool) : VSim :=
  let n := 20 * imgDies img
  let m : VSim := { roomy := roomy, prog := (List.range n).map (actorSteps img), know := List.replicate n (List.replicate n 0) }
  VSim.run img (2 * m.left + 2) m

/-- R228: some actor has not finished. -/
def VSim.stuck (m : VSim) : Bool := m.prog.any fun p => !p.isEmpty

/-! ### The order of operations (R181, R192) -/

/-- The start or the end of an operation: its actor, its place in the issue list, and whether it is the end. -/
abbrev VEvent : Type := Nat × Nat × Bool

def VOp.begins (v : VOp) : VEvent := (20 * v.die + v.group, v.idx, false)
def VOp.finishes (v : VOp) : VEvent := (20 * v.die + v.group, v.idx, true)

/-- What orders the operations of an image in every run: the greedy run, and the pairs of operations of which the second
reads a descriptor slot that the first writes; `size` is the number of operations. -/
structure VOrder where
  m : VSim
  size : Nat
  slots : List (VOp × VOp) := []

/-- The events that come directly before an event in every run. -/
def VOrder.preds (o : VOrder) (e : VEvent) : List VEvent :=
  let (a, i, fin) := e
  let rec' := (if fin then o.m.ends else o.m.starts).find? fun t => t.1 = a && t.2.1 = i
  let k := (rec'.map (·.2.2)).getD []
  let known := (List.range k.length).filterMap fun b =>
    if b % 20 < 4 && b != a && 1 ≤ k.getD b 0 then some ((b, k.getD b 0 - 1, false) : VEvent) else none
  if fin then (a, i, false) :: known
  else (if i = 0 then [] else [(a, i - 1, true)]) ++ known ++ (o.slots.filter fun p => p.2.begins = e).map (·.1.finishes)

/-- The events that come before those to do, with those seen already (fuel: the events). -/
def VOrder.reach (o : VOrder) : Nat → List VEvent → List VEvent → List VEvent
  | 0, _, seen => seen
  | _ + 1, [], seen => seen
  | f + 1, e :: es, seen =>
    let new := ((o.preds e).filter fun p => !seen.contains p).eraseDups
    VOrder.reach o f (new ++ es) (seen ++ new)

/-- Enough fuel for every event of the run. -/
def VOrder.fuel (o : VOrder) : Nat := 2 * o.size + 2

/-- The start of an operation comes before the start of another in every run. -/
def VOrder.before (o : VOrder) (v w : VOp) : Bool := (o.reach o.fuel [w.begins] []).contains v.begins

/-- The start of an operation comes before the end of another in every run: the second depends on the first. -/
def VOrder.leads (o : VOrder) (v w : VOp) : Bool := (o.reach o.fuel [w.finishes] []).contains v.begins

/-- The operation of the issue lists that has a site. -/
def opOfSite (img : List Byte) (site : Nat) : Option VOp := (imgOps img).find? fun v => v.op.site = site

/-- The site whose output a site's input 0 is, where it is another site's. -/
def siteBefore (img : List Byte) (site : Nat) : Option Nat :=
  ((graphOp img site).bind fun r => r.opnds.find? fun it => bits it 0 4 = 0 && bits it 4 4 = 1).map (bits · 32 32)

/-- The members of the value that a site makes: those of the declared input that its first inputs lead to (fuel: the
sites). -/
def siteMembers (img : List Byte) : Nat → Nat → Nat
  | 0, _ => 1
  | f + 1, site =>
    match siteBefore img site with
    | some w => siteMembers img f w
    | none =>
      match (graphOp img site).bind fun r => r.opnds.find? fun it => bits it 0 4 = 0 && bits it 4 4 = 0 with
      | some it => bits (leAt (imgInput img (bits it 32 32)) 0 8) 56 5 + 1
      | none => 1

/-- The samples of each member of the batch that a site makes: COUNT of the EXTRACT that its first inputs lead to (fuel:
the sites). -/
def siteSamples (img : List Byte) : Nat → Nat → Nat
  | 0, _ => 0
  | f + 1, site =>
    match opOfSite img site with
    | some v => if v.op.opc = 0x40 then v.op.arg 2 else match siteBefore img site with
      | some w => siteSamples img f w
      | none => 0
    | none => 0

/-- R181, R169: the slots that an operation writes: those of DOUT0 and DOUT1, and for RINGIFY the slots from DOUT0's on, one
for each 32 samples. -/
def VOp.outKeys (img : List Byte) (v : VOp) : List Nat :=
  let own := ([v.op.dout 0, v.op.dout 1].filter refNamesSlot).map refKey
  let f := (imgGraph img).length
  let n := if v.op.opc = 0x43 && refNamesSlot (v.op.dout 0) then ceilDiv (siteMembers img f v.op.site * siteSamples img f v.op.site) 32 else 1
  own ++ (List.range (n - 1)).map fun h => refKey (v.op.outRef true (h + 1))

/-- R181: the operations of which the second reads a descriptor slot that the first writes. -/
def slotPairs (img : List Byte) (m : VSim) (ops : List VOp) : List (VOp × VOp) :=
  let o : VOrder := { m := m, size := ops.length }
  ops.flatMap fun w =>
    let outs := w.outKeys img
    if outs.isEmpty then [] else
      (ops.filter fun v =>
        let ins := [v.op.din 0, v.op.din 1].filter fun x => refNamesSlot x && !refTok x
        (outs.any fun x => ins.any fun y => x = refKey y) &&
          (if v.die = w.die && v.group = w.group then decide (w.idx < v.idx) else !(o.before v w))).map fun v => (w, v)

/-- The operations that an operation directly depends on. -/
def VOrder.needs (o : VOrder) (w : VOp) : List (Nat × Nat) :=
  (((o.preds w.begins) ++ o.preds w.finishes).map fun e => (e.1, e.2.1)).filter fun p => p != (20 * w.die + w.group, w.idx)

/-- The operations in an order that their dependencies allow: the first of those left that needs none of them, or the
first of all where each needs another (fuel: the operations). -/
def VOrder.sort (o : VOrder) : Nat → List (VOp × List (Nat × Nat)) → List VOp
  | 0, _ => []
  | f + 1, l =>
    let here (v : VOp) : Nat × Nat := (20 * v.die + v.group, v.idx)
    match (l.find? fun x => !(x.2.any fun n => l.any fun y => here y.1 = n)).or l.head? with
    | some x => x.1 :: VOrder.sort o f (l.filter fun y => here y.1 != here x.1)
    | none => []

/-- The order of an image's operations, from the greedy run. Where that run does not come to its end, a run with room for
every entry takes its place (DEDUCED, log 130). -/
def VSim.orderOf (m : VSim) (img : List Byte) : VOrder :=
  let m' := if m.stuck then simulate img true else m
  { m := m', size := (imgOps img).length, slots := slotPairs img m' (imgOps img) }

/-- The operations of an image, sorted from the order in which they started. -/
def VOrder.ops (o : VOrder) (img : List Byte) : List VOp :=
  let ran := o.m.starts.map fun t => imgOp img (t.1 / 20) (t.1 % 20) t.2.1
  let rest := (imgOps img).filter fun v => !(o.m.starts.any fun t => t.1 = 20 * v.die + v.group && t.2.1 = v.idx)
  let l := (ran ++ rest).map fun v => (v, o.needs v)
  o.sort l.length l

end Sys2Proof.Machine
end

