-- ==== Sys2Proof/Machine/Release.lean ====
section
/-! DEFINITION. Releases (R358–R367): allowlists, the checks of a release request in their order, partial decryption with
smudging, sign probes with their tickets and replies, and the signed reply. -/

namespace Sys2Proof.Machine

/-! ### Requests (R311, R362) -/

/-- A release request's fields. -/
structure RelReq where
  kind : Nat
  target : Nat
  members : Nat
  epoch : Nat
  nonce : List Byte
  peerkey : List Byte
  deriving DecidableEq, Repr

/-- R362: the fields of a request. -/
def parseRel (b : List Byte) : RelReq :=
  { kind := leAt b 0 1, target := leAt b 4 4, members := leAt b 8 4, epoch := leAt b 0xC 4, nonce := fit 16 (slice b 0x10 16),
    peerkey := fit 64 (slice b 0x40 64) }

/-- R311: a RELEASE entry's own fields. -/
def State.releaseEntryOk (s : State) (e : Entry) : Bool :=
  s.entryOk e && e.kind = 4 && e.q 8 = 0 && aligned64 (e.q 0x10) && decide (e.q 0x18 < 2 ^ 32) && aligned64 (e.q 0x20) &&
    decide (e.q 0x28 < 2 ^ 32) && e.q 0x30 = 0

/-- R362: VER and the reserved fields that every kind shares. -/
def relShape (b : List Byte) : Bool := bits (leAt b 0 4) 8 4 = 1 && bits (leAt b 0 4) 12 20 = 0 && allZero (slice b 0x20 32)

/-- The members that a request selects, ascending. -/
def RelReq.selected (q : RelReq) : List Nat := (List.range 32).filter (bitOf q.members)

/-- What a release goes by: the request, its entry, the target's descriptor where it gives one, and the lineage records and
data handles that it is checked on. -/
structure RelCtx where
  e : Entry
  q : RelReq
  x : Option Desc
  deriving DecidableEq, Repr

/-- R366: the bytes of a member's block. -/
def RelCtx.block (c : RelCtx) (x : Desc) : Nat :=
  if c.q.kind = 1 then 32 + x.level * x.N * 4 else 32 + 64 + 8 + x.count * lweStride x.dim + 16

/-- R366: the length that the reply would have; 512 where the target gives none. -/
def RelCtx.need (c : RelCtx) : Nat :=
  512 + match c.x with
    | some x => c.q.selected.length * c.block x
    | none => 0

/-- R362: at least one member selected, and none above GROUPM1. -/
def RelCtx.membersOk (c : RelCtx) : Bool :=
  c.q.members != 0 && match c.x with
    | some x => c.q.members < 2 ^ x.M
    | none => true

/-! ### What jobs write (R363 check 3) -/

/-- The slots that a job's operations commit to. -/
def State.jobSlots (s : State) (j : Job) : List Nat :=
  let img := s.image j.slot
  (imgOps img).flatMap fun v => v.outKeys img

/-- The buffers that an image's graph gives its operations, of every group, as outputs (R218). -/
def State.graphDests (s : State) (j : Job) : List Nat :=
  (imgGraph (s.image j.slot)).flatMap fun r =>
    (r.opnds.filter fun it => (bits it 0 4 = 2 || bits it 0 4 = 3) && bits it 4 4 = 2).filterMap fun it =>
      handleOf (mapGet [] s.slotBufs j.slot) (j.dieMap.getD r.die 8) (bits it 32 32)

/-- The stream programs of an image. -/
def imgProgs (img : List Byte) : List SProg :=
  (List.range (imgDies img)).flatMap fun i => (chunks 64 (imgOne img Sec.STREAMS i 0)).map parseProg

/-- The data handles that a job writes: those of its output slots, those that its graph gives as outputs, its probe regions,
and what its programs drain to. -/
def State.jobDests (s : State) (j : Job) : List Nat :=
  let img := s.image j.slot
  (s.jobSlots j).flatMap (fun r =>
    let x := parseDesc (s.peek (refHandle r) (64 * refSlot r) 64)
    [x.h0, x.h1, x.h2].filter (· != nullHandle)) ++
    s.graphDests j ++ ((imgOps img).filter (·.op.opc = 0x44)).map (·.op.probe) ++ ((imgProgs img).filter (·.dir = 1)).map (·.handle)

/-- R363 check 3: a slot that is pending, or that an admitted job names with its handles as an output. -/
def State.relBusy (s : State) (slot : Option Nat) (hs : List Nat) : Bool :=
  (match slot with
   | some r => s.pendSlots.any (fun p => p.1 = refKey r) || s.jobs.any fun j => j.live && (s.jobSlots j).contains (refKey r)
   | none => false) || s.jobs.any fun j => j.live && hs.any (s.jobDests j).contains

/-! ### The checks (R363) -/

/-- R363: the causes. -/
abbrev Cause.EPOCH : Nat := 1
abbrev Cause.FROZEN : Nat := 2
abbrev Cause.BUSY : Nat := 3
abbrev Cause.TYPE : Nat := 4
abbrev Cause.BINDING : Nat := 5
abbrev Cause.POISON : Nat := 6
abbrev Cause.RECORD_UE : Nat := 7
abbrev Cause.FAILED_JOB : Nat := 8
abbrev Cause.CLASS : Nat := 9
abbrev Cause.FLOOR : Nat := 10
abbrev Cause.DIGEST : Nat := 11
abbrev Cause.REPEAT : Nat := 12
abbrev Cause.PEER : Nat := 13
abbrev Cause.ROOM : Nat := 14
abbrev Cause.BUDGET : Nat := 15

/-- R360: the effective k_min. -/
def Allow.floor (a : Allow) : Nat := max 3 a.kmin

/-- R364: the bits of smudging over a ledger value. -/
def smudgeBits (a : Allow) (noise : Nat) : Nat := ceilDiv noise 256 + a.smudge

/-- R364: the whole bits of the modulus of LEVEL limbs. -/
def logQ (c : Chain) (level : Nat) : Nat := sumN ((List.range level).map fun i => lambdaOf (c.prime i)) / 256

/-- R363 check 5: every data handle is bound as the target says. -/
def State.relBound (s : State) (x : Desc) : Bool := x.handles.all s.handleOk && s.boundAs x

/-- R363 check 6: no data handle is poisoned, TORN or STALE. -/
def State.relClean (s : State) (x : Desc) : Bool :=
  x.handles.all fun h => s.rd (R.SAGE_BIND_POISON (hDie h) (hIdx h)) = 0 && !s.hTorn h && !s.hStale h

/-- R363 checks 7 to 12 of one selected member: the cause of the first that fails. -/
def State.memberCause (s : State) (kind : Nat) (a : Allow) (i : Nat) (k : Nat) : Bool :=
  let r := s.recAt i
  if k = Cause.RECORD_UE then s.recUe i
  else if k = Cause.FAILED_JOB then r.job != 0 && s.sage.failed.contains r.job
  else if k = Cause.CLASS then r.cls != (if kind = 1 then Cls.AGGREGATE else Cls.MASKED)
  else if k = Cause.FLOOR then kind = 1 && decide (r.floor < a.floor)
  else if k = Cause.DIGEST then !a.entries.contains r.chain
  else if kind = 1 then decide (a.relmax ≤ r.relcount) else r.released

/-- R363 checks 7 to 12, in order: the first that fails, with its first failing member. -/
def State.recordCause (s : State) (c : RelCtx) (a : Allow) (x : Desc) : List Nat → Option (Nat × Nat)
  | [] => none
  | k :: ks =>
    match c.q.selected.find? fun m => s.memberCause c.q.kind a (x.lineage + m) k with
    | some m => some (k, m)
    | none => s.recordCause c a x ks

/-- R363: the checks, in order: the cause of the first that fails, with its member. -/
def State.relCause (s : State) (c : RelCtx) : Option (Nat × Nat) :=
  match s.sage.share, s.sage.allow with
  | some sh, some a =>
    if !(sh.epoch = c.q.epoch && a.epoch = sh.epoch) then some (Cause.EPOCH, 0)
    else if s.on R.SAGE_STATE_FROZEN then some (Cause.FROZEN, 0)
    else
      let slot := if c.q.kind = 1 then some c.q.target else none
      let hs := match c.q.kind, c.x with
        | 1, some x => x.handles
        | 1, none => []
        | _, _ => [c.q.target % 2 ^ 16]
      if s.relBusy slot hs then some (Cause.BUSY, 0)
      else
        match c.x with
        | none => some (Cause.TYPE, 0)
        | some x =>
          if c.q.kind = 1 && x.keyset != a.keyset then some (Cause.TYPE, 0)
          else if !s.relBound x then some (Cause.BINDING, 0)
          else if !s.relClean x then some (Cause.POISON, 0)
          else
            match s.recordCause c a x [Cause.RECORD_UE, Cause.FAILED_JOB, Cause.CLASS, Cause.FLOOR, Cause.DIGEST, Cause.REPEAT] with
            | some p => some p
            | none =>
              if c.q.kind = 2 && (allZero a.peerhash || !(a.peerhash == sha256 c.q.peerkey)) then some (Cause.PEER, 0)
              else if c.q.kind = 1 && decide (logQ (s.chainOf x.chain) x.level < smudgeBits a x.noise + a.head) then some (Cause.ROOM, 0)
              else if a.budget < s.sec.spent + c.q.selected.length then some (Cause.BUDGET, 0)
              else none
  | _, _ => some (Cause.EPOCH, 0)

/-! ### Replies (R366) -/

/-- R366: a reply's header. -/
def State.relHeader (s : State) (c : RelCtx) (cause members : Nat) : List Byte :=
  let al := s.sage.allow
  let x := c.x.getD { logn := 0, level := 0, chain := 0 }
  leBytes 4 (c.q.kind + cause * 2 ^ 16) ++ leBytes 4 members ++ leBytes 4 s.sec.epoch ++ leBytes 4 ((al.map (·.seq)).getD 0) ++ c.q.nonce ++
    leBytes 8 ((al.map (·.keyset)).getD 0) ++ leBytes 4 (x.logn % 2 ^ 5 + x.level % 2 ^ 7 * 2 ^ 8 + x.chain % 2 ^ 8 * 2 ^ 16) ++
    leBytes 4 s.sec.spent ++ zeros 80

/-- R366, R399: a reply signed under RIK and written to the host; a signature that fails its check is not sent. -/
def State.relReply (s : State) (c : RelCtx) (body : List Byte) : Bool × State :=
  match s.sign 2 body with
  | (some sig, t) => (true, t.toHost (c.e.q 0x20) (body ++ sig))
  | (none, t) => (false, t)

/-- R363, R368: a request refused with a cause: recorded, counted, raised, and answered with the header alone. -/
def State.relRefuse (s : State) (c : RelCtx) (cause member : Nat) : State :=
  let s1 := (((s.wr R.SAGE_LAST_CAUSE cause).wr R.SAGE_LAST_KIND c.q.kind).wr R.SAGE_LAST_MEMBER member).wr R.SAGE_LAST_TAG c.e.tag
  let s2 := (s1.inc R.SAGE_REFUSALS_COUNT 1).raise { code := Ev.GATE_REFUSED, unit := Unit.SAGE, detail := cause + c.e.tag * 2 ^ 32 }
  (s2.relReply c (s2.relHeader c cause 0)).2.postFor c.e { code := Ev.GATE_REFUSED }

/-- R361, R364: SPENT committed and the records marked, before anything leaves the part. -/
def State.relCommit (s : State) (c : RelCtx) (x : Desc) : State :=
  let mark (r : LinRec) : LinRec := if c.q.kind = 1 then { r with relcount := min 255 (r.relcount + 1) } else { r with released := true }
  let s1 := s.updSage fun g => { g with
    records := c.q.selected.foldl (fun m i => mapSet {} m (x.lineage + i) (mark (mapGet {} m (x.lineage + i)))) g.records }
  let s2 := s1.updSec fun y => { y with spent := y.spent + c.q.selected.length }
  (s2.wr R.SAGE_BUDGET_SPENT s2.sec.spent).inc R.SAGE_RELEASES_COUNT c.q.selected.length

/-- R366: the head of a member's block. -/
def State.memberHead (s : State) (x : Desc) (m : Nat) : List Byte :=
  let r := s.recAt (x.lineage + m)
  fit 32 (leBytes 4 m ++ leBytes 4 r.floor ++ leBytes 8 r.relcount ++ r.chain)

/-- R366: the reply of a release that has been committed: header, blocks, signature. -/
def State.relSend (s : State) (c : RelCtx) (blocks : List (List Byte)) : State :=
  match s.relReply c (s.relHeader c 0 c.q.members ++ blocks.flatten) with
  | (true, t) => t.postFor c.e {}
  | (false, t) => t.postFor c.e { code := Ev.LOVAGE_FAULT }

/-! ### Partial decryption (R364) -/

/-- A product in Z_q[X]/(X^N + 1): coefficient k. -/
def negaAt (q N : Nat) (a b : Nat → Nat) (k : Nat) : Nat :=
  sumTo N (fun i => if i ≤ k then a i * b (k - i) else (q - a i % q) * b (N + k - i)) % q

/-- R364: the smudging coefficient for a limb: CKKS in [−2^B, 2^B], BGV t times a value in a range that is narrower by the
bits of t. -/
def smudgeAt (c : Chain) (B : Nat) (seed : List Byte) (spent limb n : Nat) : Int :=
  let t := c.ptmod
  let w := if t = 0 then B else B - ((t - 1).log2 + 1)
  let e : Int := (Config.smudge seed spent limb n % (2 ^ (w + 1) + 1) : Nat) - (2 ^ w : Nat)
  if t = 0 then e else t * e

/-- R30, R31, R364: the limbs of a member's partial decryption: c1 · s + e, coefficients ascending. The share's residues are
coefficients (DESIGN CHOICE, log 87). -/
def partialDec (c : Chain) (sh : Share) (x : Desc) (B spent m : Nat) (c1 : List Byte) : List Byte :=
  (List.range x.level).flatMap fun i =>
    let q := c.prime i
    let raw := (wordsOf (slice c1 ((i * x.M + m) * x.N * 4) (4 * x.N))).map (· % q)
    let a := (if x.form = 1 then inttLimb q (c.root i) (n1Of x.logn) (n2Of x.logn) raw else raw).toArray
    let b := (wordsOf (slice sh.body (i * x.N * 4) (4 * x.N))).toArray
    (List.range x.N).flatMap fun n =>
      leBytes 4 (((negaAt q x.N (a.getD · 0) (b.getD · 0) n : Int) + smudgeAt c B sh.seed spent i n) % (q : Int)).toNat

/-- R363, R364: a DECRYPT request that passes: polynomial 1 read, SPENT committed, the blocks formed and sent. -/
def State.relDecrypt (s : State) (c : RelCtx) (sh : Share) (a : Allow) (x : Desc) : State :=
  let g := s.read x.h1 0 x.handleBytes { mid := 1 }
  let spent := s.sec.spent
  let s1 := g.st.relCommit c x
  let blocks := (c.q.selected.zipIdx).map fun p =>
    s1.memberHead x p.1 ++ partialDec (s.chainOf x.chain) sh x (smudgeBits a x.noise) (spent + p.2) p.1 g.bytes
  s1.relSend c blocks

/-! ### Sign probes (R171, R172, R367) -/

/-- R171: a sample masked with fresh draws. -/
def maskSample (q : Nat) (mask : Nat × Nat × Nat) (n : Nat) (y : Lwe) : Lwe :=
  let ρ := 2 ^ mask.1 + Config.freeNat n % (2 ^ mask.2.1 - 2 ^ mask.1)
  let e : Int := (Config.freeNat (n + 1) % (2 ^ (mask.2.2 + 1) + 1) : Nat) - (2 ^ mask.2.2 : Nat)
  ⟨y.a.map fun v => ρ * v % q, (((ρ * y.b : Nat) + e) % (q : Int)).toNat⟩

/-- R171: the samples of a member masked, two draws for each. -/
def State.maskMember (s : State) (q : Nat) (mask : Nat × Nat × Nat) (x : Desc) (m : Nat) (bs : List Byte) : State × List Byte :=
  let st := x.count * lweStride x.dim
  let ys := samplesOf x.dim x.count (slice bs (m * st) st)
  ({ s with free := s.free + 2 * x.count }, (ys.zipIdx).flatMap fun p => (maskSample q mask (s.free + 2 * p.2) p.1).toBytes)

/-- R367: the block of a member: head, ephemeral key, ticket, encrypted samples and tag. -/
def probeBlock (head eph : List Byte) (ticket : Nat) (x : List Byte) (m : Nat) (samples : List Byte) : List Byte :=
  let (key, iv, aad) := Config.probeKey x m
  let (ct, tag) := gcmEncrypt key iv aad samples
  head ++ eph ++ leBytes 8 ticket ++ ct ++ tag

/-- R172, R367: a ticket for the members of a release. -/
def State.newTicket (s : State) (c : RelCtx) (x : Desc) : State :=
  let src (m : Nat) : LinRec := s.recRead (s.recAt (x.lineage + m)).link
  let t : Ticket := { num := s.sage.nextTicket, epoch := s.sec.epoch, sources := c.q.selected.map src, keyset := x.keyset, chain := x.chain, used := false }
  s.updSage fun g => { g with tickets := g.tickets ++ [t], nextTicket := g.nextTicket + 1 }

/-- R363, R367, R370: a PROBE request that passes: an ephemeral key agreed with PEERKEY, SPENT committed, the samples masked,
encrypted and sent under one ticket (DESIGN CHOICE, log 88). Without random bits it is refused. -/
def State.relProbe (s : State) (c : RelCtx) (x : Desc) : State :=
  let h := c.q.target % 2 ^ 16
  match s.draw 32 with
  | none => s.refuseEntry c.e Ev.TRNG_FAIL Unit.SECURITY
  | some (r, s1) =>
    let k := scalarOf r
    match s1.agree k c.q.peerkey with
    | (none, s2) => s2.relRefuse c Cause.PEER 0
    | (some z, s2) =>
      let g := s2.read h 128 x.handleBytes { mid := 1 }
      let ticket := s.sage.nextTicket
      let s3 := (g.st.relCommit c x).newTicket c x
      let (s4, blocks) := c.q.selected.foldl (fun (acc : State × List (List Byte)) m =>
        let (t, ys) := acc.1.maskMember ((s.chainOf x.chain).prime 0) (mapGet (0, 0, 0) s.probeMask h) x m g.bytes
        (t, acc.2 ++ [probeBlock (s3.memberHead x m) (ecPub k) ticket z m ys])) (s3, [])
      s4.relSend c blocks

/-! ### The rows -/

/-- R366, R478: what a DECRYPT request's target slot holds: its descriptor where it is a ciphertext's and reads without an
uncorrectable error. -/
def State.relSlot (s : State) (r : Nat) : State × Option Desc :=
  if !s.slotOk r then (s, none)
  else
    let g := s.readSlot r { mid := 1 }
    let x := parseDesc (fit 64 g.bytes)
    (g.st, if !g.ue && x.type = 1 then some x else none)

/-- R366, R367: what a PROBE request's handle holds: the batch descriptor of a probe region. -/
def State.relRegion (s : State) (h : Nat) : State × Option Desc :=
  if !(s.handleOk h && s.hAttr h Attr.PROBE) then (s, none)
  else
    let g := s.read h 0 64 { mid := 1 }
    let x := parseDesc (fit 64 g.bytes)
    (g.st, if !g.ue && x.type = 4 then some x else none)

/-- R361, R363, R372: a request whose form and length are right: checked, and released or refused. `fails` tells that the
commit of SPENT fails: Sage is frozen and nothing leaves the part. -/
def State.relServe (s : State) (c : RelCtx) (fails : Bool) : State :=
  match s.relCause c with
  | some (k, m) => s.relRefuse c k m
  | none =>
    match s.sage.share, s.sage.allow, c.x with
    | some sh, some a, some x =>
      if fails then s.counterFail.relRefuse c Cause.FROZEN 0
      else if c.q.kind = 1 then s.relDecrypt c sh a x else s.relProbe c x
    | _, _, _ => s.relRefuse c Cause.EPOCH 0

/-- RELEASE_DECRYPT (R362–R366). A request whose KIND is none of the rule's is refused here. -/
def execReleaseDecrypt (r : Fin 64) (entry : List Byte) (req : List Byte) (fails : Bool) (ups : List Upset) (s : State) :
    Host.Outcome State Fault Refusal :=
  .next (
    if leAt req 0 1 = 2 || leAt req 0 1 = 3 then s
    else
      (s.plant ups).onEntry r entry 1 fun s e =>
        let q := parseRel req
        if !(s.releaseEntryOk e && s.on R.SAGE_CFG_ENABLE && e.q 0x18 = 64 && req.length = 64 && q.kind = 1 && relShape req &&
            bits q.target 30 2 = 0 && refNamesSlot q.target) then s.refuseEntry e Ev.RANGE Unit.HOST
        else
          let (s1, x) := s.relSlot q.target
          let c : RelCtx := { e := e, q := q, x := x }
          if c.membersOk && decide (c.need ≤ e.q 0x28) then s1.relServe c fails else s1.refuseEntry e Ev.RANGE Unit.HOST)

/-- RELEASE_PROBE (R362–R367). -/
def execReleaseProbe (r : Fin 64) (entry : List Byte) (req : List Byte) (fails : Bool) (ups : List Upset) (s : State) :
    Host.Outcome State Fault Refusal :=
  .next (
    if leAt req 0 1 != 2 then s
    else
      (s.plant ups).onEntry r entry 1 fun s e =>
        let q := parseRel req
        if !(s.releaseEntryOk e && s.on R.SAGE_CFG_ENABLE && e.q 0x18 = 128 && req.length = 128 && relShape req && bits q.target 16 16 = 0) then
          s.refuseEntry e Ev.RANGE Unit.HOST
        else
          let (s1, x) := s.relRegion q.target
          let c : RelCtx := { e := e, q := q, x := x }
          if c.membersOk && decide (c.need ≤ e.q 0x28) then s1.relServe c fails else s1.refuseEntry e Ev.RANGE Unit.HOST)

/-! ### Allowlists (R359, R360) -/

/-- R359: an allowlist's entries strictly ascend, as numbers. -/
def entriesAscend : List (List Byte) → Bool
  | a :: b :: es => decide (leNat a < leNat b) && entriesAscend (b :: es)
  | _ => true

/-- R359: the fields of an allowlist. -/
def parseAllow (b : List Byte) : Allow :=
  let w := leAt b 0x14 4
  { epoch := leAt b 4 4, seq := leAt b 8 4, kmin := leAt b 0xC 4, budget := leAt b 0x10 4, relmax := bits w 0 4, smudge := bits w 8 8,
    head := bits w 16 8, keyset := leAt b 0x18 8, peerhash := fit 32 (slice b 0x20 32),
    entries := (List.range (leAt b 2 2)).map fun i => fit 16 (slice b (64 + 16 * i) 16) }

/-- R359, R360: an allowlist's fields lie within their ranges. -/
def allowFieldsOk (b : List Byte) : Bool :=
  let n := leAt b 2 2
  let w := leAt b 0x14 4
  let a := parseAllow b
  leAt b 0 2 = 1 && 1 ≤ n && n ≤ 4096 && b.length = 64 + 16 * n + 384 && 1 ≤ a.relmax && bits w 4 4 = 0 && 40 ≤ a.smudge && a.smudge ≤ 96 &&
    1 ≤ a.head && a.head ≤ 128 && bits w 24 8 = 0 && entriesAscend a.entries

/-- R360: Sage accepts an allowlist: the state after its signature has been checked, and whether it is accepted. -/
def State.allowOk (s : State) (b : List Byte) : Bool × State :=
  match s.sage.share with
  | some sh =>
    let a := parseAllow b
    let n := 64 + 16 * leAt b 2 2
    if allowFieldsOk b && a.epoch = s.sec.epoch && sh.epoch = s.sec.epoch && decide (s.sec.allowSeq < a.seq) then
      s.verify sh.policy (slice b n 384) (b.take n)
    else (false, s)
  | none => (false, s)

/-- RELEASE_ALLOWLIST (R359, R360, R362): an allowlist put in force, or refused with RANGE. `fails` tells that the commit of
ALLOWSEQ fails (R372). -/
def execReleaseAllowlist (r : Fin 64) (entry : List Byte) (req : List Byte) (fails : Bool) (s : State) : Host.Outcome State Fault Refusal :=
  .next (
    if leAt req 0 1 != 3 then s
    else
      s.onEntry r entry 1 fun s e =>
        if !(s.releaseEntryOk e && s.on R.SAGE_CFG_ENABLE && 64 ≤ e.q 0x18 && req.length = e.q 0x18 && relShape req && e.q 0x20 = 0 && e.q 0x28 = 0) then
          s.refuseEntry e Ev.RANGE Unit.HOST
        else
          let b := req.drop 64
          let refuse (t : State) : State := (t.inc R.SAGE_REFUSALS_COUNT 1).refuseEntry e Ev.RANGE Unit.SAGE
          if s.on R.SAGE_STATE_FROZEN then refuse s
          else
            match s.allowOk b with
            | (false, s1) => refuse s1
            | (true, s1) =>
              let a := parseAllow b
              if fails then refuse s1.counterFail
              else
                let s2 := (s1.updSec fun x => { x with allowSeq := a.seq }).updSage fun g => { g with allow := some a }
                (s2.noteEpoch.extend 6 (leBytes 4 a.epoch ++ leBytes 4 a.seq ++ sha256 b)).postFor e {})

/-! ### Sign-probe replies (R172, R355 row 6) -/

/-- R351: the chain of a sign-probe reply. -/
def replyChain (src : LinRec) : List Byte := (sha256 (zeros 32 ++ leBytes 4 0xFFFF_FFFF ++ src.chain)).take 16

/-- R355 row 6: the record of a reply's member. -/
def replyRec (src : LinRec) : LinRec := { cls := src.cls, floor := src.floor, link := src.link, chain := replyChain src }

/-- R25, R172: a reply that may be admitted under a ticket: an unused ticket of the epoch in force, a ciphertext under its key
set and chain with one member for each source, in staging handles as a filing's, every residue below its prime. -/
def State.replyOk (s : State) (t : Ticket) (dref h0 h1 : Nat) (desc : List Byte) : Bool :=
  let x := parseDesc desc
  !t.used && t.epoch = s.sec.epoch && s.sage.share.isSome && desc.length = 64 && descReservedOk desc && x.type = 1 && x.polys = 2 &&
    x.special = 0 && x.poison = 0 && x.lineage = 0 && x.h0 = nullHandle && x.h1 = nullHandle && x.h2 = nullHandle && x.M = t.sources.length &&
    x.keyset = t.keyset && x.chain = t.chain && h0 != h1 && s.stagingOk h0 x.handleBytes && s.stagingOk h1 x.handleBytes &&
    bits dref 30 2 = 0 && refNamesSlot dref && s.slotOk dref && !s.slotNamed dref && !(s.pendSlots.any fun p => p.1 = refKey dref) &&
    match s.chain? x.chain with
    | some c => x.ringOk c
    | none => false

/-- The words of each limb of a polynomial buffer of a group lie below the limb's prime (R25, R31). -/
def groupResiduesOk (x : Desc) (ps : List Nat) (bs : List Byte) : Bool := residuesOk (x.M * x.N) ps bs

/-- PROBE_REPLY (R172, R367): the peer's reply, staged as a filing is (DESIGN CHOICE, log 89), admitted once against its
ticket; anything else is refused with RANGE. -/
def execProbeReply (ticket : Word64) (dref : Word32) (h0 h1 : BitVec 16) (desc : List Byte) (ups : List Upset) (s : State) :
    Host.Outcome State Fault Refusal :=
  let s := s.plant ups
  .next (
    if !(s.hostUp && s.on R.SAGE_CFG_ENABLE) then s
    else
      let refuse (t : State) : State := t.raise { code := Ev.RANGE, unit := Unit.SAGE }
      match s.sage.tickets.find? fun t => t.num = ticket.toNat with
      | none => refuse s
      | some t =>
        if !s.replyOk t dref.toNat h0.toNat h1.toNat desc then refuse s
        else
          let x := parseDesc desc
          let a0 := s.rd (R.SPAD_HTAB0_ATTR (hDie h0.toNat) (hIdx h0.toNat))
          let a1 := s.rd (R.SPAD_HTAB0_ATTR (hDie h1.toNat) (hIdx h1.toNat))
          let s1 := (s.revokeHost h0.toNat).revokeHost h1.toNat
          let g0 := s1.read h0.toNat 0 x.handleBytes { mid := 1 }
          let g1 := g0.st.read h1.toNat 0 x.handleBytes { mid := 1 }
          let ps := (s.chainOf x.chain).primes
          let back (u : State) : State := (u.setAttr h0.toNat a0).setAttr h1.toNat a1
          if g0.ue || g1.ue || !(groupResiduesOk x ps g0.bytes && groupResiduesOk x ps g1.bytes) then refuse (back g1.st)
          else
            match g1.st.assign (t.sources.map replyRec) with
            | none => (back g1.st).raise { code := Ev.LINEAGE_FULL, unit := Unit.SAGE }
            | some (l, s2) =>
              let y := { x with h0 := h0.toNat, h1 := h1.toNat, lineage := l }
              let s3 := (s2.setAttr h0.toNat (2 ^ Attr.CT)).setAttr h1.toNat (2 ^ Attr.CT)
              let s4 := (s3.writeSlot dref.toNat y.toBytes).bindDesc y
              s4.updSage fun g => { g with tickets := g.tickets.map fun k => if k.num = t.num then { k with used := true } else k })

end Sys2Proof.Machine
end

