-- ==== Sys2Proof/Machine/Spdm.lean ====
section
/-! DEFINITION. The SPDM responder (R382, R383). Requests and answers are held as the fields that the standard gives them;
their encodings are not modelled (PRESUMED, log 61). -/

namespace Sys2Proof.Machine

/-- The error codes of the standard that the responder answers with (PRESUMED, log 61). -/
abbrev SpdmErr.INVALID : Nat := 1
abbrev SpdmErr.SESSION : Nat := 2
abbrev SpdmErr.UNEXPECTED : Nat := 4
abbrev SpdmErr.UNSPECIFIED : Nat := 5
abbrev SpdmErr.DECRYPT : Nat := 6
abbrev SpdmErr.LIMIT : Nat := 10
abbrev SpdmErr.VERSION : Nat := 0x41

/-- R442: the responder answers from the moment the security firmware runs. -/
def State.spdmUp (s : State) : Bool := s.power.on && 1 ≤ s.rd R.SEC_STATE_STAGE && s.rd R.SEC_STATE_STAGE ≤ 4

/-- An answer given. -/
def State.spdm (s : State) (r : SpdmAnswer) : State := { s with answer := .spdm r }

/-- A request that needs the negotiation done. -/
def State.negotiated (s : State) (f : State → State) : State :=
  if !s.spdmUp then s else if s.sec.algs then f s else s.spdm (.error SpdmErr.UNEXPECTED)

/-- R370: a request that needs random bits which are not to be had. -/
def State.spdmTrng (s : State) : State :=
  ((s.secLast Ev.TRNG_FAIL Src.SPDM 0).raise { code := Ev.TRNG_FAIL, unit := Unit.SECURITY }).spdm (.error SpdmErr.UNSPECIFIED)

/-- R382: the hash of the chain in slot 0. -/
def State.certHash (s : State) : List Byte := sha256 s.akChain

/-- A signature by AK over a request's transcript, or none. -/
def State.spdmSign (s : State) (code : Nat) (fs : List (List Byte)) : Option (List Byte) × State := s.sign 1 (Config.spdmBytes code fs)

/-- SPDM_GET_VERSION (R382): 1.2 and 1.3; what was negotiated before is forgotten. -/
def execSpdmGetVersion (s : State) : Host.Outcome State Fault Refusal :=
  .next (
    if s.spdmUp then
      (s.updSec fun x => { x with version := 0, caps := false, algs := false, sessions := [] }).spdm (.version [0x12, 0x13])
    else s)

/-- SPDM_GET_CAPABILITIES (R382): in the version that the requester names. -/
def execSpdmGetCapabilities (version : BitVec 8) (s : State) : Host.Outcome State Fault Refusal :=
  .next (
    if !s.spdmUp then s
    else if version = 0x12 || version = 0x13 then
      (s.updSec fun x => { x with version := version.toNat, caps := true, algs := false }).spdm (.capabilities 4)
    else s.spdm (.error SpdmErr.VERSION))

/-- SPDM_NEGOTIATE_ALGORITHMS (R382): the part offers one set; a requester that does not take it is refused. -/
def execSpdmNegotiateAlgorithms (offered : Bool) (s : State) : Host.Outcome State Fault Refusal :=
  .next (
    if !s.spdmUp then s
    else if !s.sec.caps then s.spdm (.error SpdmErr.UNEXPECTED)
    else if offered then (s.updSec fun x => { x with algs := true }).spdm .algorithms
    else s.spdm (.error SpdmErr.INVALID))

/-- SPDM_GET_DIGESTS (R382): slot 0 alone holds a chain. -/
def execSpdmGetDigests (s : State) : Host.Outcome State Fault Refusal :=
  .next (s.negotiated fun s => s.spdm (.digests [(0, s.certHash)]))

/-- SPDM_GET_CERTIFICATE (R379, R382): a portion of the AK chain. -/
def execSpdmGetCertificate (slot : Fin 8) (off len : BitVec 16) (s : State) : Host.Outcome State Fault Refusal :=
  .next (s.negotiated fun s =>
    let c := s.akChain
    let p := slice c off.toNat len.toNat
    if slot = 0 && decide (off.toNat < c.length) then s.spdm (.certificate p (c.length - off.toNat - p.length))
    else s.spdm (.error SpdmErr.INVALID))

/-- SPDM_CHALLENGE (R382): the requester's nonce answered with the part's own and a signature by AK. -/
def execSpdmChallenge (slot : Fin 8) (nonce : List Byte) (s : State) : Host.Outcome State Fault Refusal :=
  .next (s.negotiated fun s =>
    if slot != 0 then s.spdm (.error SpdmErr.INVALID)
    else
      match s.draw 32 with
      | none => s.spdmTrng
      | some (mine, s1) =>
        match s1.spdmSign 0x83 [fit 32 nonce, s1.certHash, mine] with
        | (some sig, s2) => s2.spdm (.challenge s1.certHash mine sig)
        | (none, s2) => s2.spdm (.error SpdmErr.UNSPECIFIED))

/-- R383: the blocks that a measurement request asks for: 0 their count alone, k + 1 that of MEASk, 0xFF all. -/
def State.measBlocks (s : State) (which : Nat) : Option (List (Nat × List Byte)) :=
  let block (k : Nat) : Nat × List Byte := (k + 1, s.meas k)
  if which = 0 then some []
  else if which ≤ 8 then some [block (which - 1)]
  else if which = 0xFF then some ((List.range 8).map block)
  else none

/-- SPDM_GET_MEASUREMENTS (R383): MEAS0 to MEAS7 in digest form, signed where the request asks for it. -/
def execSpdmGetMeasurements (which : BitVec 8) (signed : Bool) (slot : Fin 8) (nonce : List Byte) (s : State) :
    Host.Outcome State Fault Refusal :=
  .next (s.negotiated fun s =>
    match s.measBlocks which.toNat with
    | none => s.spdm (.error SpdmErr.INVALID)
    | some bs =>
      if !signed then s.spdm (.measurements bs [] [])
      else if slot != 0 then s.spdm (.error SpdmErr.INVALID)
      else
        match s.draw 32 with
        | none => s.spdmTrng
        | some (mine, s1) =>
          match s1.spdmSign 0xE0 ([fit 32 nonce, mine] ++ bs.map (·.2)) with
          | (some sig, s2) => s2.spdm (.measurements bs mine sig)
          | (none, s2) => s2.spdm (.error SpdmErr.UNSPECIFIED))

/-! ### Sessions (R382) -/

/-- The session with a number. -/
def State.session? (s : State) (id : Nat) : Option Session := s.sec.sessions.find? (·.id = id)

/-- The state with a session changed. -/
def State.updSession (s : State) (id : Nat) (f : Session → Session) : State :=
  s.updSec fun x => { x with sessions := x.sessions.map fun k => if k.id = id then f k else k }

/-- The state without a session. -/
def State.dropSession (s : State) (id : Nat) : State :=
  s.updSec fun x => { x with sessions := x.sessions.filter (·.id != id) }

/-- The part's half of a new session's number: the lowest that no session has (DESIGN CHOICE, log 164). -/
def State.sessionHalf (s : State) : Nat :=
  (((List.range 4).filter fun k => s.sec.sessions.all fun x => x.id / 2 ^ 16 != k).head?).getD 0

/-- SPDM_KEY_EXCHANGE (R382, R397): up to four sessions; ECDH on P-256, signed by AK. -/
def execSpdmKeyExchange (slot : Fin 8) (sid : BitVec 16) (random : List Byte) (exchange : List Byte) (s : State) :
    Host.Outcome State Fault Refusal :=
  .next (s.negotiated fun s =>
    if slot != 0 then s.spdm (.error SpdmErr.INVALID)
    else if 4 ≤ s.sec.sessions.length then s.spdm (.error SpdmErr.LIMIT)
    else
      match s.draw 64 with
      | none => s.spdmTrng
      | some (r, s1) =>
        let k := scalarOf (r.drop 32)
        match s1.agree k (fit 64 exchange) with
        | (none, s2) => s2.spdm (.error SpdmErr.INVALID)
        | (some x, s2) =>
          let fs := [fit 32 random, fit 64 exchange, r.take 32, ecPub k]
          match s2.spdmSign 0xE4 fs with
          | (none, s3) => s3.spdm (.error SpdmErr.UNSPECIFIED)
          | (some sig, s3) =>
            let id := sid.toNat + s.sessionHalf * 2 ^ 16
            let new : Session := { id := id, secret := Config.sessionSecret (x ++ Config.spdmBytes 0xE4 (fs ++ [sig])) }
            (s3.updSec fun y => { y with sessions := y.sessions ++ [new] }).spdm (.keyExchange id (r.take 32) (ecPub k) sig))

/-- SPDM_FINISH (R382): the requester's verify data completes the session; other data ends it. -/
def execSpdmFinish (session : Word32) (mac : List Byte) (s : State) : Host.Outcome State Fault Refusal :=
  .next (s.negotiated fun s =>
    match s.session? session.toNat with
    | some k =>
      if k.done then s.spdm (.error SpdmErr.UNEXPECTED)
      else if mac == Config.finishData k.secret then (s.updSession k.id fun x => { x with done := true }).spdm .finish
      else (s.dropSession k.id).spdm (.error SpdmErr.DECRYPT)
    | none => s.spdm (.error SpdmErr.SESSION))

/-- A request inside a session that is complete. -/
def State.inSession (s : State) (id : Nat) (f : State → State) : State :=
  s.negotiated fun s => if (s.session? id).any (·.done) then f s else s.spdm (.error SpdmErr.SESSION)

/-- SPDM_HEARTBEAT (R382): the session is kept. -/
def execSpdmHeartbeat (session : Word32) (s : State) : Host.Outcome State Fault Refusal :=
  .next (s.inSession session.toNat fun s => s.spdm .heartbeat)

/-- SPDM_KEY_UPDATE (R382): the requester's key updated (1) or both (2), or the new key verified (3). -/
def execSpdmKeyUpdate (session : Word32) (op : Fin 4) (s : State) : Host.Outcome State Fault Refusal :=
  .next (s.inSession session.toNat fun s =>
    if op = 0 then s.spdm (.error SpdmErr.INVALID)
    else if op = 3 then s.spdm .keyUpdate
    else
      (s.updSession session.toNat fun k => { k with
        reqKeys := k.reqKeys + 1
        rspKeys := if op = 2 then k.rspKeys + 1 else k.rspKeys }).spdm .keyUpdate)

/-- SPDM_END_SESSION (R382): the session is closed. -/
def execSpdmEndSession (session : Word32) (s : State) : Host.Outcome State Fault Refusal :=
  .next (s.inSession session.toNat fun s => (s.dropSession session.toNat).spdm .endSession)

end Sys2Proof.Machine
end

