-- ==== Sys2Proof/Machine/Tap.lean ====
section
/-! DEFINITION. The test access port (R396): the instructions that are open to everyone, and service authentication. What
BYPASS, SAMPLE/PRELOAD and EXTEST do is the boundary-scan standard's (PRESUMED, log 62). -/

namespace Sys2Proof.Machine

/-- The instructions, as the instruction register holds them. -/
abbrev TapIr.BYPASS : Nat := 1
abbrev TapIr.IDCODE : Nat := 2
abbrev TapIr.SAMPLE : Nat := 3
abbrev TapIr.EXTEST : Nat := 4
abbrev TapIr.CHALLENGE : Nat := 5
abbrev TapIr.RESPONSE : Nat := 6

/-- R448: TCK toggles while an instruction is shifted in; PKG_CLK.TAP shows it. -/
def State.tap (s : State) (ir : Nat) (f : State → State) : State :=
  if s.power.on then
    f { (s.wr R.PKG_CLK_TAP 1).updSec (fun x => { x with tapIr := ir }) with power := { s.power with tapAt := some s.time } }
  else s

/-- R448: a TCK that has not toggled for 1 ms. -/
def State.tapIdle (s : State) : State :=
  match s.power.tapAt with
  | some t =>
    if t + 1000000 ≤ s.time then { s.wr R.PKG_CLK_TAP 0 with power := { s.power with tapAt := none } } else s
  | none => s

/-- TAP_BYPASS (R396): the scanned bits come out one bit later. -/
def execTapBypass (scan : List Byte) (s : State) : Host.Outcome State Fault Refusal :=
  .next (s.tap TapIr.BYPASS fun s => { s with answer := .data (leBytes scan.length (2 * leNat scan)) })

/-- TAP_IDCODE (R396). -/
def execTapIdcode (s : State) : Host.Outcome State Fault Refusal :=
  .next (s.tap TapIr.IDCODE fun s => { s with answer := .data (leBytes 4 Config.idcode) })

/-- TAP_SAMPLE_PRELOAD (R396): the pins are read, and the boundary register is loaded. -/
def execTapSamplePreload (pins : List Byte) (preload : List Byte) (s : State) : Host.Outcome State Fault Refusal :=
  .next (s.tap TapIr.SAMPLE fun s => { s.updSec (fun x => { x with tapBits := preload }) with answer := .data pins })

/-- TAP_EXTEST (R396): the boundary register drives the pins, and the pins are read. -/
def execTapExtest (pins : List Byte) (s : State) : Host.Outcome State Fault Refusal :=
  .next (s.tap TapIr.EXTEST fun s => { s with answer := .data pins })

/-- R400: a refusal of the test access port. -/
def State.tapRefuse (s : State) (code : Nat) : State :=
  { (s.secLast code Src.TAP 0).raise { code := code, unit := Unit.SECURITY } with answer := .none }

/-- The security firmware runs. -/
def State.secRuns (s : State) : Bool := 1 ≤ s.rd R.SEC_STATE_STAGE && s.rd R.SEC_STATE_STAGE ≤ 4

/-- SVC_CHALLENGE (R396): a nonce of 32 random bytes. -/
def execSvcChallenge (s : State) : Host.Outcome State Fault Refusal :=
  .next (s.tap TapIr.CHALLENGE fun s =>
    if !s.secRuns then s
    else if s.on R.SEC_STATE_SVC_LOCK then s.tapRefuse Ev.RANGE
    else
      match s.draw 32 with
      | none => s.tapRefuse Ev.TRNG_FAIL
      | some (n, s1) => { s1.updSec (fun x => { x with nonce := some n }) with answer := .data n })

/-- R396: what the service key signs. -/
def State.svcMessage (s : State) (nonce : List Byte) : List Byte :=
  nonce ++ leBytes 4 (s.rd R.FAB_EPID_EPID) ++ sha256 ((List.range 6).flatMap s.meas)

/-- R396: a service authentication that failed: the third locks it. -/
def State.svcFail (s : State) : State :=
  let n := s.sec.tries + 1
  let s1 := s.updSec fun x => { x with tries := n, nonce := none }
  (if s.rd R.SEC_CAPS_SVC_TRIES ≤ n then s1.wr R.SEC_STATE_SVC_LOCK 1 else s1).tapRefuse Ev.RANGE

/-- SVC_RESPONSE (R396): a signature by the service key over the nonce, the EPID and the measurements. A nonce serves one
response (DESIGN CHOICE, log 84). -/
def execSvcResponse (modulus : List Byte) (sig : List Byte) (s : State) : Host.Outcome State Fault Refusal :=
  .next (s.tap TapIr.RESPONSE fun s =>
    if !s.secRuns then s
    else if s.on R.SEC_STATE_SVC_LOCK then s.tapRefuse Ev.RANGE
    else
      match s.sec.nonce with
      | none => s.svcFail
      | some n =>
        let (ok, s1) := s.verify modulus sig (s.svcMessage n)
        if ok && sha256 modulus == s.inst.service then
          { (s1.wr R.SEC_STATE_SERVICE 1).extend 7 n |>.updSec (fun x => { x with nonce := none }) with answer := .none }
        else s1.svcFail)

end Sys2Proof.Machine
end

