-- ==== Sys2Proof/Machine/RvLegal.lean ====
section
/-! DEFINITION. The instructions of a Chive core's code (R184, R208, R231, R232, R283): RV64IMAC with Zicsr, the issue
instructions and the scoped atomics, decoded from 32-bit and 16-bit words; and the code that an image may hold. -/

namespace Sys2Proof.Machine

/-- A register operation of RV64IM. -/
inductive RvOp where
  | add | sub | sll | slt | sltu | xor | srl | sra | or | and
  | mul | mulh | mulhsu | mulhu | div | divu | rem | remu
  deriving DecidableEq, Repr

/-- An instruction of a core. Register numbers are below 32; `wide` tells 64-bit from 32-bit forms; `f3` is the function
field of a branch, a load, a store or a CSR access, `f5` that of an AMO. `issue` is an instruction of R184, `samo` one of
R283: each is a command of its own, as FENCE is. -/
inductive RvInstr where
  | lui (rd : Nat) (v : Int)
  | auipc (rd : Nat) (v : Int)
  | jal (rd : Nat) (off : Int)
  | jalr (rd rs1 : Nat) (off : Int)
  | branch (f3 rs1 rs2 : Nat) (off : Int)
  | load (f3 rd rs1 : Nat) (off : Int)
  | store (f3 rs1 rs2 : Nat) (off : Int)
  | opImm (op : RvOp) (wide : Bool) (rd rs1 : Nat) (v : Int)
  | op (op : RvOp) (wide : Bool) (rd rs1 rs2 : Nat)
  | lr (wide : Bool) (rd rs1 : Nat)
  | sc (wide : Bool) (rd rs1 rs2 : Nat)
  | amo (f5 : Nat) (wide : Bool) (rd rs1 rs2 : Nat)
  | csr (f3 rd src n : Nat)
  | fence
  | ecall
  | ebreak
  | issue
  | samo
  deriving DecidableEq, Repr

/-! ### 32-bit instructions -/

/-- The operation of the base integer set that a function field names. -/
def rvOpOf (f3 : Nat) : RvOp := [RvOp.add, .sll, .slt, .sltu, .xor, .srl, .or, .and].getD f3 .add

/-- The operation of the M extension that a function field names. -/
def rvMulOf (f3 : Nat) : RvOp := [RvOp.mul, .mulh, .mulhsu, .mulhu, .div, .divu, .rem, .remu].getD f3 .mul

/-- The immediate of an instruction that computes with one. -/
def immI (w : Nat) : Int := toSigned 12 (bits w 20 12)

/-- OP-IMM and OP-IMM-32: the shifts hold a count, 6 bits wide or 5. -/
def rvImm (wide : Bool) (w : Nat) : Option RvInstr :=
  let f3 := bits w 12 3
  let n := if wide then 6 else 5
  let hi := bits w (20 + n) (12 - n)
  let shift (op : RvOp) : Option RvInstr := some (.opImm op wide (bits w 7 5) (bits w 15 5) (bits w 20 n))
  if f3 = 1 then (if hi = 0 then shift .sll else none)
  else if f3 = 5 then (if hi = 0 then shift .srl else if hi = 2 ^ (10 - n) then shift .sra else none)
  else if wide || f3 = 0 then some (.opImm (rvOpOf f3) wide (bits w 7 5) (bits w 15 5) (immI w))
  else none

/-- OP and OP-32. -/
def rvReg (wide : Bool) (w : Nat) : Option RvInstr :=
  let f3 := bits w 12 3
  let mk (op : RvOp) : Option RvInstr := some (.op op wide (bits w 7 5) (bits w 15 5) (bits w 20 5))
  let narrow := f3 = 0 || f3 = 1 || f3 = 5
  match bits w 25 7 with
  | 0 => if wide || narrow then mk (rvOpOf f3) else none
  | 1 => if wide || f3 = 0 || 4 ≤ f3 then mk (rvMulOf f3) else none
  | 0x20 => if f3 = 0 then mk .sub else if f3 = 5 then mk .sra else none
  | _ => none

/-- The A extension. -/
def rvAtomic (w : Nat) : Option RvInstr :=
  let f3 := bits w 12 3
  let f5 := bits w 27 5
  let rs2 := bits w 20 5
  if f3 != 2 && f3 != 3 then none
  else match f5 with
    | 2 => if rs2 = 0 then some (.lr (f3 = 3) (bits w 7 5) (bits w 15 5)) else none
    | 3 => some (.sc (f3 = 3) (bits w 7 5) (bits w 15 5) rs2)
    | _ => if [0, 1, 4, 8, 12, 16, 20, 24, 28].contains f5 then some (.amo f5 (f3 = 3) (bits w 7 5) (bits w 15 5) rs2) else none

/-- R184: an issue instruction with legal function fields. -/
def issueLegal (w : Nat) : Bool :=
  if bits w 12 3 = 7 then false else if bits w 12 3 ≤ 2 then bits w 25 7 ≤ 3 else bits w 25 7 = 0

/-- R283: a scoped atomic with legal function fields. -/
def samoLegal (w : Nat) : Bool := (bits w 12 3 = 2 || bits w 12 3 = 3) && bits w 27 3 ≤ 4 && bits w 30 2 = 0

/-- A 32-bit word as an instruction. -/
def rvDecode32 (w : Nat) : Option RvInstr :=
  let rd := bits w 7 5
  let f3 := bits w 12 3
  let rs1 := bits w 15 5
  let rs2 := bits w 20 5
  match bits w 0 7 with
  | 0x37 => some (.lui rd (toSigned 32 (bits w 12 20 * 2 ^ 12)))
  | 0x17 => some (.auipc rd (toSigned 32 (bits w 12 20 * 2 ^ 12)))
  | 0x6F => some (.jal rd (toSigned 21 (bits w 21 10 * 2 + bits w 20 1 * 2 ^ 11 + bits w 12 8 * 2 ^ 12 + bits w 31 1 * 2 ^ 20)))
  | 0x67 => if f3 = 0 then some (.jalr rd rs1 (immI w)) else none
  | 0x63 =>
    if f3 = 2 || f3 = 3 then none
    else some (.branch f3 rs1 rs2
      (toSigned 13 (bits w 8 4 * 2 + bits w 25 6 * 2 ^ 5 + bits w 7 1 * 2 ^ 11 + bits w 31 1 * 2 ^ 12)))
  | 0x03 => if f3 = 7 then none else some (.load f3 rd rs1 (immI w))
  | 0x23 => if f3 ≤ 3 then some (.store f3 rs1 rs2 (toSigned 12 (rd + bits w 25 7 * 2 ^ 5))) else none
  | 0x13 => rvImm true w
  | 0x1B => rvImm false w
  | 0x33 => rvReg true w
  | 0x3B => rvReg false w
  | 0x0F => if f3 = 0 then some .fence else none
  | 0x73 =>
    if f3 = 0 then (if w = 0x73 then some .ecall else if w = 0x100073 then some .ebreak else none)
    else if f3 = 4 then none
    else some (.csr f3 rd rs1 (bits w 20 12))
  | 0x2F => rvAtomic w
  | 0x0B => if issueLegal w then some .issue else none
  | 0x2B => if samoLegal w then some .samo else none
  | _ => none

/-! ### 16-bit instructions: RV64C without floating point; reserved encodings are none -/

/-- The six-bit immediate of a compressed instruction. -/
def immC (w : Nat) : Nat := bits w 2 5 + bits w 12 1 * 32

/-- Quadrant 0: an address from the stack pointer, and loads and stores by a register. -/
def rvcQ0 (w : Nat) : Option RvInstr :=
  let rd := 8 + bits w 2 3
  let rs := 8 + bits w 7 3
  let off4 := bits w 10 3 * 8 + bits w 6 1 * 4 + bits w 5 1 * 64
  let off8 := bits w 10 3 * 8 + bits w 5 2 * 64
  match bits w 13 3 with
  | 0 => if bits w 5 8 = 0 then none
    else some (.opImm .add true rd 2 (bits w 11 2 * 16 + bits w 7 4 * 64 + bits w 6 1 * 4 + bits w 5 1 * 8 : Nat))
  | 2 => some (.load 2 rd rs off4)
  | 3 => some (.load 3 rd rs off8)
  | 6 => some (.store 2 rs rd off4)
  | 7 => some (.store 3 rs rd off8)
  | _ => none

/-- Quadrant 1: immediates, jumps and branches. -/
def rvcQ1 (w : Nat) : Option RvInstr :=
  let rd := bits w 7 5
  let rs := 8 + bits w 7 3
  let v := toSigned 6 (immC w)
  let off := toSigned 9 (bits w 10 2 * 8 + bits w 5 2 * 64 + bits w 3 2 * 2 + bits w 2 1 * 32 + bits w 12 1 * 256)
  match bits w 13 3 with
  | 0 => some (.opImm .add true rd rd v)
  | 1 => if rd = 0 then none else some (.opImm .add false rd rd v)
  | 2 => some (.opImm .add true rd 0 v)
  | 3 =>
    if immC w = 0 then none
    else if rd = 2 then
      some (.opImm .add true 2 2 (toSigned 10 (bits w 6 1 * 16 + bits w 5 1 * 64 + bits w 3 2 * 128 + bits w 2 1 * 32 + bits w 12 1 * 512)))
    else some (.lui rd (v * 2 ^ 12))
  | 4 =>
    match bits w 10 2 with
    | 0 => some (.opImm .srl true rs rs (immC w))
    | 1 => some (.opImm .sra true rs rs (immC w))
    | 2 => some (.opImm .and true rs rs v)
    | _ =>
      let k := bits w 5 2
      if bits w 12 1 = 0 then some (.op ([RvOp.sub, .xor, .or, .and].getD k .sub) true rs rs (8 + bits w 2 3))
      else if k ≤ 1 then some (.op (if k = 0 then .sub else .add) false rs rs (8 + bits w 2 3)) else none
  | 5 => some (.jal 0 (toSigned 12 (bits w 3 3 * 2 + bits w 11 1 * 16 + bits w 2 1 * 32 + bits w 7 1 * 64 + bits w 6 1 * 128 +
      bits w 9 2 * 256 + bits w 8 1 * 1024 + bits w 12 1 * 2048)))
  | 6 => some (.branch 0 rs 0 off)
  | _ => some (.branch 1 rs 0 off)

/-- Quadrant 2: shifts, loads and stores by the stack pointer, moves and jumps by a register. -/
def rvcQ2 (w : Nat) : Option RvInstr :=
  let rd := bits w 7 5
  let rs2 := bits w 2 5
  match bits w 13 3 with
  | 0 => some (.opImm .sll true rd rd (immC w))
  | 2 => if rd = 0 then none else some (.load 2 rd 2 (bits w 4 3 * 4 + bits w 12 1 * 32 + bits w 2 2 * 64 : Nat))
  | 3 => if rd = 0 then none else some (.load 3 rd 2 (bits w 5 2 * 8 + bits w 12 1 * 32 + bits w 2 3 * 64 : Nat))
  | 4 =>
    if bits w 12 1 = 0 then
      (if rs2 != 0 then some (.op .add true rd 0 rs2) else if rd = 0 then none else some (.jalr 0 rd 0))
    else if rs2 != 0 then some (.op .add true rd rd rs2)
    else if rd = 0 then some .ebreak
    else some (.jalr 1 rd 0)
  | 6 => some (.store 2 2 rs2 (bits w 9 4 * 4 + bits w 7 2 * 64 : Nat))
  | 7 => some (.store 3 2 rs2 (bits w 10 3 * 8 + bits w 7 3 * 64 : Nat))
  | _ => none

/-- A 16-bit word as an instruction. -/
def rvDecode16 (w : Nat) : Option RvInstr :=
  match bits w 0 2 with
  | 0 => rvcQ0 w
  | 1 => rvcQ1 w
  | 2 => rvcQ2 w
  | _ => none

/-! ### The code of an image (R231) -/

/-- R231: a 32-bit instruction that an image may hold: RV64IMA, Zicsr or R184. The rule does not name SAMO (log 68). -/
def rv32Legal (w : Nat) : Bool := match rvDecode32 w with
  | some .samo => false
  | some _ => true
  | none => false

/-- R231: a 32-bit instruction is an OPF that names a macro-level group: `macroG` tells which groups are. -/
def opfMacro (macroG : Nat → Bool) (w : Nat) : Bool := bits w 0 7 = 0x0B && bits w 12 3 = 1 && macroG (bits w 25 7)

/-- R231: the instructions of a segment in order: every one legal, no OPF to a macro-level group, the last an ECALL.
Bytes that fill a segment's section after the ECALL are zero (DEDUCED, log 68). Fuel: the bytes. -/
def codeOkF (macroG : Nat → Bool) : Nat → List Byte → Bool
  | 0, _ => false
  | f + 1, bs =>
    if bits (leAt bs 0 1) 0 2 = 3 then
      let w := leAt bs 0 4
      decide (4 ≤ bs.length) && rv32Legal w && !opfMacro macroG w &&
        ((w = 0x73 && (bs.drop 4).all (· = 0)) || codeOkF macroG f (bs.drop 4))
    else decide (2 ≤ bs.length) && (rvDecode16 (leAt bs 0 2)).isSome && codeOkF macroG f (bs.drop 2)

/-- R231: a segment that check 25 accepts. -/
def segmentOk (macroG : Nat → Bool) (bs : List Byte) : Bool := decide (bs.length ≤ 0x8000) && codeOkF macroG (bs.length + 1) bs

end Sys2Proof.Machine
end

