-- ==== Sys2Proof/Machine/VerifyOps.lean ====
section
/-! DEFINITION. The verifier's pass over an image's operations (R39–R42, R66, R143, R192, R217, R224 checks 9 to 16,
R225, R482): descriptors propagated from the declared inputs, with the key set, the noise and the scale left to run
time. -/

namespace Sys2Proof.Machine

/-- What the pass has learnt: the state that the image would run in, the descriptor of each output (2 × site + output)
where the image fixes it, the record counts of R482 by site and by transaction, the key that each consumer requires by
context, the transactions that hold an AUT without the KSIP it needs, and the verdicts: image offset and one flag for
each of checks 9, 10, 11, 13, 14 and 15 and the profile of check 18; `opened` has the offset of each transaction's opener, and `acts` the operations
of the transaction so far, code and offset. -/
structure VPass where
  s : State
  outs : NMap Desc := []
  counts : NMap Nat := []
  txnCount : NMap Nat := []
  keys : NMap (List (Nat × List Nat)) := []
  needKsip : List Nat := []
  lastOf : NMap VOp := []
  opened : NMap Nat := []
  acts : NMap (List (Nat × Nat)) := []
  verdicts : List (Nat × List Bool) := []

/-- R225: the fields that are left to run time set to one value everywhere. -/
def Desc.plainValues (x : Desc) : Desc :=
  { x with scale := ofNat64 1, keyset := if x.type = 2 then 0 else 1, noise := 0, nlimit := 0xFFFF, poison := 0, lineage := 0,
           logslots := 0, h0 := nullHandle, h1 := nullHandle, h2 := nullHandle }

/-- R217: the descriptor that an input declaration gives; tensors have none here. -/
def declDesc (b : List Byte) : Option Desc :=
  let w := leAt b 0 8
  if 1 ≤ bits w 16 8 && bits w 16 8 ≤ 3 then
    let x : Desc := { type := bits w 16 8, scheme := bits w 24 4, logn := bits w 32 5, form := bits w 28 2,
                      chain := bits w 40 8, level := bits w 48 7, polys := bits (leAt b 8 8) 0 4, gm1 := bits w 56 5 }
    some x.plainValues
  else none

/-- R217: RECORDS of an input declaration. -/
def declRecords (b : List Byte) : Nat := if leAt b 2 1 = 1 then bits (leAt b 8 8) 13 1 else 0

/-- The operand item of a role in a site's record. -/
def itemOf (img : List Byte) (site role : Nat) : Option Nat :=
  ((graphOp img site).map (·.opnds)).bind fun its => its.find? fun it => bits it 0 4 = role

/-- The descriptor of an input operand, where the image fixes it. -/
def VPass.inDesc (r : VPass) (img : List Byte) (v : VOp) (i : Nat) : Option Desc :=
  if !refPresent (v.op.din i) then none
  else match itemOf img v.op.site i with
    | some it =>
      let ref := bits it 32 32
      if bits it 4 4 = 0 then declDesc (imgInput img ref)
      else if bits it 4 4 = 1 then mapFind r.outs (2 * ref + bits it 8 8)
      else none
    | none => none

/-- R356: the manifest that a site sums in, and whether it closes there. -/
def summing (img : List Byte) (site : Nat) : Option (MRec × Bool) :=
  ((imgManifests img).find? fun m => m.sums.contains site).map fun m => (m, m.close = site)

/-- R482, R225: the count of a site's output: `counts` has that of an operation of the issue lists; for an operation of a
fine-level group its record in the graph fixes it (fuel: the sites). -/
def siteCount (img : List Byte) (counts : NMap Nat) : Nat → Nat → Nat
  | 0, _ => 0
  | f + 1, site =>
    match mapFind counts site, summing img site, graphOp img site with
    | some n, _, _ => n
    | none, some (m, close), _ => if close then m.nleaf else 0
    | none, none, some g =>
      let input (i : Nat) : Nat := match g.opnds.find? fun it => bits it 0 4 = i with
        | some it =>
          if bits it 4 4 = 0 then declRecords (imgInput img (bits it 32 32))
          else if bits it 4 4 = 1 then siteCount img counts f (bits it 32 32) else 0
        | none => 0
      if groupMacro img g.die g.group then 0
      else if g.opc = 0x28 || g.opc = 0x29 then input 0 + input 1
      else if [0x01, 0x02, 0x04, 0x10, 0x2A, 0x2B, 0x2C, 0x30, 0x31].contains g.opc then input 0
      else 0
    | none, none, none => 0

/-- R482: the count of an input operand. -/
def VPass.inCount (r : VPass) (img : List Byte) (v : VOp) (i : Nat) : Nat :=
  match itemOf img v.op.site i with
  | some it =>
    let ref := bits it 32 32
    if bits it 4 4 = 0 then declRecords (imgInput img ref) else if bits it 4 4 = 1 then siteCount img r.counts ((imgGraph img).length + 1) ref else 0
  | none => 0

/-- R482: the count of an operation's output; inside a transaction the transaction's. -/
def VPass.outCount (r : VPass) (img : List Byte) (v : VOp) : Nat :=
  if v.op.txn = 3 then mapGet 0 r.txnCount (64 * v.die + v.op.txid)
  else match summing img v.op.site with
    | some (m, close) => if close then m.nleaf else 0
    | none =>
      let a := r.inCount img v 0
      if v.op.opc = 0x28 || v.op.opc = 0x29 then a + r.inCount img v 1
      else if [0x01, 0x02, 0x2A, 0x2B, 0x2C].contains v.op.opc then a
      else 0

/-- A present reference as a token that is never committed: what the pass checks does not depend on slots. -/
def asToken (r : Nat) : Nat := if refPresent r then 0x7FFF_FFFF else noRef

/-- The operation with its references as tokens. -/
def VOp.bare (v : VOp) : Issued :=
  let refs : List Nat := [v.op.din 0, v.op.din 1, v.op.dout 0, v.op.dout 1]
  { v.op with pblock := refs.flatMap (fun r => leBytes 4 (asToken r)) ++ v.op.pblock.drop 16 }

/-- The source that a known descriptor makes. -/
def srcFor : Option Desc → Src
  | some x => .token x.toBytes
  | none => .absent

/-- The context in which the pass judges an operation: BASIL_SHAPE is the encoded one. -/
def VPass.ctx (r : VPass) (dies : List Nat) (v : VOp) (x0 x1 : Option Desc) : Ctx :=
  let d := dies.getD v.die 8
  let s1 := ((r.s.wr (R.BASIL_SHAPE_TK d) v.op.tk).wr (R.BASIL_SHAPE_TN d) v.op.tn).wr (R.BASIL_SHAPE_QUAD d) (b2n v.op.quad)
  { s := s1, d := d, g := v.group, op := v.bare, src0 := srcFor x0, src1 := srcFor x1,
    txn := if v.op.txn = 0 || v.op.txn = 1 then none else mapFind (r.s.die d).txns v.op.txid }

/-- Every descriptor that the operation goes by is fixed by the image. -/
def Ctx.known (c : Ctx) (v : VOp) (x0 x1 : Option Desc) : Bool :=
  (!refPresent (v.op.din 0) || x0.isSome) && (!refPresent (v.op.din 1) || x1.isSome) &&
    (v.op.txn = 0 || v.op.txn = 1 || ((c.txnDesc.map (·.type)).getD 0) != 0)

/-- The TXN that an operation needs, where only a transaction lets it act (R117, R128, R192); else its own. -/
def Ctx.txnNeed (c : Ctx) : Nat :=
  match c.op.opc with
  | 0x04 => if c.op.txn = 0 then 2 else c.op.txn
  | 0x10 => if c.op.txn = 0 && (c.x0.map (·.type)).getD 2 != 2 then 2 else c.op.txn
  | 0x30 => if c.op.txn = 0 || c.op.txn = 3 then 2 else c.op.txn
  | 0x31 => 3
  | _ => c.op.txn

/-- The operation judged as if it were in the transaction that it needs: whether it is, is check 15's. -/
def Ctx.placed (c : Ctx) : Ctx :=
  { c with op := { c.op with word := c.op.word - c.op.txn * 2 ^ 125 + c.txnNeed * 2 ^ 125 } }

/-- R224 check 10: the forms and the agreement that the image fixes, operation by operation. Tables are check 20's,
tensors and captured scalars are left to run time. -/
def Ctx.formOk (c : Ctx) (spec : OpSpec) : Bool :=
  let x (f : Desc → Bool) : Bool := (c.x0.map f).getD false
  match c.op.opc with
  | 0x01 => (match c.tasks with | some k => k.ok | none => false) && (c.op.limbForm || c.op.txn != 0 || x fun x => x.type != 4 && x.form = 0 && x.special = 0)
  | 0x02 => (match c.tasks with | some k => k.ok | none => false) && (c.op.limbForm || c.op.txn != 0 || x fun x => x.type != 4 && x.form = 1 && x.special = 0)
  | 0x03 => (match c.geo with
      | some y => y.M = c.bcM && y.chain = c.op.bcChain
      | none => true) && c.bcM ≤ 32 && 1 ≤ c.bcM
  | 0x11 => true
  | 0x2C => x fun x => x.plainCt
  | 0x31 => c.txnDesc.isNone || spec.check c.placed
  | 0x42 => c.batchIn [1] && x fun x => scaleFieldOk x.scheme c.chain.ptmod c.op.encScale
  | k => if k < 0x10 && k != 0x04 || (0x20 ≤ k && k ≤ 0x24) || k = 0x32 || 0x38 ≤ k && k ≤ 0x3F then true else spec.check c.placed && c.openerOk

/-- R128, R224 check 10: at the RSFIN of a rescale transaction, the operation at which its steps do not fit the form of
its input: RSFIN where step 1 or step 3 is missing, a transform that is there and should not be. -/
def rescaleSteps (acts : List (Nat × Nat)) (form fin : Nat) : Option Nat :=
  let pre := acts.takeWhile fun a => a.1 != 0x30
  let post := acts.drop pre.length
  let intt := pre.find? fun a => a.1 = 0x02
  let ntt := post.find? fun a => a.1 = 0x01
  if post.isEmpty then none
  else if form = 1 then (if intt.isSome && ntt.isSome then none else some fin)
  else match intt with
    | some a => some a.2
    | none => ntt.map (·.2)

/-- The output descriptors as the pass carries them on. R160: an LWEKSW's dimension is its key's, as the requirement that
its key-order entry names gives it. -/
def VPass.outDescs (img : List Byte) (v : VOp) (c : Ctx) (spec : OpSpec) : List Desc :=
  (c.outList spec false).map fun y =>
    let y1 := y.plainValues
    if c.op.opc = 0x41 then
      let e := parseKeyRef (slice (imgOne img Sec.KEYORDER v.die 1) (16 * c.op.keyent) 16)
      let k := imgKreq img e.handle
      { y1 with dim := if c.op.arg 0 = 1 then bits (leAt k 0x10 4) 0 13 else 2 ^ bits (leAt k 8 8) 8 5 }
    else y1

/-- R218: the flags of the entries that a profile moves on a queue, in order: true for a descriptor token. -/
def profFlags (steps : List VStep) (q dir : Nat) : List Bool :=
  steps.filterMap fun x => match x with
    | .pop p tok => if dir = 0 && p = q then some tok else none
    | .push p tok => if dir = 1 && p = q then some tok else none
    | _ => none

/-- The entries of one operand or output: its token, if it has one, then its data. -/
def entryFlags (tok : Bool) (n : Nat) : List Bool := (if tok then [true] else []) ++ List.replicate n false

/-- R94: the pushes of a key switch go to its two output queues in turn, one row each. -/
def inTurn (qb qa : Nat) : List VStep → Bool
  | .push b false :: .push a false :: xs => b = qb && a = qa && inTurn qb qa xs
  | [] => true
  | _ => false

/-- R180, R181, R218: an operation's profile is the entry sequence that its chapter gives: on each of its queues the
entries of that operand, the token first; on no other queue anything; no push before the tokens have been popped; and a
key switch's rows in turn (R94). Any other interleaving of two queues is the profile's own (DESIGN CHOICE, log 158). Two
operands on one queue are held to their number. -/
def profileOk (img : List Byte) (v : VOp) (c : Ctx) (spec : OpSpec) (known : Bool) : Bool :=
  let steps := profSteps (((graphOp img v.op.site).map (·.prof)).getD [])
  let dir (i : Nat) : Nat := if i < 3 then 0 else 1
  let used := (List.range 5).filter v.op.qv
  let tok (i : Nat) : Bool := if i < 2 then refTok (v.op.din i) else 3 ≤ i && refTok (v.op.dout (i - 3))
  let flags (i : Nat) : List Bool := profFlags steps (v.op.qf i) (dir i)
  let want : Option (Nat → List Bool) := (if known then spec.shape { c with op := v.op } else none).map fun sh i =>
    if i < 3 then entryFlags (tok i) (sh.need.getD i 0)
    else if spec.many then (if i = 3 then sh.out.flatMap (entryFlags (tok 3)) else [])
    else entryFlags (tok i) (sh.out.getD (i - 3) 0)
  let shared (i : Nat) : List Nat := used.filter fun j => v.op.qf j = v.op.qf i && dir j = dir i
  let queueOk (i : Nat) : Bool := match want with
    | some w => if (shared i).length = 1 then flags i = w i else (flags i).length = sumN ((shared i).map fun j => (w j).length)
    | none => !(flags i).isEmpty && ((shared i).length != 1 || (flags i).head? = some (tok i))
  let pushed := steps.dropWhile fun x => match x with
    | .push _ _ => false
    | _ => true
  used.all queueOk &&
    (steps.all fun x => match x with
      | .pop q _ => used.any fun i => i < 3 && v.op.qf i = q
      | .push q _ => used.any fun i => 3 ≤ i && v.op.qf i = q
      | _ => false) &&
    (pushed.all fun x => match x with
      | .pop _ t => !t
      | _ => true) &&
    (v.op.opc != 0x04 || v.op.qf 3 = v.op.qf 4 || inTurn (v.op.qf 3) (v.op.qf 4) (steps.filter fun x => match x with
      | .push _ t => !t
      | _ => false))

/-- The key that a consumer requires (R143): site, kind, level and, for KSIP, digits; with its entry. -/
def Ctx.keyNeed (c : Ctx) : Option (Nat × List Nat) :=
  let lvl := (c.geo.map (·.level)).getD 1
  match c.op.opc with
  | 0x04 => some (0, [c.op.site, if c.galois = 0 then 1 else 2, lvl, c.op.arg 0, c.op.keyent])
  | 0x41 => some (1, [c.op.site, 4, lvl, 0, c.op.keyent])
  | 0x42 => some (1, [c.op.site, 3, lvl, 0, c.op.keyent])
  | _ => none

/-- R117, R128, R192: an operation is in the transaction that it needs, the transaction's state lets it act, and it depends
on the operation before it in the transaction. -/
def VPass.txnFits (r : VPass) (o : VOrder) (v : VOp) (c : Ctx) : Bool :=
  let key := 64 * v.die + v.op.txid
  let open' := (mapFind (r.s.die c.d).txns v.op.txid).isSome
  let after : Bool := match mapFind r.lastOf key with
    | some w => o.leads w v
    | none => true
  (c.txnNeed = v.op.txn) && match v.op.txn with
  | 0 => true
  | 1 => !open' && after
  | 3 => open' && after && !(r.needKsip.contains key)
  | _ => open' && after

/-- The transaction table after an operation, in the pass. -/
def State.passTxn (s : State) (c : Ctx) (spec : OpSpec) : State :=
  let s1 := s.putTxn c spec false 0
  if c.op.txn = 1 && c.x0.isNone then
    let t : Txn := { desc0 := Desc.toBytes {}, desc1 := [], ins := [], constOnly := false, voided := false, flags := 0, g := c.galois }
    s1.updDie c.d fun x => { x with txns := mapPut x.txns c.op.txid t }
  else s1

/-- One operation of the pass. -/
def VPass.step (img : List Byte) (dies : List Nat) (o : VOrder) (r : VPass) (v : VOp) : VPass :=
  match specOf v.op.opc with
  | none => r
  | some spec =>
    let x0 := r.inDesc img v 0
    let x1 := r.inDesc img v 1
    let c := r.ctx dies v x0 x1
    let known := c.known v x0 x1
    let key := 64 * v.die + v.op.txid
    let count := r.inCount img v 0
    let inTxn := mapGet 0 r.txnCount key
    let lvl := !known || !(c.belowMin || spec.exhausted c)
    let form := !known || c.formOk spec
    let shape := !known || v.group != 0 || spec.shapeOk c
    let tier := !((v.op.opc = 0x30 || v.op.opc = 0x31) && v.op.drops = 2 && !v.op.wide)
    let sr := v.op.opc != 0x30 || v.op.sr == decide (65536 ≤ (if v.op.txn = 1 then count else inTxn))
    let ys := if known then VPass.outDescs img v c spec else []
    let d := dies.getD v.die 8
    let acts := if v.op.txn = 1 then [] else mapGet [] r.acts key
    let steps := match c.txnDesc with
      | some x => if v.op.txn = 3 && v.op.opc = 0x31 && x.type != 0 then rescaleSteps acts x.form v.off else none
      | none => none
    { s := (r.s.passTxn c spec).updGroup d v.group fun x => { x with issued := x.issued + 1 }
      outs := (List.range ys.length).foldl (fun o i => if i < 2 then mapPut o (2 * v.op.site + i) (ys.getD i {}) else o) r.outs
      counts := mapPut r.counts v.op.site (r.outCount img v)
      txnCount := if v.op.txn = 1 then mapPut r.txnCount key count else r.txnCount
      keys := match c.keyNeed with
        | some (x, need) => mapPut r.keys (2 * v.die + x) (mapGet [] r.keys (2 * v.die + x) ++ [(v.off, need)])
        | none => r.keys
      needKsip := if v.op.txn != 0 && v.op.opc = 0x10 then key :: r.needKsip.filter (· != key)
        else if v.op.opc = 0x04 || v.op.txn = 3 then r.needKsip.filter (· != key) else r.needKsip
      lastOf := if v.op.txn = 0 then r.lastOf else mapPut r.lastOf key v
      opened := if v.op.txn = 1 then mapPut r.opened key v.off else r.opened
      acts := if v.op.txn = 0 then r.acts else mapPut r.acts key (acts ++ [(v.op.opc, v.off)])
      verdicts := r.verdicts ++ [(v.off, [lvl, form, shape, tier, sr, r.txnFits o v c, profileOk img v c spec known])] ++
        (match steps with
         | some off => [(off, [true, false])]
         | none => []) }

/-- The pass over every operation, each after those that it depends on. -/
def verifyPass (img : List Byte) (dies : List Nat) (o : VOrder) (s : State) : VPass :=
  (o.ops img).foldl (fun r v => r.step img dies o v) { s := s }

/-- The first operation, in the pass's order, whose flag i is false. -/
def VPass.first (r : VPass) (i : Nat) : Option Nat := firstBad (r.verdicts.map fun p => (p.1, p.2.getD i true))

/-- R224 check 15, with what must hold at the end: every transaction has closed; one that has not fails at its opener. -/
def VPass.checkTxn (r : VPass) (dies : List Nat) : Option Nat :=
  match r.first 5 with
  | some o => some o
  | none =>
    (r.opened.find? fun p => (mapFind (r.s.die (dies.getD (p.1 / 64) 8)).txns (p.1 % 64)).isSome).map (·.2)

/-- R224 check 16: one entry for each consumer, in order, as the consumer requires; its HANDLE is the index of a
requirement. The first entry that is not so fails, or the first consumer without an entry. The consumers of a fine-level
group run in an order that the image does not fix: an entry of theirs is that of some consumer of the graph (R225). -/
def VPass.checkKeys (r : VPass) (img : List Byte) : Option Nat :=
  firstBad ((List.range (2 * imgDies img)).flatMap fun i =>
    let g := if i % 2 = 0 then 0 else 3
    let bs := imgOne img Sec.KEYORDER (i / 2) (i % 2)
    let off := (((imgSects img).find? fun t => t.type = Sec.KEYORDER && t.die = i / 2 && t.sub = i % 2).map (·.off)).getD 0
    let needs := (imgList img (i / 2) g).filterMap fun v => (mapGet [] r.keys i).find? fun p => p.1 = v.off
    let n := bs.length / 16
    let missing := (needs.drop n).map fun p => (p.1, false)
    let fine := !groupMacro img (i / 2) g
    let ofGraph (site : Nat) : Bool := (fineRecs img).any fun p => p.2.die = i / 2 && p.2.opc = 0x04 && p.2.site = site
    let entries := (List.range n).map fun e =>
      let p := needs.getD e (0, [])
      let k := parseKeyRef (slice bs (16 * e) 16)
      let f (j : Nat) : Nat := p.2.getD j 0
      (off + 16 * e, if fine then ofGraph k.site && (k.kind = 1 || k.kind = 2) && k.ctx = 0 && 1 ≤ k.dcount && k.dcount ≤ 8 &&
        decide (k.handle < imgNkreq img) else decide (e < needs.length) && k.site = f 0 && k.kind = f 1 && k.level = f 2 && k.ctx = i % 2 && 1 ≤ k.dcount &&
        k.dcount ≤ 8 && (i % 2 = 1 || k.dcount = f 3) && f 4 = e && decide (k.handle < imgNkreq img))
    entries ++ missing)

end Sys2Proof.Machine
end

