-- ==== Sys2Proof/Machine/Verify.lean ====
section
/-! DEFINITION. The verifier (R224–R231): the remaining checks, their order, and the row IMAGE_VERIFY with what a load's
acceptance and rejection leave behind (R234 steps 3 to 5). -/

namespace Sys2Proof.Machine

/-! ### Checks 4 to 8 -/

/-- The chains that declarations, requirements, tables and encodings name (check 4), each with its image offset. -/
def chainsNamed (img : List Byte) : List (Nat × Nat) :=
  let base := (((imgSects img).find? fun t => t.type = Sec.INPUTS).map (·.off)).getD 0
  let ins := (List.range (imgNin img)).filterMap fun i =>
    let b := imgInput img i
    let ty := leAt b 2 1
    if ty ≤ 3 || (ty = 0x10 && bitOf (leAt b 8 8) 7) then some (base + 16 + 64 * i, leAt b 5 1) else none
  let reqs := (List.range (imgNkreq img)).map fun i => (base + 16 + 64 * imgNin img + 32 * i, leAt (imgKreq img i) 0xA 1)
  let tabs := ((imgSects img).filter fun t => t.type = Sec.CONST && leAt (t.bytes img) 0 1 = 1).map fun t => (t.off, leAt (t.bytes img) 0x18 1)
  let ops := (imgOps img).filterMap fun v =>
    let k := v.op.opc
    if (k = 0x01 || k = 0x02) && v.op.limbForm then some (v.off, bits (v.op.arg 1) 0 8)
    else if k = 0x03 then some (v.off, v.op.bcChain)
    else if k = 0x05 && !v.op.opn then some (v.off, v.op.gb.chain)
    else if 0x20 ≤ k && k ≤ 0x24 then some (v.off, v.op.vChain)
    else none
  ins ++ reqs ++ tabs ++ ops

/-- R224 check 4. A section that repeats a CHAIN_ID is refused too: neither R26 nor the check speaks of it (DESIGN CHOICE,
log 168). -/
def State.checkChains (s : State) (img : List Byte) : Option Nat :=
  let off := (((imgSects img).find? fun t => t.type = Sec.CHAINS).map (·.off)).getD 0
  let cs := imgChains img
  let ids := cs.map fun b => leAt b 0 1
  let entries := (List.range cs.length).map fun i =>
    (off + sumN ((cs.take i).map (·.length)), s.chainLoads (cs.getD i []) && !(ids.take i).contains (ids.getD i 0))
  match firstBad entries with
  | some o => some o
  | none => firstBad ((chainsNamed img).map fun p => (p.1, ids.contains p.2))

/-- The buffer records of a logical die with their image offsets. -/
def bufsAt (img : List Byte) (i : Nat) : List (Nat × BufRec) :=
  let off := (((imgSects img).find? fun t => t.type = Sec.BUFFERS && t.die = i).map (·.off)).getD 0
  let bs := imgBuffers img i
  (List.range bs.length).map fun k => (off + 16 * k, parseBuf (bs.getD k []))

/-- The declaration that a buffer number has for a logical die: its own die's, else the first of the image (log 129). -/
def bufNamed (img : List Byte) (die no : Nat) : Option BufRec :=
  let f (l : List (Nat × BufRec)) : Option BufRec := (l.find? fun p => p.2.no = no).map (·.2)
  match f (bufsAt img die) with
  | some r => some r
  | none => f ((List.range (imgDies img)).flatMap (bufsAt img))

/-- R215, R224 check 5, but for the room: numbers declared once on a die, attributes and classes, counts, relocations,
tables, and the buffers that the graph's operands name. -/
def checkBufferForm (img : List Byte) : Option Nat :=
  let records := (List.range (imgDies img)).flatMap fun i =>
    let all := bufsAt img i
    (List.range all.length).map fun k =>
      let p := all.getD k (0, parseBuf [])
      (p.1, p.2.ok && k < 240 && !((all.take k).any fun x => x.2.no = p.2.no))
  let relocs := (imgRelocs img).map fun r =>
    let o := (imgEntry img r.1).off + r.2
    (o, (bufNamed img (imgEntry img r.1).die (leAt img o 2)).isSome)
  let tables := ((imgSects img).filter fun t => t.type = Sec.CONST).map fun t =>
    let b := t.bytes img
    (t.off, match bufNamed img t.die (leAt b 2 2) with
      | some r => bitOf r.attr Attr.CONST && leAt b 8 8 % (if r.cls < 2 then 128 else 64) = 0 && decide (leAt b 8 8 + leAt b 0x10 8 ≤ r.size)
      | none => false)
  let goff := (((imgSects img).find? fun t => t.type = Sec.GRAPH).map (·.off)).getD 0
  let operands := (graphAt img).map fun p =>
    (goff + p.1, p.2.opnds.all fun it => bits it 4 4 != 2 || (bufNamed img p.2.die (bits it 32 32)).isSome)
  firstBad (records ++ relocs ++ tables ++ operands)

/-- R224 check 6: no owner is core 7. -/
def checkOwners (img : List Byte) : Option Nat :=
  firstBad ((List.range (imgDies img)).map fun i =>
    ((((imgSects img).find? fun t => t.type = Sec.CONFIG && t.die = i).map (·.off)).getD 0,
      (List.range 4).all fun g => cfgOwner (imgConfig img i) g != 7))

/-- R224 check 7, and what the image fixes of a fine-level group's operations (R225): their codes. -/
def checkEncodings (img : List Byte) : Option Nat :=
  let goff := (((imgSects img).find? fun t => t.type = Sec.GRAPH).map (·.off)).getD 0
  firstBad (((imgOps img).map fun v => (v.off, v.encodingOk)) ++ (fineRecs img).map fun p => (goff + p.1, p.2.codeOk))

/-- R219, R225: the data memory that a fine-level group's owner starts with holds a macro word of a site with WATCH set. -/
def wordWatched (img : List Byte) (g : GRec) : Bool :=
  let data := imgOne img Sec.DATA g.die (cfgOwner (imgConfig img g.die) g.group)
  (List.range (data.length / 16)).any fun k =>
    let w := leAt data (16 * k) 16
    bits w 64 32 = g.site && bits w 0 8 = g.opc && ({ imgOp img 0 0 0 with op := { (imgOp img 0 0 0).op with word := w } } : VOp).op.watch

/-- R219, R224 check 8: sites. A watch record is of a site whose macro word has WATCH set: an operation of the issue lists,
or one of a fine-level group whose word the image holds in data memory (DEDUCED, log 159). -/
def checkSites (img : List Byte) : Option Nat :=
  let goff := (((imgSects img).find? fun t => t.type = Sec.GRAPH).map (·.off)).getD 0
  let woff := (((imgSects img).find? fun t => t.type = Sec.WATCH).map (·.off)).getD 0
  let sites := ((imgGraph img).filter fun r => r.kind = 1).map (·.site)
  let ops := imgOps img
  let opSites := ops.map fun v => v.op.site
  let watched := (chunks 32 (imgOne img Sec.WATCH wholePart 0)).map fun r => leAt r 0 4
  let issued := (List.range ops.length).map fun k =>
    let v := ops.getD k (imgOp img 0 0 0)
    (v.off, (!(opSites.take k).contains v.op.site) && (!v.op.watch || watched.contains v.op.site) &&
      (match graphOp img v.op.site with
       | some r => r.die = v.die && r.group = v.group && r.opc = v.op.opc
       | none => false))
  let marks := (List.range watched.length).map fun k =>
    (woff + 32 * k, !(watched.take k).contains (watched.getD k 0) &&
      ((ops.any fun v => v.op.watch && v.op.site = watched.getD k 0) ||
        (fineRecs img).any fun p => p.2.site = watched.getD k 0 && wordWatched img p.2))
  firstBad ([(goff, allDistinct sites)] ++ issued ++ marks)

/-! ### Checks 12, 17 to 23 and 25 -/

/-- R59, R224 check 12. -/
def checkPairing (img : List Byte) : Option Nat :=
  firstBad ((imgOps img).map fun v => (v.off, !(v.op.opc = 0x05 && v.op.opn) || pairOk v.op.gb.fa v.op.gb.fb))

/-- R224 check 17: queue ends, and windows bound to channel senders. -/
def checkQueueEnds (img : List Byte) : Option Nat :=
  let ops := (imgOps img).map fun v =>
    (v.off, (List.range 3).all fun i => [3, 4].all fun o => !(v.op.qv i && v.op.qv o && v.op.qf i = v.op.qf o))
  let wins := (List.range (imgDies img)).map fun i =>
    let cfg := imgConfig img i
    ((((imgSects img).find? fun t => t.type = Sec.CONFIG && t.die = i).map (·.off)).getD 0,
      (List.range 16).all fun w =>
        let b := leAt cfg (8 + w) 1
        !bitOf b 7 || (imgQueue img i (b % 128)).reader != 0x30)
  firstBad (ops ++ wins)

/-- The programs that serve a queue, in start-list order. -/
def queueProgs (img : List Byte) (die q dir : Nat) : List SProg :=
  (List.range 16).flatMap fun u => (startList img die u).filterMap fun i =>
    let p := parseProg (imgProg img die i)
    if p.queue = q && p.dir = dir then some p else none

/-- The programs whose entries fall among entries lo to lo + n − 1 of a queue. -/
def progsAt (lo n : Nat) : List SProg → Nat → List SProg
  | [], _ => []
  | p :: ps, at' =>
    let rest := progsAt lo n ps (at' + p.entries)
    if at' < lo + n && lo < at' + p.entries then p :: rest else rest

/-- The entries that the operations of a list before the k-th move on a queue. -/
def entriesBefore (img : List Byte) (die g k q dir : Nat) : Nat :=
  sumN ((List.range k).map fun i => profTally q dir (((graphOp img (imgOp img die g i).op.site).map (·.prof)).getD []) [] 0)

/-- The programs that bring an operand's entries, or take an output's. -/
def progsOf (img : List Byte) (v : VOp) (i : Nat) : List SProg :=
  let q := v.op.qf i
  let dir := if i < 3 then 0 else 1
  let mine := profTally q dir (((graphOp img v.op.site).map (·.prof)).getD []) [] 0
  if v.op.qv i then progsAt (entriesBefore img v.die v.group v.idx q dir) mine (queueProgs img v.die q dir) 0 else []

/-- R202: the writer and the reader end of a queue agree with what a start list or an operation does to it. -/
def endsAgree (img : List Byte) (die q dir code : Nat) : Bool :=
  let r := imgQueue img die q
  (if dir = 1 then r.writer else r.reader) = code && r.cap != 0

/-- A run of bytes of a buffer. -/
structure ByteRun where
  handle : Nat
  lo : Int
  len : Nat
  deriving DecidableEq, Repr

/-- A run put before others, joined to the first where that goes on from it. -/
def ByteRun.cons (x : ByteRun) : List ByteRun → List ByteRun
  | y :: ys => if x.handle = y.handle && y.lo = x.lo + x.len then { x with len := x.len + y.len } :: ys else x :: y :: ys
  | [] => [x]

/-- The bytes that a program moves, in order. -/
def SProg.runs (p : SProg) : List ByteRun :=
  ((List.range p.total).map fun k => (⟨p.handle, p.loopOff k, p.xbytes⟩ : ByteRun)).foldr ByteRun.cons []

/-- The bytes from the n-th on. -/
def dropRuns : Nat → List ByteRun → List ByteRun
  | _, [] => []
  | n, x :: xs => if x.len ≤ n then dropRuns (n - x.len) xs else { x with lo := x.lo + n, len := x.len - n } :: xs

/-- The first n bytes. -/
def takeRuns : Nat → List ByteRun → List ByteRun
  | _, [] => []
  | n, x :: xs => if n = 0 then [] else if x.len ≤ n then x :: takeRuns (n - x.len) xs else [{ x with len := n }]

/-- A queue of a die is filled (0) or drained (1) by a stream unit. -/
def unitServes (img : List Byte) (die q dir : Nat) : Bool :=
  let r := imgQueue img die q
  let e := if dir = 0 then r.writer else r.reader
  0x10 ≤ e && e < 0x20

/-- Where the entries of operand or output i of an operation meet stream programs: its own queue, or the receivers of the
channel that an output's queue feeds (R182). -/
def servedBy (img : List Byte) (v : VOp) (i : Nat) : List (Nat × Nat) :=
  let q := v.op.qf i
  let dir := if i < 3 then 0 else 1
  if unitServes img v.die q dir then [(v.die, q)]
  else if dir = 0 then []
  else ((imgChans img v.die).filter fun c => c.en && c.kind = 0 && c.sq = q).flatMap fun c =>
    ((c.recv.take c.nrecv).map fun r => (bits r 8 3, bits r 0 7)).filter fun r => unitServes img r.1 r.2 1

/-- The bytes that stream programs bring as an operand's data, or take as an output's, at one place; `none` where a feed
program has a part in it: its offsets come at run time. Tokens travel between operations alone. -/
def operandRuns (img : List Byte) (v : VOp) (i : Nat) (place : Nat × Nat) : Option (List ByteRun) :=
  let q := v.op.qf i
  let dir := if i < 3 then 0 else 1
  let ps := queueProgs img place.1 place.2 dir
  let mine := profTally q dir (((graphOp img v.op.site).map (·.prof)).getD []) [] 0
  if ps.any (·.feed) then none
  else some ((takeRuns (2048 * mine) (dropRuns (2048 * entriesBefore img v.die v.group v.idx q dir) (ps.flatMap (·.runs)))).foldr ByteRun.cons [])

/-- The handles that the graph gives an operand or an output: those of the image's buffers that its items name, but for
descriptor tables (DESIGN CHOICE, log 158). -/
def itemHandles (img : List Byte) (dies : List Nat) (hs : List (Nat × Nat)) (v : VOp) (role : Nat) : List Nat :=
  (((graphOp img v.op.site).map (·.opnds)).getD []).filterMap fun it =>
    if bits it 0 4 = role && bits it 4 4 = 2 then
      match bufNamed img v.die (bits it 32 32) with
      | some b => if bitOf b.attr Attr.DESC then none else handleOf hs (dies.getD v.die 8) (bits it 32 32)
      | none => none
    else none

/-- R180: runs are the whole data of a ciphertext value: its polynomials in order, each from byte 0 of its handle on. -/
def wholeData (x : Desc) (hs : List Nat) (rs : List ByteRun) : Bool :=
  rs.length = x.polys && rs.all (fun r => r.lo = 0 && r.len = x.handleBytes) &&
    (hs.length != x.polys || rs.map (·.handle) = hs)

/-- An operation on whole ciphertexts outside a transaction: its entries are all the data of its operands. -/
def VOp.wholeCt (v : VOp) : Bool :=
  v.op.txn = 0 && ((v.op.opc ≤ 0x02 && !v.op.limbForm) || v.op.opc = 0x10 || v.op.opc = 0x11 || 0x28 ≤ v.op.opc && v.op.opc ≤ 0x2D || v.op.opc = 0x34)

/-- The descriptor of the data that an operand's entries carry, where the image fixes it: a plaintext that a CTADDP or a
CTMULP reads gives the ciphertext's limbs alone (R127). -/
def VPass.readDesc (r : VPass) (img : List Byte) (v : VOp) (i : Nat) : Option Desc :=
  if i = 1 && (v.op.opc = 0x2A || v.op.opc = 0x2B) then
    match r.inDesc img v 0, r.inDesc img v 1 with
    | some x, some y => some { y with level := x.level }
    | _, _ => none
  else r.inDesc img v i

/-- R180: where the image fixes an operand's descriptor, the programs that bring its entries bring its data in order. -/
def bringsOk (img : List Byte) (dies : List Nat) (hs : List (Nat × Nat)) (v : VOp) (r : VPass) (i : Nat) : Bool :=
  !v.op.qv i || (servedBy img v i).all fun p =>
    match operandRuns img v i p, r.readDesc img v i with
    | some rs, some x => !v.wholeCt || x.type = 4 || wholeData x (itemHandles img dies hs v i) rs
    | _, _ => true

/-- The descriptor slots that an image holds: its tables whose buffer carries DESC, 64 bytes at a time, each with its
section's offset and its slot. `raw` is the image as shipped, `img` with handles in place. -/
def imgSlots (raw img : List Byte) (dies : List Nat) (hs : List (Nat × Nat)) : List (Nat × Nat × List Byte) :=
  ((imgSects raw).filter fun t => t.type = Sec.CONST).flatMap fun t =>
    let b := t.bytes raw
    match bufNamed raw t.die (leAt b 2 2), handleOf hs (dies.getD t.die 8) (leAt b 2 2) with
    | some r, some h =>
      if bitOf r.attr Attr.DESC then
        let data := (t.bytes img).drop 64
        (List.range (data.length / 64)).map fun k => (t.off, slotRef h (leAt b 8 8 + 64 * k), slice data (64 * k) 64)
      else []
    | _, _ => []

/-- The handles of the descriptor that an image puts into an output's slot; none where it puts none there. -/
def slotHandles (slots : List (Nat × Nat × List Byte)) (ref : Nat) : List Nat :=
  match slots.find? fun p => p.2.1 = refKey ref with
  | none => []
  | some p => match leAt p.2.2 0 1 with
    | 0x10 => [(parseT p.2.2).handle]
    | k => if 1 ≤ k && k ≤ 4 then (parseDesc p.2.2).handles else []

/-- R182: an output that names a slot and leaves by a queue is drained by stream programs to the handles of its descriptor:
those of the descriptor that the image puts into the slot, where it puts one there, and every handle that the graph's
items give the output (DESIGN CHOICE, log 158); where the image fixes the descriptor's fields, in the order of its data. -/
def drainsOk (img : List Byte) (slots : List (Nat × Nat × List Byte)) (dies : List Nat) (hs : List (Nat × Nat)) (v : VOp)
    (r : VPass) : Bool :=
  (List.range 2).all fun i =>
    let mine := slotHandles slots (v.op.dout i)
    !(refNamesSlot (v.op.dout i) && v.op.qv (3 + i)) ||
      (servedBy img v (3 + i)).any fun p =>
        match operandRuns img v (3 + i) p with
        | none => true
        | some rs => !rs.isEmpty && (mine.isEmpty || rs.all fun x => mine.contains x.handle) &&
            (itemHandles img dies hs v (2 + i)).all (fun h => rs.any fun x => x.handle = h) &&
            match mapFind r.outs (2 * v.op.site + i) with
            | some x => !v.wholeCt || x.type = 4 || wholeData x mine rs
            | none => true

/-- R250–R252: the tensor descriptors and the copy requests that an image holds pass the checks of a creation; a tensor
that one of the image's copy requests names as its source is aligned as one of a copy is. -/
def State.imgTensorOk (s : State) (slots : List (Nat × Nat × List Byte)) (k : Nat) (b : List Byte) : Bool :=
  let src : Bool := slots.any fun p => leAt p.2.2 0 1 = 0x11 && refKey (parseT p.2.2).src = k
  match leAt b 0 1 with
  | 0x10 => s.tAligned (parseT b) src && s.tInRange b
  | 0x11 => match slots.find? fun p => refKey (parseT b).src = p.2.1 with
    | some p => (s.copyFault b p.2.2).isNone
    | none => s.tAligned (parseT b) true && s.tInRange b
  | _ => true

/-- R224 check 18, with the tensor descriptors that the image holds (R250). -/
def checkStreams (s : State) (raw img : List Byte) (dies : List Nat) (hs : List (Nat × Nat)) (r : VPass) : Option Nat :=
  let slots := imgSlots raw img dies hs
  let tensors := slots.map fun p => (p.1, s.imgTensorOk slots p.2.1 p.2.2)
  let progs := (List.range (imgDies img)).flatMap fun i =>
    let off := (((imgSects img).find? fun t => t.type = Sec.STREAMS && t.die = i).map (·.off)).getD 0
    let n := (imgOne img Sec.STREAMS i 0).length / 64
    (List.range n).map fun k => (off + 64 * k, (s.progFault (dies.getD i 8) (imgProg img i k)).isNone)
  let starts := (List.range (imgDies img)).flatMap fun i => (List.range 16).flatMap fun u => (startList img i u).map fun k =>
    let p := parseProg (imgProg img i k)
    ((((imgSects img).find? fun t => t.type = Sec.STARTS && t.die = i).map (·.off)).getD 0,
      decide (64 * k + 64 ≤ (imgOne img Sec.STREAMS i 0).length) && endsAgree img i p.queue (1 - p.dir) (0x10 + u))
  let ops := (imgOps img).map fun v =>
    (v.off, (specOf v.op.opc).isSome && (r.verdicts.filter fun p => p.1 = v.off).all (fun p => p.2.getD 6 true) &&
      bringsOk img dies hs v r 0 && bringsOk img dies hs v r 1 && drainsOk img slots dies hs v r &&
      (List.range 5).all fun i => !v.op.qv i || endsAgree img v.die (v.op.qf i) (if i < 3 then 0 else 1) v.group)
  firstBad (tensors ++ progs ++ starts ++ ops)

/-- R107: the byte intervals of two loop programs overlap. -/
def SProg.meets (p o : SProg) : Bool :=
  p.handle = o.handle && decide (p.span.1 ≤ o.span.2) && decide (o.span.1 ≤ p.span.2)

/-- R107, R181, R224 check 19. No macro operation writes a tile register, so the image fixes no two writes of one (R126). A read is ordered against each write of its slot by another group, and comes after one of
the writes (DEDUCED, log 130). -/
def checkOverlap (img : List Byte) (m : VSim) : Option Nat :=
  let ops := imgOps img
  let basil := (ops.filter fun v => v.group = 0).map fun v =>
    let src := (List.range 3).flatMap (progsOf img v)
    let dst := [3, 4].flatMap (progsOf img v)
    (v.off, !(dst.any fun p => src.any p.meets))
  let o : VOrder := { m := m, size := ops.length }
  let writes (w : VOp) (i : Nat) : Bool := (w.outKeys img).contains i
  let slots := ops.map fun v =>
    (v.off, ([v.op.din 0, v.op.din 1].filter fun x => refNamesSlot x && !refTok x).all fun x =>
      let ws := ops.filter fun w => writes w (refKey x)
      let earlier := ws.any fun w => o.before w v
      ws.all fun w => (w.die = v.die && w.group = v.group) || m.stuck || o.before w v || (earlier && o.before v w))
  firstBad (basil ++ slots)

/-- R119, R164, R91, R224 check 20. `hs` gives the handle of each buffer number, `raw` is the image as shipped. -/
def checkTables (s : State) (raw img : List Byte) (dies : List Nat) (hs : List (Nat × Nat)) (r : VPass) : Option Nat :=
  let secs := (imgSects raw).filter fun t => t.type = Sec.CONST
  let tabs := secs.map fun t =>
    let b := t.bytes raw
    let data := b.drop 64
    (t.off, match leAt b 0 1 with
      | 2 => (wordsOf data).all (permWordOk (2 ^ leAt b 0x18 1))
      | 3 =>
        let ch := leAt data 1 1
        (s.chain? ch).isSome && lutOk (data.take (64 + 4 * 2 ^ bits (leAt data 0 8) 0 4)) (2 ^ 12) ch ((s.chainOf ch).prime 0) &&
          decide (64 + 4 * 2 ^ bits (leAt data 0 8) 0 4 ≤ data.length)
      | _ => true)
  let named (h : Nat) : List (List Byte) := (secs.filter fun t => handleOf hs (dies.getD t.die 8) (leAt (t.bytes raw) 2 2) = some h).map (·.bytes raw)
  let ops := (imgOps img).map fun v =>
    let h := bits (v.op.arg 0) 0 16
    (v.off, match v.op.opc with
      | 0x42 => ((named h).filter fun b => leAt b 0 1 = 3).all fun b =>
          let data := b.drop 64
          decide (2 ^ bits (leAt data 0 8) 0 4 ≤ v.op.nbr) && ((r.inDesc img v 0).map fun (x : Desc) => decide (x.chain = leAt data 1 1)).getD true
      | 0x03 => (named h).any fun b =>
          leAt b 0 1 = 1 && leAt b 8 8 = v.op.bcOff && leAt b 0x18 1 = v.op.bcChain && bits (leAt b 0x18 8) 8 9 = v.op.bcA &&
            bits (leAt b 0x18 8) 24 7 = v.op.bcU
      | _ => true)
  firstBad (tabs ++ ops)

/-- R227, R224 check 21. -/
def checkCapacity (img : List Byte) : Option Nat :=
  firstBad ((List.range (imgDies img)).map fun i =>
    ((((imgSects img).find? fun t => t.type = Sec.QUEUES && t.die = i).map (·.off)).getD 0,
      decide (sumN ((List.range 128).map fun q => (imgQueue img i q).cap) ≤ 512)))

/-- R230: an operation writes a statistics buffer. -/
def VOp.writesStats (v : VOp) (h : Nat) : Bool :=
  (v.op.opc = 0x05 && v.op.opn && v.op.gb.pro != 3 && v.op.stats = h) || (v.op.opc = 0x06 && v.op.psum = h)

/-- R230, R224 check 22: one earlier operation at the site that the consumer names writes the statistics buffer, followed by
its SEAL or not, or there is one SEAL alone; and from the last of them to the consumer no operation writes the buffer. -/
def checkSeals (img : List Byte) : Option Nat :=
  firstBad ((List.range (imgDies img)).flatMap fun i =>
    let ops := imgList img i 0
    ops.map fun v =>
      let pro3 := v.op.opc = 0x05 && v.op.opn && v.op.gb.pro = 3
      let before := ops.take v.idx
      let makers := before.filter fun w => w.op.opc != 0x06 && w.op.site = v.op.gb.psite && w.writesStats v.op.stats
      let seals := before.filter fun w => w.op.opc = 0x06 && w.writesStats v.op.stats
      let from' := match makers with
        | [w] => some w.idx
        | [] => if seals.length = 1 then seals.head?.map (·.idx) else none
        | _ => none
      (v.off, !pro3 || match from' with
        | some k => !((before.drop (k + 1)).any fun x => x.op.opc != 0x06 && x.writesStats v.op.stats)
        | none => false))

/-- The image offset of the record of a queue (128 × die + queue). -/
def queueAt (img : List Byte) (k : Nat) : Nat :=
  (((imgSects img).find? fun t => t.type = Sec.QUEUES && t.die = k / 128).map (·.off)).getD 0 + 8 * (k % 128)

/-- R207, R236, R224 check 23, once the greedy run has come to its end. -/
def checkBarriers (img : List Byte) (m : VSim) : Option Nat :=
  match m.dirty with
  | some k => some (queueAt img k)
  | none =>
    if m.stuck then none
    else match m.qs with
      | p :: _ => some (queueAt img p.1)
      | [] => if (List.range (imgDies img)).any fun i => mapGet 0 m.layers i != leAt img 0x40 4 then some 0x40 else none

/-- R228, R224 check 24: where the first actor that has not finished stands: its operation, its program, or its fine
group's declaration. -/
def checkDeadlock (img : List Byte) (m : VSim) : Option Nat :=
  let sect (ty die : Nat) : Nat := (((imgSects img).find? fun t => t.type = ty && t.die = die).map (·.off)).getD 0
  ((List.range m.prog.length).find? fun a => !(m.prog.getD a []).isEmpty).map fun a =>
    let i := ((m.know.getD a []).getD a 0) - (match m.prog.getD a [] with
      | .start _ :: _ => 0
      | _ => 1)
    if 4 ≤ a % 20 then sect Sec.STREAMS (a / 20) + 64 * (startList img (a / 20) (a % 20 - 4)).getD i 0
    else if groupMacro img (a / 20) (a % 20) then (imgOp img (a / 20) (a % 20) i).off
    else sect Sec.GRAPH wholePart

/-- R231, R224 check 25. -/
def checkCode (img : List Byte) : Option Nat :=
  firstBad (((imgSects img).filter fun t => t.type = Sec.CODE).map fun t =>
    (t.off, segmentOk (fun g => 4 ≤ g || groupMacro img t.die g) (t.bytes img)))

/-! ### The whole verification (R224, R234) -/

/-- What an accepted image would leave: the state with its chains, handles and tables, its dies, its handles by buffer
number, and the image with handles in place. -/
structure Accepted where
  st : State
  dies : List Nat
  hs : List (Nat × Nat)
  img : List Byte

/-- Chains installed, handles allocated, constant tables written (R26, R215, R221). `none` where there is no room. -/
def State.install (s : State) (slot : Nat) (img : List Byte) : Option Accepted :=
  let dies := s.bindDies (imgDies img)
  match State.putBuffers slot (imgBufs img dies) (s.putChains (imgChains img)) [] with
  | some (t, hs) =>
    if dies.all fun d => State.transientFit ((hs.map (·.2)).filter fun h => hDie h = d && t.hLoc h = 0) t then
      let img' := relocate img dies hs
      some ⟨(imgConsts img).foldl (fun u b => u.putConst hs (dies.getD b.1 8) b.2) t, dies, hs, img'⟩
    else none
  | none => none

/-- The first of a list of buffers with their image offsets that finds no place, or the state and the handles that all
leave. -/
def State.placeFault (slot : Nat) : List (Nat × Nat × BufRec) → State → List (Nat × Nat) → Except Nat (State × List (Nat × Nat))
  | [], s, m => .ok (s, m)
  | (o, d, b) :: bs, s, m =>
    match s.putBuffer d slot b with
    | some (h, t) => State.placeFault slot bs t (m ++ [(o, h)])
    | none => .error o

/-- The first of a list of transient buffers that does not fit with those before it. -/
def State.transientFault : List (Nat × Nat) → State → Option Nat
  | [], _ => none
  | (o, h) :: hs, s =>
    if s.hLoc h != 0 then State.transientFault hs s
    else match s.bindSpad (hDie h) (hIdx h) with
      | some t => State.transientFault hs t
      | none => some o

/-- R224 check 5: the first record of BUFFERS for which there is no room. -/
def State.noRoomAt (s : State) (slot : Nat) (img : List Byte) : Option Nat :=
  let dies := s.bindDies (imgDies img)
  let all := (List.range (imgDies img)).flatMap fun i => (bufsAt img i).map fun p => (p.1, dies.getD i 8, p.2)
  match State.placeFault slot all (s.putChains (imgChains img)) [] with
  | .ok (t, m) => State.transientFault m t
  | .error o => some o

/-- The state in which checks 6 to 25 judge the image: its configuration set and a job of it running. -/
def Accepted.trial (a : Accepted) (slot : Nat) : State :=
  let j : Job := { id := 0, ring := 0, tag := 0, sqHead := 0, slot := slot, digest := [], dieMap := a.dies, tDoor := 0, finish := 0, deadline := 0,
                   seed := [], inputs := [], handles := [], watchAddr := 0, watchLen := 0, recAddr := 0, phase := .running }
  let s1 := { a.st with jobs := [j], images := mapPut a.st.images slot a.img }
  (List.range a.dies.length).foldl (fun t i =>
    let d := a.dies.getD i 8
    (t.configDie d a.img i).updDie d fun x => { x with txns := [], groups := Vector.replicate 4 {}, tiles := [] }) s1

/-- The checks of R224 in order: the code of the first that fails with its offset, or what the accepted image leaves. -/
def State.verifyImage (s : State) (l : Landing) : Except (Nat × Nat) Accepted :=
  let raw := l.image
  let len := l.image.length
  let test (code : Nat) (o : Option Nat) (k : Except (Nat × Nat) Accepted) : Except (Nat × Nat) Accepted :=
    match o with
    | some off => .error (code, off)
    | none => k
  test 0x0801 (checkFormat raw len) <|
  test 0x0802 (checkDigest raw) <|
  test 0x0803 (if s.capsMet raw (s.bindDies (imgDies raw)) then none else some 0x38) <|
  test Ev.RANGE (s.checkChains raw) <|
  test 0x0804 (checkBufferForm raw) <|
  match s.install l.slot raw with
  | none => .error (0x0804, (s.noRoomAt l.slot raw).getD 0)
  | some a =>
    let img := a.img
    let t := a.trial l.slot
    let m := simulate img false
    let r := verifyPass img a.dies (m.orderOf img) t
    test Ev.RANGE (checkOwners img) <|
    test 0x0805 (checkEncodings img) <|
    test 0x0806 (checkSites img) <|
    test 0x0807 (r.first 0) <|
    test 0x0808 (r.first 1) <|
    test 0x0809 (r.first 2) <|
    test 0x080A (checkPairing img) <|
    test 0x080B (r.first 3) <|
    test 0x080C (r.first 4) <|
    test 0x080D (r.checkTxn a.dies) <|
    test 0x080E (r.checkKeys img) <|
    test 0x080F (checkQueueEnds img) <|
    test 0x0810 (checkStreams t raw img a.dies a.hs r) <|
    test 0x0811 (checkOverlap img m) <|
    test 0x0812 (checkTables t raw img a.dies a.hs r) <|
    test 0x0813 (checkCapacity img) <|
    test 0x0814 (checkSeals img) <|
    test 0x0815 (checkBarriers img m) <|
    test 0x0816 (checkDeadlock img m) <|
    test 0x0817 (checkCode img) (.ok a)

/-- IMAGE_VERIFY (R224, R234 steps 3 to 5): the verifier judges the image that has landed for a slot. A rejected image
occupies no slot and nothing of it is installed. -/
def execImageVerify (slot : Fin 16) (s : State) : Host.Outcome State Fault Refusal :=
  .next (match s.landings.find? fun l => l.slot = slot.val with
    | none => s
    | some l =>
      let s0 := { s with landings := s.landings.filter fun k => k.slot != slot.val }
      match s0.verifyImage l with
      | .ok a =>
        let s1 := { a.st with
          images := mapPut a.st.images l.slot a.img
          slotDies := mapPut a.st.slotDies l.slot a.dies
          slotBufs := mapPut a.st.slotBufs l.slot a.hs }
        s1.noteSlots.postOwed l.cq l.ring l.tag 2 l.sqHead { result := leAt (imgDigest l.image) 0 8 }
      | .error (code, off) =>
        let s1 := (((s0.wr R.LDR_LAST_CODE code).wr R.LDR_LAST_SLOT l.slot).wr R.LDR_LAST_OFFSET off)
        (s1.raise { code := code, unit := Unit.LOADER, detail := l.tag * 2 ^ 32 }).postOwed l.cq l.ring l.tag 2 l.sqHead { code := code })

end Sys2Proof.Machine
end

