-- ==== Sys2Proof/Machine/Dispatch.lean ====
section
/-! DEFINITION. The one dispatch: each command to its meaning. -/

namespace Sys2Proof.Machine

def exec (i : Instr) (s : State) : Host.Outcome State Fault Refusal :=
  match i with
  | .sqDoorbell r tail => Sys2Proof.Machine.execSqDoorbell r tail s
  | .cqDoorbell c head => Sys2Proof.Machine.execCqDoorbell c head s
  | .eqDoorbell head => Sys2Proof.Machine.execEqDoorbell head s
  | .shadowPoll r tail => Sys2Proof.Machine.execShadowPoll r tail s
  | .shadowPollIdle r tail => Sys2Proof.Machine.execShadowPollIdle r tail s
  | .job r entry args ups => Sys2Proof.Machine.execJob r entry args ups s
  | .load r entry image => Sys2Proof.Machine.execLoad r entry image s
  | .imageVerify slot => Sys2Proof.Machine.execImageVerify slot s
  | .ingest r entry args registry ups => Sys2Proof.Machine.execIngest r entry args registry ups s
  | .releaseDecrypt r entry req fails ups => Sys2Proof.Machine.execReleaseDecrypt r entry req fails ups s
  | .releaseProbe r entry req fails ups => Sys2Proof.Machine.execReleaseProbe r entry req fails ups s
  | .releaseAllowlist r entry req fails => Sys2Proof.Machine.execReleaseAllowlist r entry req fails s
  | .bufferCreate r entry => Sys2Proof.Machine.execBufferCreate r entry s
  | .bufferFree r entry => Sys2Proof.Machine.execBufferFree r entry s
  | .bufferWrite r entry data ups => Sys2Proof.Machine.execBufferWrite r entry data ups s
  | .bufferRead r entry ups => Sys2Proof.Machine.execBufferRead r entry ups s
  | .abort r entry => Sys2Proof.Machine.execAbort r entry s
  | .entryFetchTimeout r entry => Sys2Proof.Machine.execEntryFetchTimeout r entry s
  | .admitLate r entry args => Sys2Proof.Machine.execAdmitLate r entry args s
  | .coalesceTimer c => Sys2Proof.Machine.execCoalesceTimer c s
  | .apertureRead w off len ups => Sys2Proof.Machine.execApertureRead w off len ups s
  | .apertureWrite w off data ups => Sys2Proof.Machine.execApertureWrite w off data ups s
  | .functionLevelReset => Sys2Proof.Machine.execFunctionLevelReset s
  | .hotReset => Sys2Proof.Machine.execHotReset s
  | .linkDown => Sys2Proof.Machine.execLinkDown s
  | .mbxSend mid m => Sys2Proof.Machine.execMbxSend mid m s
  | .mbxDbClear mid m => Sys2Proof.Machine.execMbxDbClear mid m s
  | .installShare pkg fail => Sys2Proof.Machine.execInstallShare pkg fail s
  | .installKeyset pkg => Sys2Proof.Machine.execInstallKeyset pkg s
  | .retireKeyset pkg => Sys2Proof.Machine.execRetireKeyset pkg s
  | .stageFirmware pkg => Sys2Proof.Machine.execStageFirmware pkg s
  | .commitSvn pkg => Sys2Proof.Machine.execCommitSvn pkg s
  | .spdmGetVersion => Sys2Proof.Machine.execSpdmGetVersion s
  | .spdmGetCapabilities version => Sys2Proof.Machine.execSpdmGetCapabilities version s
  | .spdmNegotiateAlgorithms offered => Sys2Proof.Machine.execSpdmNegotiateAlgorithms offered s
  | .spdmGetDigests => Sys2Proof.Machine.execSpdmGetDigests s
  | .spdmGetCertificate slot off len => Sys2Proof.Machine.execSpdmGetCertificate slot off len s
  | .spdmChallenge slot nonce => Sys2Proof.Machine.execSpdmChallenge slot nonce s
  | .spdmGetMeasurements which signed slot nonce => Sys2Proof.Machine.execSpdmGetMeasurements which signed slot nonce s
  | .spdmKeyExchange slot sid random exchange => Sys2Proof.Machine.execSpdmKeyExchange slot sid random exchange s
  | .spdmFinish session mac => Sys2Proof.Machine.execSpdmFinish session mac s
  | .spdmHeartbeat session => Sys2Proof.Machine.execSpdmHeartbeat session s
  | .spdmKeyUpdate session op => Sys2Proof.Machine.execSpdmKeyUpdate session op s
  | .spdmEndSession session => Sys2Proof.Machine.execSpdmEndSession session s
  | .svcChallenge => Sys2Proof.Machine.execSvcChallenge s
  | .svcResponse modulus sig => Sys2Proof.Machine.execSvcResponse modulus sig s
  | .tapBypass scan => Sys2Proof.Machine.execTapBypass scan s
  | .tapIdcode => Sys2Proof.Machine.execTapIdcode s
  | .tapSamplePreload pins preload => Sys2Proof.Machine.execTapSamplePreload pins preload s
  | .tapExtest pins => Sys2Proof.Machine.execTapExtest pins s
  | .debugHalt d c => Sys2Proof.Machine.execDebugHalt d c s
  | .opm d c p f7 rd rs1 => Sys2Proof.Machine.execOpm d c p f7 rd rs1 s
  | .opf d c p f7 rd rs1 rs2 => Sys2Proof.Machine.execOpf d c p f7 rd rs1 rs2 s
  | .opwait d c p f7 rd rs1 => Sys2Proof.Machine.execOpwait d c p f7 rd rs1 s
  | .sustart d c p f7 rd rs1 rs2 => Sys2Proof.Machine.execSustart d c p f7 rd rs1 rs2 s
  | .sufeed d c p f7 rd rs1 rs2 => Sys2Proof.Machine.execSufeed d c p f7 rd rs1 rs2 s
  | .suwait d c p f7 rd rs1 => Sys2Proof.Machine.execSuwait d c p f7 rd rs1 s
  | .lbar d c p f7 rd rs1 => Sys2Proof.Machine.execLbar d c p f7 rd rs1 s
  | .layerBarrier d mask => Sys2Proof.Machine.execLayerBarrier d mask s
  | .fence d c p => Sys2Proof.Machine.execFence d c p s
  | .ecallSegmentEnd d c p => Sys2Proof.Machine.execEcallSegmentEnd d c p s
  | .bankSwap d c => Sys2Proof.Machine.execBankSwap d c s
  | .segmentPrefetch d c bank => Sys2Proof.Machine.execSegmentPrefetch d c bank s
  | .ecallJobEnd d c p => Sys2Proof.Machine.execEcallJobEnd d c p s
  | .windowLoad d c p rd addr width isSigned ups => Sys2Proof.Machine.execWindowLoad d c p rd addr width isSigned ups s
  | .windowStore d c p rs2 addr width ups => Sys2Proof.Machine.execWindowStore d c p rs2 addr width ups s
  | .sealedStore d c p rs2 addr width => Sys2Proof.Machine.execSealedStore d c p rs2 addr width s
  | .sealedWriteLand n => Sys2Proof.Machine.execSealedWriteLand n s
  | .samoAdd d c p rd rs1 rs2 scope wide ups => Sys2Proof.Machine.execSamoAdd d c p rd rs1 rs2 scope wide ups s
  | .samoMax d c p rd rs1 rs2 scope wide ups => Sys2Proof.Machine.execSamoMax d c p rd rs1 rs2 scope wide ups s
  | .samoMaxu d c p rd rs1 rs2 scope wide ups => Sys2Proof.Machine.execSamoMaxu d c p rd rs1 rs2 scope wide ups s
  | .samoSwap d c p rd rs1 rs2 scope wide ups => Sys2Proof.Machine.execSamoSwap d c p rd rs1 rs2 scope wide ups s
  | .samoCas d c p rd rs1 rs2 scope wide ups => Sys2Proof.Machine.execSamoCas d c p rd rs1 rs2 scope wide ups s
  | .tensorCreate d c p addr value => Sys2Proof.Machine.execTensorCreate d c p addr value s
  | .copyRequest d c p addr value => Sys2Proof.Machine.execCopyRequest d c p addr value s
  | .copyRun d ups => Sys2Proof.Machine.execCopyRun d ups s
  | .remoteWrite d c p value => Sys2Proof.Machine.execRemoteWrite d c p value s
  | .remoteSealedWrite d c p value => Sys2Proof.Machine.execRemoteSealedWrite d c p value s
  | .remoteAtomic d c p value => Sys2Proof.Machine.execRemoteAtomic d c p value s
  | .ntt d ups => Sys2Proof.Machine.execNtt d ups s
  | .intt d ups => Sys2Proof.Machine.execIntt d ups s
  | .bconv d ups => Sys2Proof.Machine.execBconv d ups s
  | .ksip d ups => Sys2Proof.Machine.execKsip d ups s
  | .gemm d ups => Sys2Proof.Machine.execGemm d ups s
  | .seal d ups => Sys2Proof.Machine.execSeal d ups s
  | .trrel d => Sys2Proof.Machine.execTrrel d s
  | .aut d ups => Sys2Proof.Machine.execAut d ups s
  | .perm d ups => Sys2Proof.Machine.execPerm d ups s
  | .vadd d ups => Sys2Proof.Machine.execVadd d ups s
  | .vsub d ups => Sys2Proof.Machine.execVsub d ups s
  | .vneg d ups => Sys2Proof.Machine.execVneg d ups s
  | .vmul d ups => Sys2Proof.Machine.execVmul d ups s
  | .vmac d ups => Sys2Proof.Machine.execVmac d ups s
  | .ctadd d ups => Sys2Proof.Machine.execCtadd d ups s
  | .ctsub d ups => Sys2Proof.Machine.execCtsub d ups s
  | .ctaddp d ups => Sys2Proof.Machine.execCtaddp d ups s
  | .ctmulp d ups => Sys2Proof.Machine.execCtmulp d ups s
  | .ctmulc d ups => Sys2Proof.Machine.execCtmulc d ups s
  | .cttensor d ups => Sys2Proof.Machine.execCttensor d ups s
  | .rsdelta d ups => Sys2Proof.Machine.execRsdelta d ups s
  | .rsfin d ups => Sys2Proof.Machine.execRsfin d ups s
  | .foldo d ups => Sys2Proof.Machine.execFoldo d ups s
  | .foldc d ups => Sys2Proof.Machine.execFoldc d ups s
  | .modraise d ups => Sys2Proof.Machine.execModraise d ups s
  | .fadd d ups => Sys2Proof.Machine.execFadd d ups s
  | .fsub d ups => Sys2Proof.Machine.execFsub d ups s
  | .fmul d ups => Sys2Proof.Machine.execFmul d ups s
  | .ffma d ups => Sys2Proof.Machine.execFfma d ups s
  | .fmax d ups => Sys2Proof.Machine.execFmax d ups s
  | .fmin d ups => Sys2Proof.Machine.execFmin d ups s
  | .fcvt d ups => Sys2Proof.Machine.execFcvt d ups s
  | .fred d ups => Sys2Proof.Machine.execFred d ups s
  | .extract d ups => Sys2Proof.Machine.execExtract d ups s
  | .lweksw d ups => Sys2Proof.Machine.execLweksw d ups s
  | .pbs d ups => Sys2Proof.Machine.execPbs d ups s
  | .ringify d ups => Sys2Proof.Machine.execRingify d ups s
  | .sprobe d ups => Sys2Proof.Machine.execSprobe d ups s
  | .flds d => Sys2Proof.Machine.execFlds d s
  | .fxch d => Sys2Proof.Machine.execFxch d s
  | .frow d => Sys2Proof.Machine.execFrow d s
  | .fpermv d => Sys2Proof.Machine.execFpermv d s
  | .fineVadd d => Sys2Proof.Machine.execFineVadd d s
  | .fineVsub d => Sys2Proof.Machine.execFineVsub d s
  | .fineVneg d => Sys2Proof.Machine.execFineVneg d s
  | .fineVmul d => Sys2Proof.Machine.execFineVmul d s
  | .fineVmac d => Sys2Proof.Machine.execFineVmac d s
  | .fineFadd d => Sys2Proof.Machine.execFineFadd d s
  | .fineFsub d => Sys2Proof.Machine.execFineFsub d s
  | .fineFmul d => Sys2Proof.Machine.execFineFmul d s
  | .fineFfma d => Sys2Proof.Machine.execFineFfma d s
  | .fineFmax d => Sys2Proof.Machine.execFineFmax d s
  | .fineFmin d => Sys2Proof.Machine.execFineFmin d s
  | .fineFcvt d => Sys2Proof.Machine.execFineFcvt d s
  | .qmove d g => Sys2Proof.Machine.execQmove d g s
  | .qdrop d g => Sys2Proof.Machine.execQdrop d g s
  | .tset d g => Sys2Proof.Machine.execTset d g s
  | .queuePush d q => Sys2Proof.Machine.execQueuePush d q s
  | .queuePop d q => Sys2Proof.Machine.execQueuePop d q s
  | .queueEndClose d q writer => Sys2Proof.Machine.execQueueEndClose d q writer s
  | .outputCommit d g => Sys2Proof.Machine.execOutputCommit d g s
  | .streamProgramStart d u ups => Sys2Proof.Machine.execStreamProgramStart d u ups s
  | .streamTransfer d u ups => Sys2Proof.Machine.execStreamTransfer d u ups s
  | .fetchErrorRestart d g => Sys2Proof.Machine.execFetchErrorRestart d g s
  | .remoteReadTimeout d who => Sys2Proof.Machine.execRemoteReadTimeout d who s
  | .bridgeResend d fails what => Sys2Proof.Machine.execBridgeResend d fails what s
  | .stallTimeout d unit q wait => Sys2Proof.Machine.execStallTimeout d unit q wait s
  | .channelForward d ch => Sys2Proof.Machine.execChannelForward d ch s
  | .fabricEntrySend d ch => Sys2Proof.Machine.execFabricEntrySend d ch s
  | .dillEntrySnapshot d ctx ups => Sys2Proof.Machine.execDillEntrySnapshot d ctx ups s
  | .dillRowFetch d ctx ups => Sys2Proof.Machine.execDillRowFetch d ctx ups s
  | .jobStart job ups => Sys2Proof.Machine.execJobStart job ups s
  | .jobComplete job ups => Sys2Proof.Machine.execJobComplete job ups s
  | .spadPwrWrite mid d value => Sys2Proof.Machine.execSpadPwrWrite mid d value s
  | .bankScrubDone d bank => Sys2Proof.Machine.execBankScrubDone d bank s
  | .rawRd mid d bank row => Sys2Proof.Machine.execRawRd mid d bank row s
  | .rawWr mid d bank row => Sys2Proof.Machine.execRawWr mid d bank row s
  | .decRd mid d bank row => Sys2Proof.Machine.execDecRd mid d bank row s
  | .patrolScrub d ups => Sys2Proof.Machine.execPatrolScrub d ups s
  | .odeccPoll d counts => Sys2Proof.Machine.execOdeccPoll d counts s
  | .stackTempPoll d k temp => Sys2Proof.Machine.execStackTempPoll d k temp s
  | .memTgStart mid d value => Sys2Proof.Machine.execMemTgStart mid d value s
  | .memTgDone d mismatch => Sys2Proof.Machine.execMemTgDone d mismatch s
  | .marginStart mid d stack => Sys2Proof.Machine.execMarginStart mid d stack s
  | .marginDone d window => Sys2Proof.Machine.execMarginDone d window s
  | .paceSample d rate => Sys2Proof.Machine.execPaceSample d rate s
  | .paceLow d => Sys2Proof.Machine.execPaceLow d s
  | .paceResumed => Sys2Proof.Machine.execPaceResumed s
  | .calibration d pace rate toggles => Sys2Proof.Machine.execCalibration d pace rate toggles s
  | .entryCheck d unit ok => Sys2Proof.Machine.execEntryCheck d unit ok s
  | .unitWake d unit => Sys2Proof.Machine.execUnitWake d unit s
  | .unitSleep d unit => Sys2Proof.Machine.execUnitSleep d unit s
  | .paceReqCalibration d mid pace rate toggles => Sys2Proof.Machine.execPaceReqCalibration d mid pace rate toggles s
  | .paceReqSelfTest d mid fails => Sys2Proof.Machine.execPaceReqSelfTest d mid fails s
  | .paceCapWrite d mid value => Sys2Proof.Machine.execPaceCapWrite d mid value s
  | .throttleSample tjs vcores power vin cmp => Sys2Proof.Machine.execThrottleSample tjs vcores power vin cmp s
  | .deadlineMissed job => Sys2Proof.Machine.execDeadlineMissed job s
  | .vinUndervoltage => Sys2Proof.Machine.execVinUndervoltage s
  | .vinOvervoltage => Sys2Proof.Machine.execVinOvervoltage s
  | .vinLow => Sys2Proof.Machine.execVinLow s
  | .vinHigh => Sys2Proof.Machine.execVinHigh s
  | .pdFault pd => Sys2Proof.Machine.execPdFault pd s
  | .thermtrip die => Sys2Proof.Machine.execThermtrip die s
  | .xtalLoss => Sys2Proof.Machine.execXtalLoss s
  | .frefLoss p => Sys2Proof.Machine.execFrefLoss p s
  | .pwrgoodRise low vin => Sys2Proof.Machine.execPwrgoodRise low vin s
  | .railsGood strap fails v6 => Sys2Proof.Machine.execRailsGood strap fails v6 s
  | .pwrgoodFall => Sys2Proof.Machine.execPwrgoodFall s
  | .resetNAssert => Sys2Proof.Machine.execResetNAssert s
  | .resetNRelease => Sys2Proof.Machine.execResetNRelease s
  | .startupStepTimeout step => Sys2Proof.Machine.execStartupStepTimeout step s
  | .trngHealthFail => Sys2Proof.Machine.execTrngHealthFail s
  | .smbState => Sys2Proof.Machine.execSmbState s
  | .smbTjmax => Sys2Proof.Machine.execSmbTjmax s
  | .smbPower => Sys2Proof.Machine.execSmbPower s
  | .smbVin => Sys2Proof.Machine.execSmbVin s
  | .smbLimitRead => Sys2Proof.Machine.execSmbLimitRead s
  | .smbLimitWrite w => Sys2Proof.Machine.execSmbLimitWrite w s
  | .smbAlertRead => Sys2Proof.Machine.execSmbAlertRead s
  | .smbAlertWrite w => Sys2Proof.Machine.execSmbAlertWrite w s
  | .smbLastoff => Sys2Proof.Machine.execSmbLastoff s
  | .smbPowerdies => Sys2Proof.Machine.execSmbPowerdies s
  | .smbStackmax => Sys2Proof.Machine.execSmbStackmax s
  | .smbAlertResponse => Sys2Proof.Machine.execSmbAlertResponse s
  | .laneFault p lane => Sys2Proof.Machine.execLaneFault p lane s
  | .rxEntry p frame => Sys2Proof.Machine.execRxEntry p frame s
  | .rxWrite p frame => Sys2Proof.Machine.execRxWrite p frame s
  | .rxAtomic p frame => Sys2Proof.Machine.execRxAtomic p frame s
  | .rxAck p frame => Sys2Proof.Machine.execRxAck p frame s
  | .rxCredit p frame => Sys2Proof.Machine.execRxCredit p frame s
  | .rxClose p frame => Sys2Proof.Machine.execRxClose p frame s
  | .rxWack p frame => Sys2Proof.Machine.execRxWack p frame s
  | .rxAreply p frame => Sys2Proof.Machine.execRxAreply p frame s
  | .keyxInit p frame => Sys2Proof.Machine.execKeyxInit p frame s
  | .keyxResp p frame => Sys2Proof.Machine.execKeyxResp p frame s
  | .keyxDone p frame => Sys2Proof.Machine.execKeyxDone p frame s
  | .keyxInitResend epid => Sys2Proof.Machine.execKeyxInitResend epid s
  | .ackTimer epid => Sys2Proof.Machine.execAckTimer epid s
  | .retransmitTimeout epid psn => Sys2Proof.Machine.execRetransmitTimeout epid psn s
  | .rplArmWrite mid value => Sys2Proof.Machine.execRplArmWrite mid value s
  | .rplCfgWrite mid value => Sys2Proof.Machine.execRplCfgWrite mid value s
  | .regWrite mid addr size value => Sys2Proof.Machine.execRegWrite mid addr size value s
  | .portUp p => Sys2Proof.Machine.execPortUp p s
  | .vin52Apply => Sys2Proof.Machine.execVin52Apply s
  | .vin52Loss => Sys2Proof.Machine.execVin52Loss s
  | .probeReply ticket dref h0 h1 desc ups => Sys2Proof.Machine.execProbeReply ticket dref h0 h1 desc ups s
  | .debugResume d c => Sys2Proof.Machine.execDebugResume d c s

end Sys2Proof.Machine
end

