-- ==== Sys2Proof/Machine/Rv.lean ====
section
/-! DEFINITION. What a Chive core does on its own (R208, R209, R211, R232, R283): it fetches from its active bank and runs
the instructions of RV64IMAC and Zicsr that act on its registers and its private data memory. An instruction that is a
command of the block (R184, R280, R282, R283, R342, a window's load or store, an ECALL that ends a segment or the core's
part) stands at the pc until that command runs. -/

namespace Sys2Proof.Machine

/-! ### Arithmetic -/

/-- A register operation on words of n bits; division by zero and overflow as RISC-V gives them. -/
def RvOp.run {n : Nat} (op : RvOp) (a b : BitVec n) : BitVec n :=
  match op with
  | .add => a + b
  | .sub => a - b
  | .sll => a <<< (b.toNat % n)
  | .slt => if a.slt b then 1 else 0
  | .sltu => if a.ult b then 1 else 0
  | .xor => a ^^^ b
  | .srl => a >>> (b.toNat % n)
  | .sra => a.sshiftRight (b.toNat % n)
  | .or => a ||| b
  | .and => a &&& b
  | .mul => a * b
  | .mulh => BitVec.ofInt n (a.toInt * b.toInt / (2 ^ n : Nat))
  | .mulhsu => BitVec.ofInt n (a.toInt * (b.toNat : Int) / (2 ^ n : Nat))
  | .mulhu => BitVec.ofNat n (a.toNat * b.toNat / 2 ^ n)
  | .div => if b = 0 then BitVec.allOnes n else a.sdiv b
  | .divu => if b = 0 then BitVec.allOnes n else a / b
  | .rem => if b = 0 then a else a.srem b
  | .remu => if b = 0 then a else a % b

/-- A 32-bit result as a register holds it, sign-extended. -/
def sext32 (x : BitVec 32) : Nat := (x.signExtend 64).toNat

/-- The operation in its 64-bit or its 32-bit form, as a register receives it. -/
def RvOp.value (op : RvOp) (wide : Bool) (a b : Nat) : Nat :=
  if wide then (op.run (BitVec.ofNat 64 a) (BitVec.ofNat 64 b)).toNat else sext32 (op.run (BitVec.ofNat 32 a) (BitVec.ofNat 32 b))

/-- A branch is taken. -/
def branchTaken (f3 a b : Nat) : Bool :=
  match f3 with
  | 0 => a = b
  | 1 => a != b
  | 4 => toSigned 64 a < toSigned 64 b
  | 5 => toSigned 64 b ≤ toSigned 64 a
  | 6 => a < b
  | _ => b ≤ a

/-- What an AMO of n bytes writes, from the old value and rs2. -/
def amoNew (f5 n old b : Nat) : Nat :=
  let m := 2 ^ (8 * n)
  let s (x : Nat) : Int := toSigned (8 * n) x
  let b' := b % m
  match f5 with
  | 0 => (old + b') % m
  | 1 => b'
  | 4 => old ^^^ b'
  | 8 => old ||| b'
  | 12 => old &&& b'
  | 16 => if s old ≤ s b' then old else b'
  | 20 => if s old ≤ s b' then b' else old
  | 24 => min old b'
  | _ => max old b'

/-! ### One instruction -/

/-- What an instruction does: the core goes on, it stands until a command runs, or it traps with a cause. -/
inductive RvOut where
  | next (k : Core)
  | stand
  | trap (cause : Nat)

/-- R209: what an access at an address beyond private data memory is: a command of the block's, or no access at all. -/
def rowAccess (isStore : Bool) (a n : Nat) : Bool :=
  match regionOf a with
  | .status _ o => !isStore && decide (o + n ≤ 8)
  | .port _ => isStore
  | .window _ _ => true
  | .sealedWin _ _ => isStore
  | .outside => false

/-- An address as a core computes it. -/
def Core.addr (k : Core) (rs1 : Nat) (off : Int) : Nat := ofSigned 64 ((k.reg rs1 : Int) + off)

/-- The core with a result in rd and the pc moved on by the instruction's length. -/
def Core.done (k : Core) (len rd v : Nat) : Core := { k.setReg rd v with pc := (k.pc + len) % 2 ^ 64 }

/-- R283: an instruction of the A extension acts on private data memory alone, naturally aligned; elsewhere it is an access
fault. `f` is what it does. -/
def Core.atomic (k : Core) (rs1 n cause : Nat) (f : Nat → RvOut) : RvOut :=
  let a := k.reg rs1
  if a % n = 0 && decide (a + n ≤ dataBytes) then f a else .trap cause

/-- R208: the CSRs that image code may read: time, the die's interval counter in nanoseconds, and cycle and instret, both
the instructions retired. -/
def csrValue (n time retired : Nat) : Option Nat :=
  if n = 0xC01 then some time else if n = 0xC00 || n = 0xC02 then some retired else none

/-- R208, R209: an instruction of `len` bytes executed in user mode; `time` is the die's interval counter and `retired` the
instructions that the core has retired. -/
def Core.execute (k : Core) (time retired len : Nat) (i : RvInstr) : RvOut :=
  match i with
  | .lui rd v => .next (k.done len rd (ofSigned 64 v))
  | .auipc rd v => .next (k.done len rd (ofSigned 64 ((k.pc : Int) + v)))
  | .jal rd off => .next { k.setReg rd (k.pc + len) with pc := ofSigned 64 ((k.pc : Int) + off) }
  | .jalr rd rs1 off =>
    let t := k.addr rs1 off
    .next { k.setReg rd (k.pc + len) with pc := t - t % 2 }
  | .branch f3 rs1 rs2 off =>
    .next (if branchTaken f3 (k.reg rs1) (k.reg rs2) then { k with pc := ofSigned 64 ((k.pc : Int) + off) } else k.done len 0 0)
  | .load f3 rd rs1 off =>
    let a := k.addr rs1 off
    let n := 2 ^ (f3 % 4)
    if a + n ≤ dataBytes then .next (k.done len rd (loadExt n (decide (f3 < 4)) (leNat (k.bytes a n))))
    else if rowAccess false a n then .stand else .trap Trap.loadFault
  | .store f3 rs1 rs2 off =>
    let a := k.addr rs1 off
    let n := 2 ^ f3
    if a + n ≤ dataBytes then .next ((k.put a (leBytes n (k.reg rs2))).done len 0 0)
    else if rowAccess true a n then .stand else .trap Trap.storeFault
  | .opImm op wide rd rs1 v => .next (k.done len rd (op.value wide (k.reg rs1) (ofSigned 64 v)))
  | .op op wide rd rs1 rs2 => .next (k.done len rd (op.value wide (k.reg rs1) (k.reg rs2)))
  | .lr wide rd rs1 =>
    let n := if wide then 8 else 4
    k.atomic rs1 n Trap.loadFault fun a => .next ({ k with resv := some (a, n) }.done len rd (loadExt n true (leNat (k.bytes a n))))
  | .sc wide rd rs1 rs2 =>
    let n := if wide then 8 else 4
    k.atomic rs1 n Trap.storeFault fun a =>
      let ok := k.resv = some (a, n)
      let k1 : Core := if ok then k.put a (leBytes n (k.reg rs2)) else k
      .next ({ k1 with resv := none }.done len rd (if ok then 0 else 1))
  | .amo f5 wide rd rs1 rs2 =>
    let n := if wide then 8 else 4
    k.atomic rs1 n Trap.storeFault fun a =>
      let old := leNat (k.bytes a n)
      .next ((k.put a (leBytes n (amoNew f5 n old (k.reg rs2)))).done len rd (loadExt n true old))
  | .csr f3 rd src n =>
    match csrValue n time retired with
    | some v => if f3 % 4 = 1 || src != 0 then .trap Trap.illegal else .next (k.done len rd v)
    | none => .trap Trap.illegal
  | .fence => .stand
  | .ecall => if k.reg 17 ≤ 1 then .stand else .trap 8
  | .ebreak => .trap 3
  | .issue => .stand
  | .samo => .stand

/-- R208, R211: what the instruction at a core's pc does. A fetch outside the instruction memory, or of a word that an
uncorrectable error has struck, is an access fault; a word that is no instruction is illegal. -/
def State.coreNext (s : State) (d c : Nat) : RvOut :=
  let k := (s.die d).core c
  match s.fetched d c with
  | none => .trap 1
  | some bs =>
    if k.memErr then .trap 1
    else
      let wide := bits (leAt bs 0 2) 0 2 = 3
      match if wide then (if bs.length = 4 then rvDecode32 (leAt bs 0 4) else none) else rvDecode16 (leAt bs 0 2) with
      | some i => k.execute (s.die d).time (s.rd (R.CHIVE_INSTRET_COUNT d c)) (if wide then 4 else 2) i
      | none => .trap Trap.illegal

/-- R208, R211: a running core's next step: at most one instruction retires. -/
def State.coreStep (s : State) (d c : Nat) : State :=
  if s.coreInJob d c then
    match s.coreNext d c with
    | .next k => (s.updCore d c fun _ => { k with at_ := (s.die d).time }).inc (R.CHIVE_INSTRET_COUNT d c) 1
    | .stand => s
    | .trap cause => s.trap d c cause
  else s

end Sys2Proof.Machine
end

