-- ==== Sys2Proof/Machine/Idle.lean ====
section
/-! DEFINITION. What passes with time: the interval counters, the writes on their way across a
bridge, the copies under way, the steps of the start-up, and the pin that shows that TCK toggles. -/

namespace Sys2Proof.Machine

/-- R281: each plain write that is on its way across a bridge may land now; which ones do is not given (free values,
log 48). -/
def State.landSome (s : State) : State :=
  (s.flights.filter fun f => !f.isSealed && !s.accessWaits f.handle f.off f.bytes.length).foldl (fun (t : State) f =>
    let (n, t1) := t.fresh
    if Config.freeNat n % 2 = 1 then t1.landWrite f else t1) s

/-- R253, R254: each die's copy unit may move its oldest copy on by a step; when it does is not given (free values, log 48). -/
def State.copySome (s : State) : State :=
  (List.range 8).foldl (fun (t : State) d =>
    match (t.die d).copies with
    | j :: _ =>
      let (n, t1) := t.fresh
      if Config.freeNat n % 2 = 1 && decide (j.done < (parseT j.src).count) && !t1.copyHeld j then t1.copyStep d j else t1
    | [] => t) s

/-- R208: each running core may retire one instruction; whether it does in a given nanosecond is not given, since its pace is
not (free values, log 48). -/
def State.coreSome (s : State) : State :=
  (List.range 56).foldl (fun (t : State) i =>
    if t.coreInJob (i / 7) (i % 7) then
      let (n, t1) := t.fresh
      if Config.freeNat n % 2 = 1 then t1.coreStep (i / 7) (i % 7) else t1
    else t) s

/-- R11, R403: every interval counter advances by one nanosecond. It does not wrap inside the model; a read gives 64 bits of it
(DESIGN CHOICE, log 170). -/
def State.countTime (s : State) : State :=
  { s with time := s.time + 1, dies := s.dies.map fun d => { d with time := d.time + 1 } }

/-- What a step does on an empty queue: one nanosecond passes, and the start-up takes its next
step (R441; DESIGN CHOICE, log 7). -/
def State.tick (s : State) : State := s.countTime.landSome.copySome.coreSome.bootStep.tapIdle

end Sys2Proof.Machine
end

