-- ==== Sys2Proof/Safety.lean ====
section
/-! DEFINITION. The terms that statements use: memories in canonical form, what a command completes with, and which
registers a command leaves alone. -/

namespace Sys2Proof.Machine

/-- The memories of a die are in their canonical form. -/
def Die.memWf (x : Die) : Bool := mapWf (0 : Byte) x.spad && mapWf (0 : Byte) x.stack

/-- Every memory of the part is in its canonical form: host memory as the part has written it, the mailbox stores, and
each die's scratchpad and stacks. -/
def State.memWf (s : State) : Bool :=
  mapWf (0 : Byte) s.hostMem && mapWf (0 : Byte) s.mbxStage && mapWf (0 : Byte) s.mbxSlot && s.dies.all Die.memWf

/-- The keys of the register file rise. -/
def State.regsWf (s : State) : Bool := mapRises 0 s.regs

/-- A step neither faults nor refuses. -/
def State.runs (s : State) : Prop := ∃ t, step s = .next t

/-- A command completes: it answers a next state, of which a property holds. -/
def Completes (i : Instr) (s : State) (P : State → Prop) : Prop := ∃ t, exec i s = .next t ∧ P t

/-- Every register field whose address is not listed reads in `t` as in `s`. -/
def State.RegsKept (s t : State) (as : List Nat) : Prop := ∀ f : Fld, f.key / 64 ∉ as → t.rd f = s.rd f

/-- The registers that raising an event may change: the event counters and EVT_LAST, EVT_DROP, the causes of PKG_ALERT,
the event ring's state and the pending-bit array (R320, R321, R440, R449–R451). -/
def eventReg (a : Nat) : Bool :=
  (decide (0x40000 ≤ a) && decide (a < 0x40050)) || a = 0xC0020 || a = 0x10020 || (decide (0x31000 ≤ a) && decide (a < 0x31020))

/-- Every register field outside the event registers whose address is not listed reads in `t` as in `s`. -/
def State.RegsKeptBut (s t : State) (as : List Nat) : Prop :=
  ∀ f : Fld, eventReg (f.key / 64) = false → f.key / 64 ∉ as → t.rd f = s.rd f

/-! ### The macro operations as rows (R193) -/

/-- The macro operations: the row of each and the command that runs it. -/
def macroRows : List (OpSpec × (DieId → List Upset → Instr)) :=
  [(transformSpec 0x01 false, .ntt), (transformSpec 0x02 true, .intt), (bconvSpec, .bconv), (ksipSpec, .ksip),
   (gemmSpec, .gemm), (sealSpec, .seal), (trrelSpec, fun d _ => .trrel d), (autSpec, .aut), (permSpec, .perm)] ++
  [(vecSpec 0x20 2, .vadd), (vecSpec 0x21 2, .vsub), (vecSpec 0x22 1, .vneg), (vecSpec 0x23 2, .vmul), (vecSpec 0x24 3, .vmac),
   (addSpec 0x28 false, .ctadd), (addSpec 0x29 true, .ctsub), (plainSpec 0x2A false, .ctaddp), (plainSpec 0x2B true, .ctmulp),
   (constSpec, .ctmulc), (tensorSpec, .cttensor), (rsdeltaSpec, .rsdelta), (rsfinSpec, .rsfin)] ++
  [(foldoSpec, .foldo), (foldcSpec, .foldc), (raiseSpec, .modraise), (openSpec 0x38 2, .fadd), (openSpec 0x39 2, .fsub),
   (openSpec 0x3A 2, .fmul), (openSpec 0x3B 3, .ffma), (openSpec 0x3C 2, .fmax), (openSpec 0x3D 2, .fmin), (fcvtSpec, .fcvt),
   (fredSpec, .fred), (extractSpec, .extract), (lwekswSpec, .lweksw), (pbsSpec, .pbs), (ringifySpec, .ringify),
   (sprobeSpec, .sprobe)]

/-- The step counter of a group's unit. -/
def stepsFld (d g : Nat) : Fld :=
  match g with
  | 0 => R.BASIL_STEPS_COUNT d
  | 1 => R.MINT_STEPS_COUNT d
  | 2 => R.PARS_STEPS_COUNT d
  | _ => R.TARR_STEPS_COUNT d

/-- The code of a group's last fault. -/
def lastCodeFld (d g : Nat) : Fld :=
  match g with
  | 0 => R.BASIL_STATUS_LAST_CODE d
  | 1 => R.MINT_STATUS_LAST_CODE d
  | 2 => R.PARS_STATUS_LAST_CODE d
  | _ => R.TARR_STATUS_LAST_CODE d

/-- The operation of a row is at its group's head, its inputs have all arrived and it may start: it is no operation that a
fetch error restarted after its work, no tile register that it needs is in the other engine's use (R126), and no stack that
it reads or writes is shut (R297); `s` is the state with the errors that strike it planted, `c` its context. -/
structure MacroReady (s : State) (d : DieId) (spec : OpSpec) (op : Issued) (c : Ctx) : Prop where
  head : s.headMacro d spec.group = some op
  code : op.opc = spec.opc
  fresh : ((s.die d).group spec.group).redo = none
  ctx : s.ctxOf d spec.group op = some c
  gathered : c.gathered (c.shapeOf spec) = true
  keyed : ∀ k, spec.keyCtx = some k → s.dillReady d k = true
  ready : spec.ready c = true
  free : s.tileBusy d spec.group op = false
  cool : c.stackWaits = false

/-- R87: nine seed vectors are those of a prime q with root ψ, ω its inverse and n′ the inverse of N. -/
structure SeedsAre (q ψ ω ninv N1 N2 : Nat) (v : List (List Nat)) : Prop where
  f1Seed : ∀ j, j < N1 → (v.getD 0 []).getD j 0 = ψ ^ (N2 * j) % q
  f1Ratio : ∀ j, j < N1 → (v.getD 1 []).getD j 0 = ψ ^ (2 * N2 * j) % q
  twSeed : ∀ j, j < N2 → (v.getD 2 []).getD j 0 = ψ ^ j % q
  twRatio : ∀ j, j < N2 → (v.getD 3 []).getD j 0 = ψ ^ (2 * j) % q
  f2Ratio : ∀ j, j < N2 → (v.getD 4 []).getD j 0 = ψ ^ (2 * N1 * j) % q
  g2Ratio : ∀ j, j < N2 → (v.getD 5 []).getD j 0 = ω ^ (2 * N1 * j) % q
  itSeed : ∀ j, j < N2 → (v.getD 6 []).getD j 0 = ninv * ω ^ j % q
  itRatio : ∀ j, j < N2 → (v.getD 7 []).getD j 0 = ω ^ (2 * j) % q
  g1Ratio : ∀ j, j < N1 → (v.getD 8 []).getD j 0 = ω ^ ((2 * j + 1) * N2) % q

/-! ### Fine operations (R196–R199) -/

/-- A fine operation is at its group's head, its word is legal, no operation before it still has to write its tile register,
its unit is there and not stale, its destination has room, and its sources give the vectors `a` and `b`; `s2` is the state
after its pops and `data` tells of a DATA tag. -/
structure FineReady (s : State) (d g opc : Nat) (form : FineForm) (op : Issued) (a b : List Nat) (s2 : State) (data : Bool) : Prop where
  head : s.headFine d g opc = some op
  word : s.fineWordOk d op form = true
  clear : s.fineBarred d g op = false
  fresh : s.fineStale d g op = false
  room : form.dst = true → s.dstReady d op = true
  sources : ∃ s1 da, s.takeSrc d op 0 = .value a s1 da ∧
    (if 2 ≤ form.srcs then ∃ db, s1.takeSrc d op 1 = .value b s2 db ∧ data = (da || db) else b = [] ∧ s2 = s1 ∧ data = da)

/-- The vector that a tile destination holds before the operation. -/
def oldDst (s : State) (d : Nat) (op : Issued) : List Nat :=
  match s.sel d op.fDst with
  | .tile n => s.tileWords d n
  | _ => []

/-- The destination of a fine operation has taken a vector: the queue's youngest entry, or the tile register, now in use. -/
def FineWrote (s t : State) (d : Nat) (op : Issued) (xs : List Nat) (data : Bool) : Prop :=
  match s.sel d op.fDst with
  | .queue q => s.on (R.QCH_QSTAT_RCLOSED d q) = false →
      t.queue d q = s.queue d q ++ [({ bytes := fit 2048 (bytesOf xs), dataT := data } : QEntry)]
  | .tile n => t.tileWords d n = xs.map (· % 2 ^ 32) ∧ t.tileUsed d n = true
  | _ => True

/-- The fine operation has left its group's head and its status word is the last one kept; no job has ended. -/
def FineDone (s t : State) (d g : Nat) (op : Issued) : Prop :=
  ((t.die d).group g).fifo = ((s.die d).group g).fifo.drop 1 ∧
    ((t.die d).group g).hist.getLast? = some (op.ticket, 2 ^ 16 + op.site * 2 ^ 32) ∧
    t.jobs.map (·.phase) = s.jobs.map (·.phase)

/-- The fine operations of Parsley on residues: code, sources, whether the destination is a third operand, command. -/
def fineModRows : List (Nat × Nat × Bool × (DieId → Instr)) :=
  [(0x20, 2, false, .fineVadd), (0x21, 2, false, .fineVsub), (0x22, 1, false, .fineVneg), (0x23, 2, false, .fineVmul),
   (0x24, 2, true, .fineVmac)]

/-- The fine operations of Parsley on OPEN values: code, whether the destination is a third operand, command. -/
def fineOpenRows : List (Nat × Bool × (DieId → Instr)) :=
  [(0x38, false, .fineFadd), (0x39, false, .fineFsub), (0x3A, false, .fineFmul), (0x3B, true, .fineFfma),
   (0x3C, false, .fineFmax), (0x3D, false, .fineFmin)]

/-! ### Places in storage -/

/-- Where byte o of a handle's range lies: the die, whether in its scratchpad, and the key. -/
def State.spot (s : State) (h o : Nat) : Nat × Bool × Nat := ((s.place h o).die, (s.place h o).spad, (s.place h o).key)

/-- The bytes of a range hold no error. -/
def State.clean (s : State) (h o n : Nat) : Prop := ∀ k, k < n → s.errAt (s.place h (o + k)) = 0

/-- The rows and sectors that a write of a range covers only in part hold no error. -/
def State.cutClean (s : State) (h o n : Nat) : Prop := ∀ a ∈ s.edges h o n, s.errAt (s.place h a) = 0

/-- No two bytes of a range lie at one place. -/
def State.spread (s : State) (h o n : Nat) : Prop :=
  ∀ j k, j < n → k < n → s.spot h (o + j) = s.spot h (o + k) → j = k

/-- Every byte of storage of the part outside a range reads in `t` as in `s`. -/
def State.StoredBut (s t : State) (h o n : Nat) : Prop :=
  ∀ p : Place, p.die < 8 → (∀ k, k < n → s.spot h (o + k) ≠ (p.die, p.spad, p.key)) → t.byteAt p = s.byteAt p

/-- The scratchpads and the stacks of every die hold in `t` what they hold in `s`. -/
def State.SameStore (s t : State) : Prop := ∀ x, x < 8 → (t.die x).spad = (s.die x).spad ∧ (t.die x).stack = (s.die x).stack

/-- The instruction of a core, n bytes long, has retired: the pc is past it, rd holds a value, and no job has changed its
phase; `k` is the core as it was when the instruction began. -/
def Retired (s t : State) (d c : Nat) (k : Core) (n rd v : Nat) : Prop :=
  ((t.die d).core c).pc = k.pc + n ∧ (rd ≠ 0 → ((t.die d).core c).reg rd = v) ∧ t.jobs.map (·.phase) = s.jobs.map (·.phase)

/-- The job with a number has ended. -/
def State.ended (s : State) (id : Nat) : Prop := (s.job? id).map (·.phase) = some .ended

/-- R318: where the next entry of a completion ring goes in host memory. -/
def State.complOn (s : State) (c : Nat) : Nat := s.rd (R.CQ_BASE_BASE c) + 32 * s.rd (R.CQ_STATE_TAIL c)

/-- R318: where the completion that a submission ring is owed next goes in host memory. -/
def State.complAt (s : State) (r : Nat) : Nat := s.complOn (s.rd (R.SQ_CFG_CQ r))

/-- R318: the entry that a completion ring was to take next in `s` has been written by `t`, for an entry of ring `r`. -/
def PostedOn (s t : State) (c r tag kind sqHead : Nat) (k : Compl) : Prop :=
  mapBytes t.hostMem (s.complOn c) 32 = complBytes r tag kind sqHead (s.rd (R.CQ_STATE_PHASE c)) k

/-- R318: the completion that a submission ring was owed next in `s` has been written by `t`. -/
def Posted (s t : State) (r tag kind sqHead : Nat) (k : Compl) : Prop := PostedOn s t (s.rd (R.SQ_CFG_CQ r)) r tag kind sqHead k

/-- R384, R400: the request in mailbox channel 0's slot has been answered with a code: the reply stands on channel 1, channel 0
is empty, and a refusal is recorded in SEC_LAST. -/
structure Replied (t : State) (b : List Byte) (code : Nat) : Prop where
  posted : mbxBytes t.mbxSlot 1 = fit 64 (leBytes 4 (leAt b 0 1) ++ slice b 4 4 ++ leBytes 2 code)
  full : bitOf (t.rd R.MBX_STATUS_FULL) 1 = true
  emptied : mbxBytes t.mbxSlot 0 = zeros 64 ∧ bitOf (t.rd R.MBX_STATUS_FULL) 0 = false
  noted : code ≠ 0 → t.rd R.SEC_LAST_CODE = code ∧ t.rd R.SEC_LAST_SOURCE = 2 ∧ t.rd R.SEC_LAST_TAG = leAt b 4 4

/-- A request to the security processor left everything but the mailbox, the messages and the registers alone. -/
def OnlyReplied (s t : State) : Prop :=
  t = { s with regs := t.regs, mbxSlot := t.mbxSlot, msix := t.msix, irqs := t.irqs, hostMem := t.hostMem,
               hubEvWindow := t.hubEvWindow, hubEvCount := t.hubEvCount }

end Sys2Proof.Machine
end

