-- ==== Sys2Proof/Certificates/Slice0/Obligations.lean ====
section
/-! DEFINITION. The statements for the provers. -/

open Sys2Proof Sys2Proof.Machine

/-! ### The queue of commands -/

/-- A step takes the command at the front of the queue and runs `exec` on the queue's rest; on an empty queue one
nanosecond of time passes, with what that brings (`State.tick`, log 7). -/
def Obligations.StepRunsFront : Prop :=
  (∀ (c : Instr) (q : List Instr) (s : State), step { s with pending := c :: q } = exec c { s with pending := q }) ∧
    ∀ s : State, s.pending = [] → step s = .next s.tick

/-! ### The host interface (R308–R325) -/

/-- A tail has been taken (R315, R317): it is the ring's tail, no other register has moved, and each entry that it adds has
the present time as its doorbell time. -/
def Sys2Proof.Claims.TailTaken (s t : State) (r tail : Nat) : Prop :=
  t.rd (R.SQ_STATE_TAIL r) = tail ∧ (∀ f, f.key ≠ (R.SQ_STATE_TAIL r).key → t.rd f = s.rd f) ∧
    mapGet [] t.sqTimes r = mapGet [] s.sqTimes r ++ List.replicate ((tail + s.sqSize r - s.rd (R.SQ_STATE_HEAD r)) % s.sqSize r -
      (s.rd (R.SQ_STATE_TAIL r) + s.sqSize r - s.rd (R.SQ_STATE_HEAD r)) % s.sqSize r) s.time ∧
    ∀ k, k ≠ r → mapGet [] t.sqTimes k = mapGet [] s.sqTimes k

/-- R315, R316, R317: a tail that the rules accept becomes the ring's tail, by a doorbell or by a shadow tail read; the
entries that it adds get the present time as their doorbell time, and no other register moves. A doorbell accepted while POLL
is 0 on an enabled ring that has a shadow writes POLL = 1 to the shadow in host memory; any other leaves host memory as it
is. A tail that the rules do not accept raises RANGE and nothing else. -/
def Sys2Proof.Claims.TailAccepted : Prop :=
  ∀ (s : State) (r : Fin 64), s.hostUp = true → mapWf (0 : Byte) s.hostMem = true → mapWf [] s.sqTimes = true →
    (∀ tail : Word32, s.tailOk r tail.toNat = true →
      Completes (.sqDoorbell r tail) s fun t =>
        Claims.TailTaken s t r tail.toNat ∧
        (if bitOf s.poll r = false ∧ s.on (R.SQ_CFG_EN r) = true ∧ s.rd (R.SQ_SHADOW_ADDR r) ≠ 0 then
          bitOf t.poll r = true ∧ mapBytes t.hostMem (s.rd (R.SQ_SHADOW_ADDR r) + 8) 8 = leBytes 8 1
        else t.poll = s.poll ∧ t.hostMem = s.hostMem) ∧
        t = { s with regs := t.regs, sqTimes := t.sqTimes, shadowSeen := t.shadowSeen, hostMem := t.hostMem, poll := t.poll }) ∧
    (∀ tail : Word32, s.tailOk r tail.toNat = false →
      exec (.sqDoorbell r tail) s = .next (s.raiseRange 8 Unit.HOST)) ∧
    (∀ tail : BitVec 16, bitOf s.poll r = true → s.on (R.SQ_CFG_EN r) = true →
      (s.tailOk r tail.toNat = true →
        Completes (.shadowPoll r tail) s fun t =>
          Claims.TailTaken s t r tail.toNat ∧
          t = { s with regs := t.regs, sqTimes := t.sqTimes, shadowSeen := t.shadowSeen }) ∧
      (tail.toNat ≠ s.rd (R.SQ_STATE_TAIL r) → s.tailOk r tail.toNat = false →
        exec (.shadowPoll r tail) s = .next (s.raiseRange 8 Unit.HOST)))

/-- R315: a head that lies between the old head and the tail becomes the head of a completion ring or of the event ring,
and nothing else changes; any other head raises RANGE and nothing else. -/
def Sys2Proof.Claims.HeadAccepted : Prop :=
  ∀ s : State, s.hostUp = true →
    (∀ (c : Fin 64) (head : Word32),
      (headOk (s.cqSize c) (s.rd (R.CQ_STATE_HEAD c)) (s.rd (R.CQ_STATE_TAIL c)) head.toNat = true →
        Completes (.cqDoorbell c head) s fun t =>
          t.rd (R.CQ_STATE_HEAD c) = head.toNat ∧ (∀ f, f.key ≠ (R.CQ_STATE_HEAD c).key → t.rd f = s.rd f) ∧
          t = { s with regs := t.regs }) ∧
      (headOk (s.cqSize c) (s.rd (R.CQ_STATE_HEAD c)) (s.rd (R.CQ_STATE_TAIL c)) head.toNat = false →
        exec (.cqDoorbell c head) s = .next (s.raiseRange 8 Unit.HOST))) ∧
    ∀ head : Word32,
      (headOk (2 ^ s.rd R.HIF_EQ_CFG_LOG2SZ) (s.rd R.HIF_EQ_STATE_HEAD) (s.rd R.HIF_EQ_STATE_TAIL) head.toNat = true →
        Completes (.eqDoorbell head) s fun t =>
          t.rd R.HIF_EQ_STATE_HEAD = head.toNat ∧ (∀ f, f.key ≠ R.HIF_EQ_STATE_HEAD.key → t.rd f = s.rd f) ∧
          t = { s with regs := t.regs }) ∧
      (headOk (2 ^ s.rd R.HIF_EQ_CFG_LOG2SZ) (s.rd R.HIF_EQ_STATE_HEAD) (s.rd R.HIF_EQ_STATE_TAIL) head.toNat = false →
        exec (.eqDoorbell head) s = .next (s.raiseRange 8 Unit.HOST))

/-- R316, R321: 50 µs after the last new entry a polled ring's POLL is cleared, in the part and in the ring's shadow in
host memory, and the shadow tail read once more is taken where it adds entries; COAL_US after the first entry not signalled the completion ring's message is sent, or left pending while its
vector is masked, and nothing is left unsignalled. -/
def Sys2Proof.Claims.RingTimers : Prop :=
  (∀ (s : State) (r : Fin 64) (tail : BitVec 16), s.hostUp = true → bitOf s.poll r = true → s.on (R.SQ_CFG_EN r) = true →
    mapGet 0 s.shadowSeen r + 50000 ≤ s.time → s.rd (R.SQ_SHADOW_ADDR r) ≠ 0 → mapWf (0 : Byte) s.hostMem = true →
    mapWf [] s.sqTimes = true → tail.toNat = s.rd (R.SQ_STATE_TAIL r) ∨ s.tailOk r tail.toNat = true →
    Completes (.shadowPollIdle r tail) s fun t =>
      bitOf t.poll r = false ∧ mapBytes t.hostMem (s.rd (R.SQ_SHADOW_ADDR r) + 8) 8 = zeros 8 ∧
      Claims.TailTaken s t r tail.toNat ∧ (tail.toNat = s.rd (R.SQ_STATE_TAIL r) → t.regs = s.regs) ∧
      t = { s with regs := t.regs, sqTimes := t.sqTimes, shadowSeen := t.shadowSeen, hostMem := t.hostMem, poll := t.poll }) ∧
  ∀ (s : State) (c : Fin 64) (n t0 : Nat), mapFind s.coal c.val = some (n, t0) → mapRises 0 s.coal = true →
    t0 + s.rd (R.CQ_CFG_COAL_US c) * 1000 ≤ s.time →
    let v := s.rd (R.CQ_CFG_VEC c)
    Completes (.coalesceTimer c) s fun t =>
      mapFind t.coal c.val = none ∧
      (s.on (R.MSIX_CTL_MASK v) = false → t.msix = s.msix ++ [v] ∧ t.regs = s.regs) ∧
      (s.on (R.MSIX_CTL_MASK v) = true → t.msix = s.msix ∧ bitOf (t.rd (R.MSIX_PBA_PEND (v / 64))) (v % 64) = true) ∧
      t = { s with coal := t.coal, msix := t.msix, regs := t.regs }

/-- R315, R316, R321: doorbells, shadow tails, heads and the two ring timers. -/
def Obligations.RingsServed : Prop := Claims.TailAccepted ∧ Claims.HeadAccepted ∧ Claims.RingTimers

/-- R308, R256: an aperture read of a bound window within a HOST handle whose words hold no error, on stacks that serve
accesses, returns the stored bytes and changes nothing but the answer; a read that R308 does not allow is answered
Unsupported Request, which the function's AER status records (R306), and a write that it does not allow is dropped with
RANGE. (The errors that strike with a command have struck before it reads.) -/
def Sys2Proof.Claims.ApertureReads : Prop :=
  ∀ (s0 : State) (ups : List Upset) (w : Fin 64) (off : BitVec 30),
    let s := s0.plant ups
    s.hostUp = true →
    (∀ (len : Fin 513) (h o : Nat), s.apertureAt w off.toNat len = some (h, o) → s.accessWaits h o len = false →
      (∀ k, k < len.val → s.errAt (s.place h (o + k)) = 0) →
      exec (.apertureRead w off len ups) s0 = .next { s with answer := .data (s.peek h o len) }) ∧
    (∀ len : Fin 513, s.apertureAt w off.toNat len = none →
      exec (.apertureRead w off len ups) s0 = .next { s with answer := .unsupported, pcie := { s.pcie with ur := true } }) ∧
    ∀ data : List Byte, s.apertureAt w off.toNat data.length = none →
      exec (.apertureWrite w off data ups) s0 = .next (s.raiseRange 8 Unit.HOST)

/-- R308, R255, R293: an aperture write that R308 allows, on stacks that serve accesses and with no error in a row or sector
that it covers only in part, stores its bytes at the handle's range: each byte of the write reads as given (where the range
does not fold two of them on one place), and every byte of storage outside the written places reads as before. A write that
covers only in part a row or sector that cannot be corrected leaves the scratchpads and the stacks as they are. -/
def Sys2Proof.Claims.ApertureWrites : Prop :=
  ∀ (s0 : State) (ups : List Upset) (w : Fin 64) (off : BitVec 30) (data : List Byte) (h o : Nat),
    let s := s0.plant ups
    s.hostUp = true → s.memWf = true →
    s.apertureAt w off.toNat data.length = some (h, o) → s.accessWaits h o data.length = false →
    (s.narrowUe h o data.length = true → Completes (.apertureWrite w off data ups) s0 fun t => s.SameStore t) ∧
    (s.cutClean h o data.length → Completes (.apertureWrite w off data ups) s0 fun t =>
      (∀ f, t.rd f = s.rd f) ∧
      (∀ p : Place, p.die < 8 →
        (∀ k, k < data.length → ¬ ((s.place h (o + k)).die = p.die ∧ (s.place h (o + k)).spad = p.spad ∧
          (s.place h (o + k)).key = p.key)) → t.byteAt p = s.byteAt p) ∧
      ((∀ j k, j < data.length → k < data.length → (s.place h (o + j)).die = (s.place h (o + k)).die →
          (s.place h (o + j)).key = (s.place h (o + k)).key → j = k) →
        ∀ k, k < data.length → t.byteAt (s.place h (o + k)) = data.getD k 0) ∧
      t = { s with dies := t.dies })

/-- R256, R308: reads and writes of the aperture. -/
def Obligations.ApertureServed : Prop := Claims.ApertureReads ∧ Claims.ApertureWrites

/-- R313, R314, R244, R246: a BUFFER CREATE entry read in its turn that asks for an allowed buffer, with an index free and
room in its space, makes the handle's entry valid and bound with the length, location and attributes asked, at a range
that meets no other, and posts a completion whose RESULT is the handle. That a length is above zero is the model's choice
(log 5). -/
def Sys2Proof.Claims.BufferCreated : Prop :=
  ∀ (s : State) (r : Fin 64) (entry : List Byte) (i b : Nat), s.hostUp = true → s.mayRead r 1 = true →
    let s1 := (s.readEntry r entry).1
    let e := (s.readEntry r entry).2
    let d := bits (e.q 0x10) 0 3
    let loc := bits (e.q 0x10) 4 2
    s1.createOk e = true → s1.freeIndex d = some i → s1.placeRange loc d (e.q 0x18) = some b →
    mapWf (0 : Byte) s.hostMem = true →
    Completes (.bufferCreate r entry) s fun t =>
      t.on (R.SPAD_HTAB0_V d i) = true ∧ t.on (R.SPAD_HTAB0_BOUND d i) = true ∧ t.rd (R.SPAD_HTAB0_LOC d i) = loc ∧
      t.rd (R.SPAD_HTAB0_ATTR d i) = bits (e.q 0x10) 16 12 ∧ t.rd (R.SPAD_HTAB1_LENGTH d i) = e.q 0x18 ∧
      t.rd (R.SPAD_HTAB2_SBASE d i) = b % 2 ^ 40 ∧ t.rd (R.SQ_STATE_HEAD r) = e.sqHead ∧
      mapBytes t.hostMem (s.rd (R.CQ_BASE_BASE (s.rd (R.SQ_CFG_CQ r))) + 32 * s.rd (R.CQ_STATE_TAIL (s.rd (R.SQ_CFG_CQ r)))) 32 =
        complBytes r e.tag e.kind e.sqHead (s.rd (R.CQ_STATE_PHASE (s.rd (R.SQ_CFG_CQ r)))) { result := d * 256 + i } ∧
      (∀ q ∈ s.ranges loc d, b + e.q 0x18 ≤ q.1 ∨ q.1 + q.2 ≤ b) ∧
      t.dies = s.dies

/-- R246, R313: a BUFFER FREE entry read in its turn frees a host buffer that no admitted job names: its entry is not
valid any more, and the bytes of its range, where it was bound, are zero; every other byte of storage is as before. -/
def Sys2Proof.Claims.BufferFreed : Prop :=
  ∀ (s : State) (r : Fin 64) (entry : List Byte), s.hostUp = true → s.mayRead r 1 = true →
    let s1 := (s.readEntry r entry).1
    let e := (s.readEntry r entry).2
    let h := bits (e.q 0x10) 0 16
    s1.freeOk e = true → s.memWf = true →
    Completes (.bufferFree r entry) s fun t =>
      t.on (R.SPAD_HTAB0_V (hDie h) (hIdx h)) = false ∧ t.handleOk h = false ∧
      ∀ p : Place, p.die < 8 → t.byteAt p =
        if s.hBound h = true ∧ p.spad = s.hSpad h ∧ s.covers h p.die p.spad (p.key / (if p.spad then 128 else 64)) = true then 0
        else s.byteAt p

/-- R262, R313, R352: a BUFFER WRITE of an allowed range of a handle that admits it, with no error in a row that it covers
only in part, puts its bytes in storage (where the range does not fold two of them on one place) and leaves every other byte as
it is, clears the handle's lineage binding, and clears TORN when it covers the whole range; a BUFFER READ of an error-free
allowed range puts the stored bytes at the host address and changes no storage. -/
def Sys2Proof.Claims.BufferMoved : Prop :=
  ∀ (s0 : State) (ups : List Upset) (r : Fin 64) (entry : List Byte) (h o n : Nat),
    let s := s0.plant ups
    s.hostUp = true → s.mayRead r 1 = true → s.memWf = true →
    let s1 := (s.readEntry r entry).1
    let e := (s.readEntry r entry).2
    (∀ data : List Byte, s1.bufferRange e 2 = some (h, o, n) → s1.writeForbidden h = false → s.cutClean h o n →
      Completes (.bufferWrite r entry data ups) s0 fun t =>
        t.on (R.SAGE_BIND_V (hDie h) (hIdx h)) = false ∧ (o = 0 → n = s.hLen h → t.hTorn h = false) ∧
        t.rd (R.SQ_STATE_HEAD r) = e.sqHead ∧ (s.spread h o n → ∀ k, k < n → t.byteAt (s.place h (o + k)) = (fit n data).getD k 0) ∧
        (∀ p : Place, p.die < 8 →
          (∀ k, k < n → ¬ ((s.place h (o + k)).die = p.die ∧ (s.place h (o + k)).spad = p.spad ∧
            (s.place h (o + k)).key = p.key)) → t.byteAt p = s.byteAt p)) ∧
    (s1.bufferRange e 3 = some (h, o, n) → s1.readForbidden h = false →
      (∀ k, k < n → s.errAt (s.place h (o + k)) = 0) →
      let c := s.rd (R.SQ_CFG_CQ r)
      let a := s.rd (R.CQ_BASE_BASE c) + 32 * s.rd (R.CQ_STATE_TAIL c)
      (e.q 0x20 + n ≤ a ∨ a + 32 ≤ e.q 0x20) →
      Completes (.bufferRead r entry ups) s0 fun t =>
        mapBytes t.hostMem (e.q 0x20) n = s.peek h o n ∧ t.rd (R.SQ_STATE_HEAD r) = e.sqHead ∧ t.dies = s.dies)

/-- R244, R246, R262, R313, R314, R352: the four BUFFER commands. -/
def Obligations.BuffersServed : Prop := Claims.BufferCreated ∧ Claims.BufferFreed ∧ Claims.BufferMoved

/-- R324: an end of a mailbox channel has been told: a host end by the channel's vector, sent or left pending while it is
masked, an on-die end by its mailbox interrupt. -/
def Sys2Proof.Claims.EndTold (s t : State) (m mid : Nat) : Prop :=
  let v := s.rd (R.MBX_BIND_VEC m)
  if isHostMid mid = true then
    t.irqs = s.irqs ∧ (if s.on (R.MSIX_CTL_MASK v) = true then t.msix = s.msix ∧ bitOf (t.rd (R.MSIX_PBA_PEND (v / 64))) (v % 64) = true
      else t.msix = s.msix ++ [v])
  else t.msix = s.msix ∧ t.irqs = s.irqs ++ [mid]

/-- R324: the sender's SEND into an empty slot puts the staged message there, sets the channel's doorbell bit and FULL,
leaves the staging buffer, and tells the receiver unless its mask bit is set; the receiver's clearing of its bit empties the
slot and tells the sender. Of the registers, only those of the mailbox block and the pending-bit array may change. -/
def Obligations.MailboxDelivers : Prop :=
  ∀ (s : State) (mid : BitVec 12) (m : Fin 32), (isHostMid mid.toNat = true → s.hostUp = true) → s.mbxLive m = true →
    s.memWf = true →
    (mid.toNat = s.rd (R.MBX_BIND_SENDER m) → bitOf (s.rd R.MBX_STATUS_FULL) m = false →
      Completes (.mbxSend mid m) s fun t =>
        mbxBytes t.mbxSlot m = mbxBytes s.mbxStage m ∧ bitOf (t.rd R.MBX_STATUS_FULL) m = true ∧
        bitOf (t.rd R.MBX_DB_DB) m = true ∧ t.mbxStage = s.mbxStage ∧
        (∀ k, k < 32 → k ≠ m.val → mbxBytes t.mbxSlot k = mbxBytes s.mbxSlot k) ∧
        (bitOf (s.rd R.MBX_MASK_MASK) m = true → t.msix = s.msix ∧ t.irqs = s.irqs) ∧
        (bitOf (s.rd R.MBX_MASK_MASK) m = false → Claims.EndTold s t m (s.rd (R.MBX_BIND_RECEIVER m))) ∧
        s.RegsKept t [0x20108, 0x20118, 0x31000, 0x31008, 0x31010, 0x31018] ∧
        t = { s with regs := t.regs, mbxSlot := t.mbxSlot, msix := t.msix, irqs := t.irqs }) ∧
    (mid.toNat = s.rd (R.MBX_BIND_RECEIVER m) → bitOf (s.rd R.MBX_DB_DB) m = true →
      Completes (.mbxDbClear mid m) s fun t =>
        mbxBytes t.mbxSlot m = zeros 64 ∧ bitOf (t.rd R.MBX_STATUS_FULL) m = false ∧ bitOf (t.rd R.MBX_DB_DB) m = false ∧
        t.mbxStage = s.mbxStage ∧ Claims.EndTold s t m (s.rd (R.MBX_BIND_SENDER m)) ∧
        s.RegsKept t [0x20108, 0x20118, 0x31000, 0x31008, 0x31010, 0x31018] ∧
        t = { s with regs := t.regs, mbxSlot := t.mbxSlot, msix := t.msix, irqs := t.irqs })

/-- R325: a SEND while the slot is full leaves the slot and the staging buffer unchanged, sets REFUSED for the channel and
raises RANGE. Of an emptying write and a SEND the emptying comes first and the SEND is then accepted. A write to the staging
buffer never changes the held message. RESET_N empties every channel, and a function level reset those with a host MID at
either end (R309). -/
def Obligations.MailboxFull : Prop :=
  ∀ (s : State) (m : Fin 32), s.memWf = true →
    (∀ mid : BitVec 12, (isHostMid mid.toNat = true → s.hostUp = true) → s.mbxLive m = true →
      mid.toNat = s.rd (R.MBX_BIND_SENDER m) → bitOf (s.rd R.MBX_STATUS_FULL) m = true →
      Completes (.mbxSend mid m) s fun t =>
        t.mbxSlot = s.mbxSlot ∧ t.mbxStage = s.mbxStage ∧ bitOf (t.rd R.MBX_STATUS_REFUSED) m = true ∧
        t.rd R.EVT_LAST_CODE = Ev.RANGE ∧ t.rd R.EVT_LAST_SRC = 8) ∧
    (∀ rcv snd : BitVec 12, s.hostUp = true → s.mbxLive m = true → rcv.toNat = s.rd (R.MBX_BIND_RECEIVER m) →
      snd.toNat = s.rd (R.MBX_BIND_SENDER m) → bitOf (s.rd R.MBX_DB_DB) m = true →
      Completes (.mbxDbClear rcv m) s fun t => mbxBytes t.mbxSlot m = zeros 64 ∧ bitOf (t.rd R.MBX_STATUS_FULL) m = false ∧
        Completes (.mbxSend snd m) t fun u => mbxBytes u.mbxSlot m = mbxBytes s.mbxStage m ∧ bitOf (u.rd R.MBX_STATUS_FULL) m = true) ∧
    (∀ (mid : BitVec 12) (o : Nat) (v : Word64), o < 64 → ∀ n ∈ [4, 8],
      Completes (.regWrite mid (BitVec.ofNat 26 (0x21000 + 0x80 * m.val + o)) n v) s fun t =>
        t.mbxSlot = s.mbxSlot ∧ t.rd R.MBX_STATUS_FULL = s.rd R.MBX_STATUS_FULL) ∧
    (s.power.pwrgood = true → s.power.on = true →
      Completes .resetNAssert s fun t => t.mbxSlot = [] ∧ t.mbxStage = [] ∧ t.rd R.MBX_STATUS_FULL = 0) ∧
    (s.power.on = true → isHostMid (s.rd (R.MBX_BIND_SENDER m)) = true ∨ isHostMid (s.rd (R.MBX_BIND_RECEIVER m)) = true →
      Completes .functionLevelReset s fun t =>
        mbxBytes t.mbxSlot m = zeros 64 ∧ mbxBytes t.mbxStage m = zeros 64 ∧ bitOf (t.rd R.MBX_STATUS_FULL) m = false)

/-- R309, R444, R428: a function level reset, a hot reset and the loss of the link have one and the same effect: every
register of the host interface block and of the MSI-X block but HIF_CFG stands at its reset value, the rings' queues of
doorbell times are empty and no job is admitted any more. That HIF_CFG is enabled again at once is
the model's choice (log 79). -/
def Obligations.HostResets : Prop :=
  ∀ s : State, s.power.on = true →
    exec .hotReset s = exec .functionLevelReset s ∧ exec .linkDown s = exec .functionLevelReset s ∧
    Completes .functionLevelReset s fun t =>
      (∀ f : Fld, hostBlock (f.key / 64) = true → f.key / 64 ≠ 0x10008 → t.rd f = ({ t with regs := [] } : State).rd f) ∧
      t.sqTimes = [] ∧ t.coal = [] ∧ t.poll = 0 ∧ ((s.jobs.map (·.id)).Nodup → t.jobs.any Job.live = false)

/-! ### Replay and register writes (R460–R474) -/

/-- R463, R464: a write to RPL_ARM with EN that names a captured job arms it; one that names no capture sets NOTFOUND and
leaves EN clear; one without EN disarms. Nothing outside RPL_ARM and RPL_STATUS changes. -/
def Sys2Proof.Claims.ReplayArmed : Prop :=
  ∀ (s : State) (mid : BitVec 12) (v : Word64), s.power.on = true → (isHostMid mid.toNat = true → s.hostUp = true) →
    replayMid mid.toNat = true →
    Completes (.rplArmWrite mid v) s fun t =>
      t.rd R.RPL_ARM_JOBID = bits v.toNat 0 48 ∧
      ((t.on R.RPL_ARM_EN = true ↔ bitOf v.toNat 63 = true ∧ ∃ c ∈ s.captures, c.job = bits v.toNat 0 48)) ∧
      t.on R.RPL_STATUS_ARMED = t.on R.RPL_ARM_EN ∧
      (bitOf v.toNat 63 = true → t.on R.RPL_STATUS_NOTFOUND = !t.on R.RPL_ARM_EN) ∧
      s.RegsKept t [0x40088, 0x40090] ∧ t = { s with regs := t.regs }

/-- R460, R474: a write to RPL_CFG while it is not locked, no job is admitted and the new reserve leaves the first 1 GiB and
every LOC 3 range alone sets CAPTURE, RESERVE_GIB and LOCK, and what the reserve then holds fits it unless a capture must
stay; the captures kept are captures held before. A locked RPL_CFG keeps everything. -/
def Sys2Proof.Claims.ReplayConfigured : Prop :=
  ∀ (s : State) (mid : BitVec 12) (v : Word64), s.power.on = true → (isHostMid mid.toNat = true → s.hostUp = true) →
    replayMid mid.toNat = true →
    (s.on R.RPL_CFG_LOCK = true → exec (.rplCfgWrite mid v) s = .next s) ∧
    (s.on R.RPL_CFG_LOCK = false → s.jobs.any Job.live = false → s.reserveFits (bits v.toNat 16 10) = true →
      Completes (.rplCfgWrite mid v) s fun t =>
        t.rd R.RPL_CFG_CAPTURE = bits v.toNat 0 1 ∧ t.rd R.RPL_CFG_RESERVE_GIB = bits v.toNat 16 10 ∧
        t.on R.RPL_CFG_LOCK = bitOf v.toNat 63 ∧ t.captures.Sublist s.captures ∧
        (sumN (t.captures.map (·.size)) ≤ t.reserveBytes ∨ ∀ c ∈ t.captures, s.pinned c = true) ∧
        t.rd R.RPL_USED_CAPTURES = t.captures.length % 2 ^ 32 ∧ s.RegsKept t [0x40080, 0x40098] ∧
        t = { s with regs := t.regs, captures := t.captures })

/-- R460, R472, R464: a write to RPL_CFG that R460 refuses, and a write to either replay register from a MID that may not
write it, raises RANGE and changes nothing else. -/
def Sys2Proof.Claims.ReplayRefused : Prop :=
  ∀ (s : State) (mid : BitVec 12) (v : Word64), s.power.on = true → (isHostMid mid.toNat = true → s.hostUp = true) →
    (replayMid mid.toNat = false →
      exec (.rplArmWrite mid v) s = .next (s.raiseRange 8 Unit.NONE) ∧
      exec (.rplCfgWrite mid v) s = .next (s.raiseRange 8 Unit.NONE)) ∧
    (replayMid mid.toNat = true → s.on R.RPL_CFG_LOCK = false →
      (s.jobs.any Job.live = true ∨ s.reserveFits (bits v.toNat 16 10) = false) →
      exec (.rplCfgWrite mid v) s = .next (s.raiseRange 8 Unit.NONE))

/-- R460, R463, R464, R472, R474: the two replay registers. -/
def Obligations.ReplayControlled : Prop := Claims.ReplayArmed ∧ Claims.ReplayConfigured ∧ Claims.ReplayRefused

/-- R472, R13: REG_WRITE. A management core's 8-byte write to an aperture window's register sets its three fields and no
other register; from the host likewise; a write from any MID that R472 does not list for that register is ignored and
raises RANGE. -/
def Sys2Proof.Claims.RegisterWritten : Prop :=
  ∀ (s : State) (mid : BitVec 12) (w : Fin 64) (v : Word64), s.power.on = true → (isHostMid mid.toNat = true → s.hostUp = true) →
    let a : BitVec 26 := BitVec.ofNat 26 (0x13000 + 8 * w.val)
    (mid.toNat = 0x100 ∨ mid.toNat = 2 ∨ mid.toNat = 3 →
      Completes (.regWrite mid a 8 v) s fun t =>
        t.rd (R.HIF_APWIN_HANDLE w) = bits v.toNat 0 16 ∧ t.rd (R.HIF_APWIN_EN w) = bits v.toNat 16 1 ∧
        t.rd (R.HIF_APWIN_OFF_2M w) = bits v.toNat 32 16 ∧ s.RegsKept t [0x13000 + 8 * w.val] ∧ t = { s with regs := t.regs }) ∧
    (mid.toNat ≠ 0x100 → mid.toNat ≠ 2 → mid.toNat ≠ 3 →
      exec (.regWrite mid a 8 v) s = .next (s.raiseRange 8 Unit.NONE))

/-- R474: a write by the security processor to SPAD_RTMO of a present die holds the larger of 10 and the value while
SPAD_CFG.LOCK is clear, and is ignored without an event once it is set. -/
def Sys2Proof.Claims.LockHolds : Prop :=
  ∀ (s : State) (d : DieId) (v : Word32), s.power.on = true → s.present d = true →
    let a : BitVec 26 := BitVec.ofNat 26 (cdBase d + 0x90030)
    let w : Word64 := v.setWidth 64
    (s.on (R.SPAD_CFG_LOCK d) = false →
      Completes (.regWrite 1 a 4 w) s fun t =>
        t.rd (R.SPAD_RTMO_LIMIT_US d) = (if v.toNat = s.rd (R.SPAD_RTMO_LIMIT_US d) then v.toNat else max 10 v.toNat) ∧
        s.RegsKept t [cdBase d + 0x90030] ∧ t = { s with regs := t.regs }) ∧
    (s.on (R.SPAD_CFG_LOCK d) = true →
      Completes (.regWrite 1 a 4 w) s fun t => (∀ f, t.rd f = s.rd f) ∧ t = { s with regs := t.regs })

/-- R13, R472, R474: register writes, who may make them, and locks. -/
def Obligations.RegistersWritten : Prop := Claims.RegisterWritten ∧ Claims.LockHolds

/-! ### Scratchpad power and the test window (R258, R260, R261) -/

/-- R260, R261: a management core's write to SPAD_PWR leaves each bank in the power state asked, unless an admitted job's
handle spans a bank that was to go down; a bank that comes up is being scrubbed and every valid handle over it is STALE; a
bank that goes down reads zero. -/
def Sys2Proof.Claims.BanksPowered : Prop :=
  ∀ (s : State) (mid : BitVec 12) (d : DieId) (v : Word64), s.present d = true → mid.toNat = 2 ∨ mid.toNat = 3 →
    Completes (.spadPwrWrite mid d v) s fun t =>
      ∀ b : Fin 64,
        (bitOf v.toNat b = true → bitOf (t.rd (R.SPAD_PWR_ON d)) b = true) ∧
        (bitOf v.toNat b = false → s.bankNamed d b = false →
          bitOf (t.rd (R.SPAD_PWR_ON d)) b = false ∧
          (bitOf (s.rd (R.SPAD_PWR_ON d)) b = true →
            ∀ k, k / (65536 * 128) = b.val → mapGet 0 (t.die d).spad k = 0)) ∧
        (bitOf v.toNat b = true → bitOf (s.rd (R.SPAD_PWR_ON d)) b = false →
          bitOf (t.die d).scrubbing b = true ∧ t.on (R.SPAD_STATUS_SCRUB_BUSY d) = true ∧
          ∀ h ∈ s.spanning d b, t.hStale h = true)

/-- R260: when a bank's scrub ends the bank reads zero, its scrub is over, and the other banks keep their bytes. -/
def Sys2Proof.Claims.ScrubEnds : Prop :=
  ∀ (s : State) (d : DieId) (bank : Fin 64), bitOf (s.die d).scrubbing bank = true →
    Completes (.bankScrubDone d bank) s fun t =>
      bitOf (t.die d).scrubbing bank = false ∧
      (∀ k, mapGet 0 (t.die d).spad k = if k / (65536 * 128) = bank.val then 0 else mapGet 0 (s.die d).spad k) ∧
      (t.on (R.SPAD_STATUS_SCRUB_BUSY d) = true → s.on (R.SPAD_STATUS_SCRUB_BUSY d) = true) ∧
      s.RegsKept t [(R.SPAD_STATUS_SCRUB_BUSY d).addr]

/-- R260, R261: the power of scratchpad banks, and their scrubs. -/
def Obligations.BanksScrubbed : Prop := Claims.BanksPowered ∧ Claims.ScrubEnds

/-- R258: on a powered bank that no bound entry covers, a request of the security processor or the debug port completes:
RAW_WR stores the data register in the row and marks the bank dirty; RAW_RD brings an error-free row's bytes into the data
register; DEC_RD of an error-free row does so too and counts nothing. -/
def Sys2Proof.Claims.TestWindow : Prop :=
  ∀ (s : State) (mid : BitVec 12) (d : DieId) (bank : Fin 64) (row : BitVec 16), s.twinOk mid.toNat d bank = true →
    s.memWf = true →
    let unit := bank.val * 65536 + row.toNat
    Completes (.rawWr mid d bank row) s (fun t =>
      t.on (R.SPAD_TWIN_CTL_DONE d) = true ∧ t.on (R.SPAD_TWIN_CTL_REFUSED d) = false ∧
      mapBytes (t.die d).spad (unit * 128) 128 = s.twinData d ∧ bitOf (t.die d).dirty bank = true ∧
      (∀ k, k / 128 ≠ unit → mapGet 0 (t.die d).spad k = mapGet 0 (s.die d).spad k) ∧
      s.RegsKept t [(R.SPAD_TWIN_CTL_OP d).addr]) ∧
    (mapGet 0 (s.die d).spadErr unit = 0 →
      Completes (.rawRd mid d bank row) s fun t =>
        t.on (R.SPAD_TWIN_CTL_DONE d) = true ∧ t.twinData d = mapBytes (s.die d).spad (unit * 128) 128 ∧
        t.dies = s.dies) ∧
    (s.errAt ⟨d, true, unit, unit * 128⟩ = 0 →
      Completes (.decRd mid d bank row) s fun t =>
        t.on (R.SPAD_TWIN_CTL_DONE d) = true ∧ t.twinData d = mapBytes (s.die d).spad (unit * 128) 128 ∧
        t.rd (R.SPAD_CE_COUNT_COUNT d) = s.rd (R.SPAD_CE_COUNT_COUNT d) ∧
        t.rd (R.SPAD_UE_COUNT_COUNT d) = s.rd (R.SPAD_UE_COUNT_COUNT d) ∧ t.dies = s.dies)

/-- R258: a request on a bank that R258 does not allow, from a MID that may make one, sets REFUSED and does nothing. -/
def Sys2Proof.Claims.TestWindowRefused : Prop :=
  ∀ (s : State) (mid : BitVec 12) (d : DieId) (bank : Fin 64) (row : BitVec 16), s.twinOk mid.toNat d bank = false →
    mid.toNat = 1 ∨ mid.toNat = 0x200 →
    ∀ i ∈ [Instr.rawRd mid d bank row, Instr.rawWr mid d bank row, Instr.decRd mid d bank row],
      Completes i s fun t =>
        t.on (R.SPAD_TWIN_CTL_REFUSED d) = true ∧ s.RegsKept t [(R.SPAD_TWIN_CTL_OP d).addr] ∧ t = { s with regs := t.regs }

/-- R258: the scratchpad's test window. -/
def Obligations.TestWindowServed : Prop := Claims.TestWindow ∧ Claims.TestWindowRefused

/-! ### Stacked memory (R293–R301) -/

/-- R293, R294, R296: with one bad sector, on an in-service channel of a stack that serves accesses, the patrol scrub corrects a correctable one,
advances MEM_CE_COUNT and leaves an uncorrectable one, advancing MEM_UE_COUNT; it never changes a byte. The memory dies'
reports add to MEM_ODECC and change nothing else. -/
def Sys2Proof.Claims.PatrolAndReports : Prop :=
  (∀ (s0 : State) (ups : List Upset) (d : DieId) (u e : Nat),
    let s := s0.plant ups
    s.inServ d = true → (s.die d).stackErr = [(u, e)] →
    bitOf (s.rd (R.MEM_CHMAP_INSERV d)) (u / 2 ^ 26) = true → s.stackShut d (u / 2 ^ 26 / 16) = false →
    Completes (.patrolScrub d ups) s0 fun t =>
      (t.die d).stack = (s.die d).stack ∧ (t.die d).spad = (s.die d).spad ∧
      (e = 1 → (t.die d).stackErr = [] ∧
        t.rd (R.MEM_CE_COUNT_COUNT d) = (s.rd (R.MEM_CE_COUNT_COUNT d) + 1) % 2 ^ 64 ∧
        t.rd (R.MEM_UE_COUNT_COUNT d) = s.rd (R.MEM_UE_COUNT_COUNT d)) ∧
      (2 ≤ e → (t.die d).stackErr = [(u, e)] ∧
        t.rd (R.MEM_UE_COUNT_COUNT d) = (s.rd (R.MEM_UE_COUNT_COUNT d) + 1) % 2 ^ 64 ∧
        t.rd (R.MEM_LAST_ERR_MID d) = 0)) ∧
  ∀ (s : State) (d : DieId) (counts : List Nat), s.inServ d = true →
    Completes (.odeccPoll d counts) s fun t =>
      t.rd (R.MEM_ODECC_COUNT d) = (s.rd (R.MEM_ODECC_COUNT d) + sumN counts) % 2 ^ (R.MEM_ODECC_COUNT d).w ∧
      s.RegsKept t [(R.MEM_ODECC_COUNT d).addr] ∧ t = { s with regs := t.regs }

/-- R300: a traffic generator request from an initiator that may make it, on a die that no admitted job binds and on slots
that no valid handle holds, is taken, and on a die that one binds it is deferred to the earliest gap (the register that tells
it: log 155); when the generators finish, the request is done with its mismatches, every slot outside those tested keeps its
bytes, and no event is raised. -/
def Sys2Proof.Claims.TrafficGenerators : Prop :=
  (∀ (s : State) (mid : BitVec 12) (d : DieId) (v : Word64), s.present d = true →
    isMgmt mid.toNat = true ∨ mid.toNat = 0x200 → s.on (R.MEM_TG_CTL_START d) = false → bitOf v.toNat 34 = true →
    s.dieBound d = false →
    s.slotsInUse d (bits v.toNat 0 32) (bits v.toNat 52 12 * 4096) (bits v.toNat 40 12 * 4096) = false →
    bits v.toNat 52 12 * 4096 + bits v.toNat 40 12 * 4096 ≤ slotsPerChannel →
    Completes (.memTgStart mid d v) s fun t =>
      t.on (R.MEM_TG_CTL_START d) = true ∧ t.rd (R.MEM_TG_CTL_MASK d) = bits v.toNat 0 32 ∧
      t.rd (R.MEM_TG_CTL_SLOT_LO d) = bits v.toNat 52 12 ∧ t.rd (R.MEM_TG_CTL_SLOTS_4K d) = bits v.toNat 40 12 ∧
      t.on (R.MEM_TG_RESULT_REFUSED d) = false ∧ t.on (R.MEM_TG_RESULT_DEFERRED d) = false ∧
      (t.die d).tg = some (bits v.toNat 0 32, bits v.toNat 32 2, bits v.toNat 52 12 * 4096, bits v.toNat 40 12 * 4096) ∧
      s.RegsKept t [(R.MEM_TG_CTL_START d).addr, (R.MEM_TG_RESULT_DONE d).addr] ∧ s.SameStore t ∧
      t = { s with regs := t.regs, dies := t.dies }) ∧
  (∀ (s : State) (mid : BitVec 12) (d : DieId) (v : Word64), s.present d = true →
    isMgmt mid.toNat = true ∨ mid.toNat = 0x200 → s.on (R.MEM_TG_CTL_START d) = false → bitOf v.toNat 34 = true →
    s.dieBound d = true →
    Completes (.memTgStart mid d v) s fun t =>
      t.on (R.MEM_TG_CTL_START d) = false ∧ t.on (R.MEM_TG_RESULT_DEFERRED d) = true ∧ t.answer = .earliest (s.earliestGap d) ∧
      s.RegsKept t [(R.MEM_TG_CTL_START d).addr, (R.MEM_TG_RESULT_DONE d).addr] ∧ t = { s with regs := t.regs, answer := t.answer }) ∧
  ∀ (s : State) (d : DieId) (mismatch mask pat lo n : Nat), (s.die d).tg = some (mask, pat, lo, n) → s.memWf = true →
    lo + n ≤ slotsPerChannel →
    Completes (.memTgDone d mismatch) s fun t =>
      t.on (R.MEM_TG_CTL_START d) = false ∧ t.on (R.MEM_TG_RESULT_DONE d) = true ∧
      t.rd (R.MEM_TG_RESULT_MISMATCH d) = min mismatch (2 ^ 32 - 1) ∧
      (∀ k, bitOf mask (k / 2 ^ 32) = false ∨ k / 256 % 2 ^ 24 < lo ∨ lo + n ≤ k / 256 % 2 ^ 24 →
        mapGet 0 (t.die d).stack k = mapGet 0 (s.die d).stack k) ∧ (t.die d).spad = (s.die d).spad ∧
      s.RegsKept t [(R.MEM_TG_CTL_START d).addr, (R.MEM_TG_RESULT_DONE d).addr] ∧ t = { s with regs := t.regs, dies := t.dies }

/-- R301: margining is taken from the security processor, or from the debug port once service is authenticated, when no
admitted job binds the die and channel 0 of the stack is in service; its end reports the windows and leaves storage as it
was. -/
def Sys2Proof.Claims.Margining : Prop :=
  (∀ (s : State) (mid : BitVec 12) (d : DieId) (stack : Fin 2), s.present d = true →
    mid.toNat = 1 ∨ (mid.toNat = 0x200 ∧ s.on R.SEC_STATE_SERVICE = true) → s.on (R.MEM_MARGIN_CTL_START d) = false →
    bitOf (s.rd (R.MEM_CHMAP_INSERV d)) (16 * stack.val) = true → s.dieBound d = false →
    Completes (.marginStart mid d stack) s fun t =>
      t.on (R.MEM_MARGIN_CTL_START d) = true ∧ t.rd (R.MEM_MARGIN_CTL_STACK d) = stack.val ∧
      t.on (R.MEM_MARGIN_CTL_REFUSED d) = false ∧ s.RegsKept t [(R.MEM_MARGIN_CTL_START d).addr] ∧
      t = { s with regs := t.regs }) ∧
  ∀ (s : State) (d : DieId) (w : BitVec 34), s.on (R.MEM_MARGIN_CTL_START d) = true →
    Completes (.marginDone d w) s fun t =>
      t.on (R.MEM_MARGIN_CTL_START d) = false ∧ t.on (R.MEM_MARGIN_CTL_DONE d) = true ∧
      t.rd (R.MEM_MARGIN_RESULT_RD_LO d) = bits w.toNat 0 6 ∧ t.rd (R.MEM_MARGIN_RESULT_V_HI d) = bits w.toNat 29 5 ∧
      s.RegsKept t [(R.MEM_MARGIN_CTL_START d).addr, (R.MEM_MARGIN_RESULT_RD_LO d).addr] ∧ t = { s with regs := t.regs }

/-- R293, R294, R296, R300, R301: patrol scrub, the memory dies' reports, traffic generators and margining. -/
def Obligations.StackedServed : Prop := Claims.PatrolAndReports ∧ Claims.TrafficGenerators ∧ Claims.Margining

/-! ### Pace and throttling (R405–R421, R297–R299) -/

/-- R406–R408: a calibration that runs in a gap of its die, once every entry check there is done, records the pace and the
time when the toggle check held, and CAL.FAILED when it did not; a die that misses 1,200 Msteps/s at 0.80 V and at most
105 °C leaves service, and no other does. -/
def Sys2Proof.Claims.Calibrated : Prop :=
  ∀ (s : State) (d : DieId) (pace : BitVec 12) (rate : Word32), s.inGap d 0 = true →
    (∀ u ∈ chkAll, s.checkPending d u = false) →
    (s.calDue d (s.die d).time = true ∨ (s.paceOf d).pend = 1 ∨ (mapFind (s.paceOf d).gaps 0).isSome = true) →
    Completes (.calibration d pace rate true) s (fun t =>
      t.rd (R.PACE_CAL_PACE d) = pace.toNat ∧ t.on (R.PACE_CAL_FAILED d) = false ∧ t.on (R.PACE_NOW_STALE d) = false ∧
      (t.paceOf d).lastCal = some (s.die d).time ∧ (t.paceOf d).rate = rate.toNat ∧
      (paceFloor ≤ pace.toNat → t.rd R.CAPS_DIE_INSERV = s.rd R.CAPS_DIE_INSERV) ∧
      (pace.toNat < paceFloor → s.rd (R.PACE_SENSE_VCORE d) = 800 → toSigned 8 (s.rd (R.PACE_SENSE_TJ d)) ≤ 105 →
        bitOf (t.rd R.CAPS_DIE_INSERV) d = false) ∧
      (∀ e, e < 8 → e ≠ d.val → bitOf (t.rd R.CAPS_DIE_INSERV) e = bitOf (s.rd R.CAPS_DIE_INSERV) e)) ∧
    Completes (.calibration d pace rate false) s fun t =>
      t.on (R.PACE_CAL_FAILED d) = true ∧ t.rd (R.PACE_CAL_PACE d) = s.rd (R.PACE_CAL_PACE d) ∧
      (t.paceOf d).lastCal = (s.paceOf d).lastCal ∧ (t.paceOf d).tried = true

/-- R420: a request for a calibration or a self-test from an initiator that may make it, on a die without a pending one,
runs at once on an idle die, and on a die with an admitted job is DEFERRED to the die's counter value at its horizon; on a die
with a pending one it sets REFUSED and does nothing else, and from any other initiator it sets REFUSED and raises RANGE. -/
def Sys2Proof.Claims.PaceRequests : Prop :=
  (∀ (s : State) (d : DieId) (mid : BitVec 12) (pace : BitVec 12) (rate : Word32) (held : Bool) (fails : BitVec 6),
    s.present d = true → ∀ i ∈ [Instr.paceReqCalibration d mid pace rate held, Instr.paceReqSelfTest d mid fails],
      (isMgmt mid.toNat = true ∨ mid.toNat = 0x200 → (s.paceOf d).pend ≠ 0 → exec i s = .next (s.wr (R.PACE_REQ_REFUSED d) 1)) ∧
      (isMgmt mid.toNat = false → mid.toNat ≠ 0x200 →
        exec i s = .next ((s.wr (R.PACE_REQ_REFUSED d) 1).raiseRange d Unit.POWER))) ∧
  ∀ (s : State) (d : DieId) (mid : BitVec 12), s.present d = true → isMgmt mid.toNat = true ∨ mid.toNat = 0x200 →
    (s.paceOf d).pend = 0 →
    (s.dieBound d = false →
      (∀ (pace : BitVec 12) (rate : Word32) (held : Bool), Completes (.paceReqCalibration d mid pace rate held) s fun t =>
        t.on (R.PACE_REQ_DONE d) = true ∧ (t.paceOf d).pend = 0 ∧
        (held = true → t.rd (R.PACE_CAL_PACE d) = pace.toNat ∧ (t.paceOf d).lastCal = some (s.die d).time) ∧
        (held = false → t.on (R.PACE_CAL_FAILED d) = true ∧ (t.paceOf d).lastCal = (s.paceOf d).lastCal)) ∧
      ∀ fails : BitVec 6, Completes (.paceReqSelfTest d mid fails) s fun t =>
        t.on (R.PACE_REQ_DONE d) = true ∧ (t.paceOf d).pend = 0 ∧
        ∀ u : Fin 6, s.on ((chkOf u).present d) = true →
          (bitOf fails.toNat u = false → t.on ((chkOf u).entryOk d) = true) ∧
          (bitOf fails.toNat u = true → t.on ((chkOf u).present d) = false ∧ bitOf (t.rd (R.PACE_REQ_FAILMASK d)) u = true)) ∧
    (s.dieBound d = true →
      (∀ (pace : BitVec 12) (rate : Word32) (held : Bool), Completes (.paceReqCalibration d mid pace rate held) s fun t =>
        t.on (R.PACE_REQ_DEFERRED d) = true ∧ t.on (R.PACE_REQ_START d) = true ∧ (t.paceOf d).pend = 1 ∧
        t.rd (R.PACE_EARLIEST_TIME d) = ((s.die d).time + s.rd (R.ADM_HORIZON_TIME d) - s.time) % 2 ^ 64) ∧
      ∀ fails : BitVec 6, Completes (.paceReqSelfTest d mid fails) s fun t =>
        t.on (R.PACE_REQ_DEFERRED d) = true ∧ (t.paceOf d).pend = 2)

/-- R405, R417: a sample reports the replica rate times the ratio of the last counted calibration, with its marks; a pace
below 1,260 for 100 µs sets NOW.LOW and raises an event of the pace class; 1 ms without a cause, at or above 1,260 on every
die in service, clears STOP. -/
def Sys2Proof.Claims.PaceReported : Prop :=
  (∀ (s : State) (d : DieId) (rate : Word32), s.present d = true → (s.paceOf d).lastCal.isSome = true →
    let pace := min (rate.toNat * s.rd (R.PACE_CAL_PACE d) / (s.paceOf d).rate) 4095
    Completes (.paceSample d rate) s fun t =>
      t.rd (R.PACE_NOW_PACE d) = pace ∧ t.on (R.PACE_NOW_BELOW d) = decide (pace < 1200) ∧
      t.rd (R.PACE_MIN_PACE d) = min (s.rd (R.PACE_MIN_PACE d)) pace ∧
      (1260 ≤ pace → t.on (R.PACE_NOW_LOW d) = false ∧ (t.paceOf d).lowAt = none) ∧
      (pace < 1260 → (t.paceOf d).lowAt.isSome = true)) ∧
  (∀ (s : State) (d : DieId) (t0 : Nat), s.on (R.PACE_NOW_LOW d) = false → (s.paceOf d).lowAt = some t0 →
    t0 + 100000 ≤ (s.die d).time → s.rd (R.EVT_COUNT_COUNT 6) < 2 ^ 64 - 1 →
    Completes (.paceLow d) s fun t =>
      t.on (R.PACE_NOW_LOW d) = true ∧ s.rd (R.EVT_COUNT_COUNT 6) < t.rd (R.EVT_COUNT_COUNT 6)) ∧
  ∀ s : State, s.on R.ADM_STATE_STOP = true → s.on R.ADM_CFG_ENABLE = true → s.riskCause = none → s.paceFine = true →
    heldFor s.power.clearAt s.time 1000000 = true →
    Completes .paceResumed s fun t =>
      t.on R.ADM_STATE_STOP = false ∧ t.rd R.ADM_STATE_CAUSE = 0 ∧ t.rd R.EVT_LAST_CODE = Ev.PACE_RESUMED ∧
      s.RegsKeptBut t [R.ADM_STATE_STOP.addr]

/-- R414, R472: PACE_CAP written by a management core holds the value within 1,200 to 2,000 and is never above it after
that; a write from any other MID is ignored and raises RANGE. -/
def Sys2Proof.Claims.CapWritten : Prop :=
  ∀ (s : State) (d : DieId) (mid : BitVec 12) (v : Word32), s.present d = true →
    (mid.toNat = 2 ∨ mid.toNat = 3 →
      Completes (.paceCapWrite d mid v) s fun t =>
        (t.paceOf d).setCap = max 1200 (min 2000 (bits v.toNat 0 12)) ∧ t.rd (R.PACE_CAP_CAP d) = (t.paceOf d).cap ∧
        t.rd (R.PACE_CAP_CAP d) ≤ max 1200 (min 2000 (bits v.toNat 0 12)) ∧
        (∀ e, e ≠ d.val → t.die e = s.die e) ∧ s.RegsKeptBut t [(R.PACE_CAP_CAP d).addr, R.ADM_STATE_STOP.addr]) ∧
    (mid.toNat ≠ 2 → mid.toNat ≠ 3 → exec (.paceCapWrite d mid v) s = .next (s.raiseRange d Unit.POWER))

/-- R413, R415, R416: a sample of a die's junction sets its core voltage, in steps of 5 mV from 680 to 800: the lowest that
reaches what the pace needs, or 800 where none does (what it needs comes with the sample: log 156). A plausible reading is
shown; an implausible one is not, and holds the die at a cap of at most 1,200 until three plausible ones have followed. -/
def Sys2Proof.Claims.JunctionSampled : Prop :=
  ∀ (s : State) (d : DieId) (tjs : List Int) (needs : List Nat) (power vin cmp : Nat) (tj : Int), s.power.on = true →
    s.present d = true → tjs[d.val]? = some tj →
    let need := needs.getD d 0
    let bad := tj < -40 ∨ 150 < tj ∨ ∃ u, (s.paceOf d).prev = some u ∧ 20 < (tj - u).natAbs
    Completes (.throttleSample tjs needs power vin cmp) s fun t =>
      680 ≤ t.rd (R.PACE_SENSE_VCORE d) ∧ t.rd (R.PACE_SENSE_VCORE d) ≤ 800 ∧ t.rd (R.PACE_SENSE_VCORE d) % 5 = 0 ∧
      (need ≤ 800 → need ≤ t.rd (R.PACE_SENSE_VCORE d) ∧
        (t.rd (R.PACE_SENSE_VCORE d) = 680 ∨ t.rd (R.PACE_SENSE_VCORE d) < need + 5)) ∧
      (800 < need → t.rd (R.PACE_SENSE_VCORE d) = 800) ∧ (t.paceOf d).prev = some tj ∧
      (bad → (t.paceOf d).held = 3 ∧ t.on (R.PACE_SENSE_IMPL d) = true ∧ t.rd (R.PACE_SENSE_TJ d) = s.rd (R.PACE_SENSE_TJ d)) ∧
      (¬ bad → (t.paceOf d).held = (s.paceOf d).held - 1 ∧ t.rd (R.PACE_SENSE_TJ d) = ofSigned 8 tj) ∧
      ((t.paceOf d).held ≠ 0 → t.rd (R.PACE_CAP_CAP d) ≤ 1200)

/-- R405, R406, R407, R408, R413–R417, R420, R472: calibrations, requests, samples, caps and junctions. -/
def Obligations.PaceServed : Prop :=
  Claims.Calibrated ∧ Claims.PaceRequests ∧ Claims.PaceReported ∧ Claims.CapWritten ∧ Claims.JunctionSampled

/-- R430: the hub's reading of VIN is reported; one outside 30–70 V, or one that differs from the power-die comparators by
more than 2.0 V for 1 ms, raises PM_SENSOR (an event of the pace class that sets the sensor cause of PKG_ALERT), once while it
lasts; whatever it reads the part stays on and no job ends: the comparators alone decide. The input power is reported too. -/
def Obligations.InputMeasured : Prop :=
  ∀ (s : State) (tjs : List Int) (needs : List Nat) (power vin cmp : Nat), s.power.on = true →
    Completes (.throttleSample tjs needs power vin cmp) s fun t =>
      t.rd R.PWR_INPUT_VIN = min vin 0xFFFF ∧ t.rd R.PWR_INPUT_POWER = min power 0xFFFF ∧ t.power.on = true ∧ t.jobs.map (·.id) = s.jobs.map (·.id) ∧
      (t.power.vinBad = true ↔ vin < 3000 ∨ 7000 < vin ∨
        heldFor (since (decide (200 < (Int.ofNat vin - Int.ofNat cmp).natAbs)) s.power.diffAt s.time) s.time 1000000 = true) ∧
      (t.power.vinBad = true → s.power.vinBad = false → s.rd (R.EVT_COUNT_COUNT 6) < 2 ^ 64 - 1 →
        s.rd (R.EVT_COUNT_COUNT 6) < t.rd (R.EVT_COUNT_COUNT 6) ∧ t.on R.PKG_ALERT_SENSOR = true)

/-- R297, R298: an implausible report of a stack's temperature puts the stack at level 2, marks it, and asks for three
plausible reports; each plausible one counts down, and once none is missing the level follows the thresholds of R297. -/
def Obligations.StackLevels : Prop :=
  ∀ (s : State) (d : DieId) (k : Fin 2) (temp : Int), s.present d = true → bitOf (s.rd (R.MEM_CAPS_STACKS d)) k = true →
    mapWf 0 (s.die d).stackRun = true →
    let bad := temp < -40 ∨ 125 < temp ∨ ∃ u, mapFind (s.die d).stackRep k = some u ∧ 20 < (temp - u).natAbs
    let left := mapGet 0 (s.die d).stackRun k
    let level := if k = 0 then R.MEM_THERM_LEVEL0 d else R.MEM_THERM_LEVEL1 d
    let shown := if k = 0 then R.MEM_THERM_TEMP0 d else R.MEM_THERM_TEMP1 d
    let impl := if k = 0 then R.MEM_THERM_IMPL0 d else R.MEM_THERM_IMPL1 d
    Completes (.stackTempPoll d k temp) s fun t =>
      (bad → t.rd level = 2 ∧ t.on impl = true ∧ mapGet 0 (t.die d).stackRun k = 3 ∧ t.rd shown = s.rd shown) ∧
      (¬ bad → mapGet 0 (t.die d).stackRun k = left - 1 ∧ toSigned 8 (t.rd shown) = temp ∧
        t.on impl = decide (1 < left) ∧
        t.rd level = if 1 < left then 2 else stackLevel (s.rd level) temp) ∧
      mapFind (t.die d).stackRep k = some temp

/-- R110, R132, R152, R174, R454, R455: an entry check in a gap sets ENTRY_OK when it passes; when it fails the unit leaves
service with UNIT_OUT, and so does the die for Basil, Parsley and Dill. A unit that returns has the next epoch and no
ENTRY_OK; a unit sleeps only while no admitted job binds its die. -/
def Obligations.UnitsChecked : Prop :=
  ∀ (s : State) (d : DieId) (u : Fin 6), s.on ((chkOf u).present d) = true →
    (bitOf (s.paceOf d).asleep u = false → s.checkPending d u = true → s.inGap d (2 + u.val) = true →
      Completes (.entryCheck d u true) s (fun t => t.on ((chkOf u).entryOk d) = true ∧ t.jobs = s.jobs) ∧
      Completes (.entryCheck d u false) s fun t =>
        t.on ((chkOf u).present d) = false ∧ t.on ((chkOf u).entryOk d) = false ∧ t.rd R.EVT_LAST_CODE = Ev.UNIT_OUT ∧
        t.on R.CAPS_DEGRADED = true ∧
        (u = 0 ∨ u = 3 ∨ u = 4 → bitOf (t.rd R.CAPS_DIE_INSERV) d = false)) ∧
    (s.present d = true → (bitOf (s.paceOf d).asleep u = true ∨ s.dieBound d = false ∨ s.on R.SEC_STATE_SERVICE = true) →
      Completes (.unitWake d u) s fun t =>
        t.rd ((chkOf u).epoch d) = (s.rd ((chkOf u).epoch d) + 1) % 2 ^ 32 ∧ t.on ((chkOf u).entryOk d) = false ∧
        bitOf (t.paceOf d).asleep u = false ∧ t.jobs = s.jobs) ∧
    (s.present d = true → s.dieBound d = false →
      Completes (.unitSleep d u) s fun t =>
        bitOf (t.paceOf d).asleep u = true ∧ (∀ f, t.rd f = s.rd f) ∧ (∀ e, e ≠ d.val → t.die e = s.die e)) ∧
    (s.dieBound d = true → exec (.unitSleep d u) s = .next s)

/-- R418: once the hub counter has passed a running job's deadline DEADLINE_MISSED is raised for it and the job runs on,
marked; at the deadline exactly, and a second time, nothing happens. The host may abort such a job as any other. A final
completion carries MISSED exactly when it is posted after the deadline, whether the job ends naturally or by an abort. -/
def Obligations.DeadlinesMissed : Prop :=
  ∀ (s : State) (n : BitVec 48) (j : Job), s.job? n.toNat = some j → j.live = true → j.deadline ≠ 0 →
    (j.deadline < s.time → j.missed = false →
      Completes (.deadlineMissed n) s fun t =>
        t.rd R.EVT_LAST_CODE = Ev.DEADLINE_MISSED ∧
        ∃ k, t.job? n.toNat = some k ∧ k.missed = true ∧ k.phase = j.phase ∧ k.dieMap = j.dieMap) ∧
    (s.time ≤ j.deadline ∨ j.missed = true → exec (.deadlineMissed n) s = .next s) ∧
    ((j.missed = true → j.deadline < s.time) → mapWf (0 : Byte) s.hostMem = true → j.ring < 64 → j.cq < 64 → (∀ d ∈ j.dieMap, d < 8) →
      (j.phase = .running → s.workDone j = true → ∀ ups : List Upset,
        Completes (.jobComplete n ups) s fun t => t.ended j.id ∧
          ∃ k : Compl, k.stage = 1 ∧ k.missed = decide (j.deadline < s.time) ∧ k.aborted = false ∧
            PostedOn s t j.cq j.ring j.tag 1 j.sqHead k) ∧
      ∀ (r : Fin 64) (entry : List Byte), s.hostUp = true → s.mayRead r 1 = true → r.val = j.ring →
        j.cq = s.rd (R.SQ_CFG_CQ r) →
        let e := (s.readEntry r entry).2
        (s.readEntry r entry).1.entryOk e = true → e.kind = 6 → e.q 8 = r.val → e.q 0x10 = j.tag → j.tag < 2 ^ 32 → e.q 0x18 = 0 →
        e.q 0x20 = 0 → e.q 0x28 = 0 → e.q 0x30 = 0 →
        s.jobs.find? (fun k => k.live && k.ring = r.val && k.tag = j.tag) = some j → (s.jobs.map (·.id)).Nodup →
        1 ≤ s.rd (R.CQ_CFG_LOG2SZ (s.rd (R.SQ_CFG_CQ r))) →
        s.rd (R.CQ_STATE_TAIL (s.rd (R.SQ_CFG_CQ r))) < s.cqSize (s.rd (R.SQ_CFG_CQ r)) →
        Completes (.abort r entry) s fun t => t.ended j.id ∧
          ∃ k : Compl, k.stage = 1 ∧ k.missed = decide (j.deadline < s.time) ∧ k.aborted = true ∧ Posted s t r j.tag 1 j.sqHead k)

/-! ### The package (R424–R448) -/

/-- R429, R437, R438, R428, R445: each cause of a supply shutdown turns the rails off, ends every job, keeps the security
counters, and leaves its cause with its power die and die in PD0's latch; a thermal trip drives THERMTRIP_N. -/
def Sys2Proof.Claims.SupplyShutdowns : Prop :=
  ∀ s : State, s.power.on = true →
    let off (t : State) : Prop := t.power.on = false ∧ t.jobs = [] ∧ t.sec.epoch = s.sec.epoch ∧ t.sec.spent = s.sec.spent ∧
      t.sec.owner = s.sec.owner ∧ t.sec.revoked = s.sec.revoked ∧ t.sage.records = [] ∧ t.pending = s.pending
    Completes .vinUndervoltage s (fun t => off t ∧ t.power.latch = (1, 0, 0)) ∧
    Completes .vinOvervoltage s (fun t => off t ∧ t.power.latch = (2, 0, 0)) ∧
    (∀ die : Fin 10, Completes (.thermtrip die) s fun t => off t ∧ t.power.latch = (3, 0, die.val) ∧ t.power.trip = true) ∧
    Completes .xtalLoss s (fun t => off t ∧ t.power.latch = (5, 0, 0)) ∧
    (s.power.pwrgood = true → Completes .pwrgoodFall s fun t =>
      off t ∧ t.power.latch = (6, 0, 0) ∧ t.power.pwrgood = false ∧ t.power.trip = false) ∧
    Completes .vin52Loss s (fun t => off t ∧ t.power.latch = (0, 0, 0) ∧ t.power.vin52 = false ∧ t.power.trip = false)

/-- R433: a TLB-8D goes on after its first power-die fault, with the die's bits in PKG_PD and PD_FAULT raised; any later
fault shuts the part down with its cause. -/
def Sys2Proof.Claims.PowerDieFaults : Prop :=
  ∀ (s : State) (pd : Fin 6), s.power.on = true → bitOf (s.rd R.CAPS_PD_PRESENT) pd = true →
    bitOf (s.rd R.PKG_PD_FAULT) pd = false →
    (s.rd R.PKG_CAPS_PD_COUNT = 6 → s.rd R.PKG_PD_FAULT = 0 →
      Completes (.pdFault pd) s fun t =>
        bitOf (t.rd R.PKG_PD_FAULT) pd = true ∧ bitOf (t.rd R.PKG_PD_ON) pd = false ∧ t.rd R.EVT_LAST_CODE = Ev.PD_FAULT ∧
        t.on R.PKG_ALERT_PD = true ∧ t.power = s.power ∧ t.jobs = s.jobs ∧
        s.RegsKeptBut t [R.PKG_PD_FAULT.addr, R.PKG_CLK_PDCLK.addr]) ∧
    (s.rd R.PKG_CAPS_PD_COUNT ≠ 6 ∨ s.rd R.PKG_PD_FAULT ≠ 0 →
      Completes (.pdFault pd) s fun t => t.power.on = false ∧ t.power.latch = (4, pd.val, 0) ∧ t.jobs = [])

/-- R428, R429, R433, R437, R438, R445: what supply shutdowns and power-die faults do. -/
def Obligations.SupplyFails : Prop := Claims.SupplyShutdowns ∧ Claims.PowerDieFaults

/-- R429, R428: VIN_LOW and VIN_HIGH are raised once on entry to their band, and operation continues; the loss of a port's
reference clock takes the port down with FAB_LINK_DOWN. -/
def Obligations.InputBandsAndClocks : Prop :=
  ∀ s : State, s.power.on = true →
    (s.power.band ≠ 1 → Completes .vinLow s fun t =>
      t.power.band = 1 ∧ t.rd R.EVT_LAST_CODE = Ev.VIN_LOW ∧ t.on R.PKG_ALERT_VLOW = true ∧ t.jobs = s.jobs ∧
      exec .vinLow t = .next t) ∧
    (s.power.band ≠ 2 → Completes .vinHigh s fun t =>
      t.power.band = 2 ∧ t.rd R.EVT_LAST_CODE = Ev.VIN_HIGH ∧ t.on R.PKG_ALERT_VHIGH = true ∧ t.jobs = s.jobs ∧
      exec .vinHigh t = .next t) ∧
    ∀ p : Fin 8, s.on (R.FAB_PORT_UP p) = true → Completes (.frefLoss p) s fun t =>
      t.on (R.FAB_PORT_UP p) = false ∧ bitOf (t.rd R.PKG_CLK_PORT) p = false ∧ t.rd R.EVT_LAST_CODE = Ev.FAB_LINK_DOWN ∧
      s.RegsKeptBut t [(R.FAB_PORT_UP p).addr, R.PKG_CLK_PORT.addr]

/-- R431, R437, R441, R443, R446: power comes up in order: VIN52, PWRGOOD with VIN in its range, the rails with every power
die and the strap, the release of RESET_N; a missed bound leaves PHASE 15 with its step; RESET_N held low resets the jobs
and keeps the security counters and the commands that wait. -/
def Obligations.PowerSequence : Prop :=
  ∀ s : State,
    Completes .vin52Apply s (fun t => t.power.vin52 = true ∧ t.regs = s.regs) ∧
    (∀ low vin : Nat, s.power.pwrgood = false → s.power.vin52 = true → 4400 ≤ vin → vin ≤ 5800 → s.power.latch.1 = 0 →
      Completes (.pwrgoodRise low vin) s fun t => t.power.pwrgood = true ∧ t.power.rising = true ∧ t.regs = s.regs) ∧
    (∀ (strap : BitVec 2) (v6 : BitVec 16), s.power.rising = true →
      Completes (.railsGood strap 0 v6) s fun t =>
        t.power.on = true ∧ t.power.rising = false ∧ t.rd R.PKG_PD_ON = s.rd R.CAPS_PD_PRESENT ∧ t.rd R.PKG_PD_FAULT = 0 ∧
        (mapFind s.regs R.PKG_CAPS_SMB_ADDR.key = none → t.rd R.PKG_CAPS_SMB_ADDR = 0x58 + strap.toNat)) ∧
    (s.power.pwrgood = true → s.power.resetn = false → s.power.on = true →
      Completes .resetNRelease s fun t =>
        t.power.resetn = true ∧ t.rd R.PKG_STATE_PHASE = 2 ∧ t.power.releaseAt = s.time ∧ t.jobs = s.jobs) ∧
    (s.power.pwrgood = true → s.power.on = true →
      Completes .resetNAssert s fun t =>
        t.power.resetn = false ∧ t.rd R.PKG_STATE_PHASE = 1 ∧ t.on R.PKG_STATE_READY = false ∧ t.jobs = [] ∧
        t.sec.epoch = s.sec.epoch ∧ t.sec.spent = s.sec.spent ∧ t.sage.records = [] ∧ t.pending = s.pending) ∧
    ∀ step : Fin 10, step.val ∈ s.startStep → (step.val = 4 ∨ s.power.releaseAt + s.stepBound step ≤ s.time) →
      Completes (.startupStepTimeout step) s fun t =>
        t.rd R.PKG_STATE_PHASE = 15 ∧ t.rd R.PKG_STATE_STEP = step.val ∧ s.RegsKept t [R.PKG_STATE_PHASE.addr] ∧
        t = { s with regs := t.regs }

/-- R370: a failed health test of the random-bit generator is latched and raised once, and no draw succeeds after it. -/
def Obligations.RandomBitsStop : Prop :=
  ∀ s : State, s.power.on = true → s.on R.SEC_STATE_TRNG_FAIL = false →
    Completes .trngHealthFail s fun t =>
      t.on R.SEC_STATE_TRNG_FAIL = true ∧ t.rd R.EVT_LAST_CODE = Ev.TRNG_FAIL ∧ (∀ n, t.draw n = none) ∧ exec .trngHealthFail t = .next t ∧
      s.RegsKeptBut t [R.SEC_STATE_TRNG_FAIL.addr]

/-- R447, R448: from rails good on, each Read Word answers the bits its row names, and no state but the answer changes; with
the rails off nothing is acknowledged. -/
def Sys2Proof.Claims.SmbusReads : Prop :=
  ∀ s : State,
    let reads : List (Instr × Nat) := [
      (.smbState, s.rd R.PKG_STATE_PHASE + s.rd R.PKG_STATE_READY * 2 ^ 4 + s.rd R.ADM_STATE_STOP * 2 ^ 5 +
        s.rd R.SEC_STATE_SERVICE * 2 ^ 6),
      (.smbTjmax, s.rd R.PKG_THERM_TJMAX + s.rd R.PKG_THERM_DIE * 2 ^ 8), (.smbPower, s.rd R.PWR_INPUT_POWER),
      (.smbVin, s.rd R.PWR_INPUT_VIN), (.smbLimitRead, s.rd R.PWR_LIMIT_LIMIT), (.smbAlertRead, s.alertWord),
      (.smbLastoff, s.rd R.PKG_LASTOFF_CAUSE + s.rd R.PKG_LASTOFF_PD * 2 ^ 4 + s.rd R.PKG_LASTOFF_DIE * 2 ^ 8),
      (.smbPowerdies, s.rd R.PKG_PD_ON + s.rd R.PKG_PD_FAULT * 2 ^ 8)]
    (∀ r ∈ reads, exec r.1 s = .next { s with answer := if s.power.on then .data (leBytes 2 r.2) else .nack }) ∧
    (s.power.on = true → ∃ w, exec .smbStackmax s = .next { s with answer := .data (leBytes 2 w) } ∧
      ((s.stackTemps = [] ∧ w = 0) ∨ ∃ x ∈ s.stackTemps, (∀ y ∈ s.stackTemps, y ≤ x) ∧ w = ofSigned 16 x)) ∧
    (s.power.on = false → ∀ w : BitVec 16, ∀ i ∈ [Instr.smbStackmax, .smbLimitWrite w, .smbAlertWrite w, .smbAlertResponse],
      exec i s = .next { s with answer := .nack })

/-- R440, R447, R414: a LIMIT write once a management core runs holds the value within P_FLOOR to P_MAX; an ALERT write
clears exactly the named causes whose condition no longer holds and sets the mask; the Alert Response Address is answered
while ALERT_N is low, and not otherwise. -/
def Sys2Proof.Claims.SmbusWrites : Prop :=
  ∀ (s : State) (w : BitVec 16), s.power.on = true →
    (2 ≤ s.rd R.SEC_STATE_STAGE → s.rd R.SEC_STATE_STAGE ≤ 4 → s.rd R.PWR_CAPS_P_FLOOR ≤ s.rd R.PWR_CAPS_P_MAX →
      Completes (.smbLimitWrite w) s fun t =>
        s.rd R.PWR_CAPS_P_FLOOR ≤ t.rd R.PWR_LIMIT_LIMIT ∧ t.rd R.PWR_LIMIT_LIMIT ≤ s.rd R.PWR_CAPS_P_MAX ∧
        (s.rd R.PWR_CAPS_P_FLOOR ≤ w.toNat → w.toNat ≤ s.rd R.PWR_CAPS_P_MAX → t.rd R.PWR_LIMIT_LIMIT = w.toNat) ∧
        s.RegsKept t [R.PWR_LIMIT_LIMIT.addr]) ∧
    Completes (.smbAlertWrite w) s (fun t =>
      (∀ k, k < 7 → t.on (alertFld k) = (s.on (alertFld k) && !(bitOf w.toNat k && !s.alertHolds k))) ∧
      t.rd R.PKG_ALERT_MASK = bits w.toNat 8 8 ∧ s.RegsKept t [R.PKG_ALERT_MASK.addr]) ∧
    (s.alertLow = true → exec .smbAlertResponse s =
      .next { s with answer := .data (leBytes 1 (2 * s.rd R.PKG_CAPS_SMB_ADDR)) }) ∧
    (s.alertLow = false → exec .smbAlertResponse s = .next { s with answer := .nack })

/-- R414, R440, R447, R448: the SMBus target. -/
def Obligations.SmbusServed : Prop := Claims.SmbusReads ∧ Claims.SmbusWrites

/-! ### Queues and channels (R178–R182, R265–R278, R340, R341) -/

/-- R179, R270: a push by the writer end whose next entry is ready. An open queue with room takes the entry as its youngest
and counts it: no other queue, no byte of storage but the head of the statistics buffer that an operation seals with its last
push, and no register beyond the queue's status word, SU_BUSY and TORN marks changes. A queue whose reader end is closed
discards it, sets PEER_CLOSED, counts it, and the first such push raises PEER_CLOSED; no queue changes. -/
def Sys2Proof.Claims.QueuePushed : Prop :=
  ∀ (s : State) (d : DieId) (q : QueueId) (e : QEntry) (s1 : State), s.on (R.QCH_CFG_ENABLE d) = true →
    s.offered d q = some (e, s1) → mapWf [] (s.die d).queues = true → s.memWf = true →
    (s.on (R.QCH_QSTAT_RCLOSED d q) = false → (s.queue d q).length < s.rd (R.QCH_QCFG_CAP d q) →
      Completes (.queuePush d q) s fun t =>
        t.queue d q = s.queue d q ++ [e] ∧ t.rd (R.QCH_QSTAT_COUNT d q) = ((s.queue d q).length + 1) % 1024 ∧
        t.rd (R.QCH_QSTAT_PUSHED d q) = (s.rd (R.QCH_QSTAT_PUSHED d q) + 1) % 65536 ∧
        (∀ x k, (x, k) ≠ (d.val, q.val) → t.queue x k = s.queue x k) ∧
        (match ((s.die d).group (s.rd (R.QCH_QCFG_WRITER d q))).cur.bind (·.sealing) with
          | none => s.SameStore t
          | some (h, _) => s.StoredBut t h 0 8) ∧
        (∀ f, f.key / 64 ≠ (R.QCH_QSTAT_COUNT d q).key / 64 → f.key ≠ (R.SU_BUSY_BUSY d).key →
          (∀ x i, f.key ≠ (R.SPAD_HTAB0_TORN x i).key) → t.rd f = s.rd f) ∧
        t = { s with regs := t.regs, dies := t.dies, pendSlots := t.pendSlots }) ∧
    (s.on (R.QCH_QSTAT_RCLOSED d q) = true →
      Completes (.queuePush d q) s fun t =>
        (∀ x k, t.queue x k = s.queue x k) ∧ t.on (R.QCH_QSTAT_PEER_CLOSED d q) = true ∧
        t.rd (R.QCH_QSTAT_DISCARDED d q) = min (s.rd (R.QCH_QSTAT_DISCARDED d q) + 1) 65535 ∧
        t.rd (R.QCH_QSTAT_PUSHED d q) = s.rd (R.QCH_QSTAT_PUSHED d q) ∧
        (s.on (R.QCH_QSTAT_PEER_CLOSED d q) = false → t.rd R.EVT_LAST_CODE = Ev.PEER_CLOSED ∧ t.rd R.EVT_LAST_SRC = d) ∧
        (s.on (R.QCH_QSTAT_PEER_CLOSED d q) = true → t.rd R.EVT_LAST_CODE = s.rd R.EVT_LAST_CODE ∧ t.hostMem = s.hostMem))

/-- R267: entries leave a queue in the order in which they entered it. A pop takes the head entry: an engine group's goes
behind those already popped for the operand, a stream unit's write program holds it. Where no fabric receiver feeds the
queue, the credit of no channel moves and nothing but the queue, its COUNT and the taker changes. -/
def Sys2Proof.Claims.QueuePopped : Prop :=
  ∀ (s : State) (d : DieId) (q : QueueId) (e : QEntry) (es : List QEntry), s.queue d q = e :: es →
    mapWf [] (s.die d).queues = true → s.bindOf d q = none →
    let r := s.rd (R.QCH_QCFG_READER d q)
    (∀ i, r < 4 → s.takes d r q = some i → i < ((s.die d).group r).inb.length →
      Completes (.queuePop d q) s fun t =>
        t.queue d q = es ∧ ((t.die d).group r).inb.getD i [] = ((s.die d).group r).inb.getD i [] ++ [e] ∧
        (∀ j, j ≠ i → ((t.die d).group r).inb.getD j [] = ((s.die d).group r).inb.getD j []) ∧
        (∀ k, k ≠ q.val → t.queue d k = s.queue d k) ∧ (∀ f, f.key ≠ (R.QCH_QSTAT_COUNT d q).key → t.rd f = s.rd f) ∧
        (∀ x, x ≠ d.val → t.die x = s.die x) ∧
        t = { s with regs := t.regs, dies := t.dies }) ∧
    (∀ p, 0x10 ≤ r → r < 0x20 → ((s.die d).sunit (r - 0x10)).rec? = some p → p.queue = q →
      ((s.die d).sunit (r - 0x10)).wants = true →
      Completes (.queuePop d q) s fun t =>
        t.queue d q = es ∧ ((t.die d).sunit (r - 0x10)).ents = ((s.die d).sunit (r - 0x10)).ents ++ [e] ∧
        (∀ k, k ≠ q.val → t.queue d k = s.queue d k) ∧ (∀ f, f.key ≠ (R.QCH_QSTAT_COUNT d q).key → t.rd f = s.rd f) ∧
        t = { s with regs := t.regs, dies := t.dies })

/-- R269: an engine group's or stream unit's end of a queue closes once its owning core has ended and it is idle; a package
channel's sender's reader end closes once every receiver has. The entries that the queue holds stay in it. -/
def Sys2Proof.Claims.QueueEndCloses : Prop :=
  ∀ (s : State) (d : DieId) (q : QueueId), s.rd (R.QCH_QCFG_CAP d q) ≠ 0 →
    (∀ g, g < 4 → s.rd (R.QCH_QCFG_WRITER d q) = g → ((s.die d).core (s.ownerOf d g)).ended = true →
      ((s.die d).group g).fifo = [] → ((s.die d).group g).cur = none →
      Completes (.queueEndClose d q true) s fun t =>
        t.on (R.QCH_QSTAT_WCLOSED d q) = true ∧ (∀ f, f.key ≠ (R.QCH_QSTAT_WCLOSED d q).key → t.rd f = s.rd f) ∧
        t = { s with regs := t.regs }) ∧
    (∀ u, u < 16 → s.rd (R.QCH_QCFG_READER d q) = 0x10 + u → ((s.die d).core (s.ownerOf d (u / 4))).ended = true →
      ((s.die d).sunit u).waiting = [] → ((s.die d).sunit u).prog = none →
      Completes (.queueEndClose d q false) s fun t =>
        t.on (R.QCH_QSTAT_RCLOSED d q) = true ∧ t.dies = s.dies ∧
        (∀ f, f.key ≠ (R.QCH_QSTAT_RCLOSED d q).key → t.rd f = s.rd f)) ∧
    ∀ c : Fin 32, s.rd (R.QCH_QCFG_READER d q) = 0x30 → s.chanOf d q = some c.val → s.rd (R.QCH_CHTAB0_KIND d c) = 0 →
      (∀ r ∈ s.receivers d c, s.on (R.QCH_QSTAT_RCLOSED r.1 r.2) = true) →
      Completes (.queueEndClose d q false) s fun t =>
        t.on (R.QCH_QSTAT_RCLOSED d q) = true ∧ t.dies = s.dies ∧
        (∀ f, f.key ≠ (R.QCH_QSTAT_RCLOSED d q).key → t.rd f = s.rd f)

/-- R179, R267, R269, R270: pushes, pops and ends of queues. -/
def Obligations.QueuesMove : Prop := Claims.QueuePushed ∧ Claims.QueuePopped ∧ Claims.QueueEndCloses

/-- R182, R352: the next descriptor of a group's operation (but FOLDC) whose entries have all been pushed and, where they drain
to memory, landed: its slot holds exactly the 64 bytes, the slot is not pending for the operation any more, the job's record
has them, and a ciphertext's handles are bound to its lineage. While an entry is still to be pushed nothing happens. -/
def Sys2Proof.Claims.OneCommitted : Prop :=
  ∀ (s : State) (d : DieId) (g : Fin 4) (r : Running) (k : Commit) (ks : List Commit), ((s.die d).group g).cur = some r →
    r.commits = k :: ks → r.op.opc ≠ 0x33 →
    (((s.die d).group g).outb.getD k.out [] = [] → s.drained d (parseDesc k.desc).handles = true → s.slotOk k.ref = true →
      k.desc.length = 64 → s.memWf = true → s.rd (R.SPAD_HTAB2_SBASE (hDie (refHandle k.ref)) (hIdx (refHandle k.ref))) % 256 = 0 →
      (∀ h ∈ (parseDesc k.desc).handles, h < 2048) →
      (∀ h site, r.sealing = some (h, site) → ∀ i j, i < 64 → j < 8 → s.spot (refHandle k.ref) (64 * refSlot k.ref + i) ≠ s.spot h j) →
      Completes (.outputCommit d g) s fun t =>
        t.peek (refHandle k.ref) (64 * refSlot k.ref) 64 = k.desc ∧
        (∀ p ∈ t.pendSlots, p ∈ s.pendSlots ∧ ¬(p.1 = refKey k.ref ∧ p.2.1 = d.val ∧ p.2.2.1 = g.val ∧ p.2.2.2 = r.op.ticket)) ∧
        (s.hAttr (refHandle k.ref) Attr.PROBE = false → ∀ j, s.jobOn d = some j →
          ∃ j', t.job? j.id = some j' ∧ mapFind j'.outs (s.outKey k.ref) = some k.desc) ∧
        ((parseDesc k.desc).isCt = true → ∀ h ∈ (parseDesc k.desc).handles, t.on (R.SAGE_BIND_V (hDie h) (hIdx h)) = true ∧
          t.rd (R.SAGE_BIND_LINEAGE (hDie h) (hIdx h)) = (parseDesc k.desc).lineage) ∧
        (ks ≠ [] → ((t.die d).group g).cur = some { r with commits := ks, committed := true }) ∧
        (ks = [] → (∀ l ∈ ((s.die d).group g).outb, l = []) → ((t.die d).group g).cur = none ∧
          ((t.die d).group g).hist.getLast? = some (r.op.ticket, statusWord { r with commits := [], committed := true }))) ∧
    (((s.die d).group g).outb.getD k.out [] ≠ [] → exec (.outputCommit d g) s = .next s)

/-- R129: FOLDC's two descriptors are committed together, in one step, once the entries of both have been pushed and landed:
both slots hold their bytes; while those of one have not, neither is committed. -/
def Sys2Proof.Claims.FoldCommitted : Prop :=
  ∀ (s : State) (d : DieId) (g : Fin 4) (r : Running) (k1 k2 : Commit), ((s.die d).group g).cur = some r →
    r.commits = [k1, k2] → r.op.opc = 0x33 → r.sealing = none →
    ((∀ k ∈ [k1, k2], ((s.die d).group g).outb.getD k.out [] = [] ∧ s.drained d (parseDesc k.desc).handles = true ∧
        s.slotOk k.ref = true ∧ k.desc.length = 64 ∧
        s.rd (R.SPAD_HTAB2_SBASE (hDie (refHandle k.ref)) (hIdx (refHandle k.ref))) % 256 = 0) → s.memWf = true →
      (∀ i j, i < 64 → j < 64 →
        s.spot (refHandle k1.ref) (64 * refSlot k1.ref + i) ≠ s.spot (refHandle k2.ref) (64 * refSlot k2.ref + j)) →
      Completes (.outputCommit d g) s fun t =>
        (∀ k ∈ [k1, k2], t.peek (refHandle k.ref) (64 * refSlot k.ref) 64 = k.desc ∧
          ∀ p ∈ t.pendSlots, ¬(p.1 = refKey k.ref ∧ p.2.1 = d.val ∧ p.2.2.1 = g.val ∧ p.2.2.2 = r.op.ticket)) ∧
        ((∀ l ∈ ((s.die d).group g).outb, l = []) → ((t.die d).group g).cur = none)) ∧
    ((∃ k ∈ [k1, k2], ((s.die d).group g).outb.getD k.out [] ≠ [] ∨ s.drained d (parseDesc k.desc).handles = false) →
      exec (.outputCommit d g) s = .next s)

/-- R129, R182, R352: the commit of output descriptors. -/
def Obligations.OutputCommitted : Prop := Claims.OneCommitted ∧ Claims.FoldCommitted

/-- R275, R270: the head entry of a package channel's sender enters every open receiver, once each has room, behind what it
holds; a closed receiver's copy is discarded and marked in the sender's status word. What the sender holds once its own reader
end is closed stays in it. -/
def Sys2Proof.Claims.ChannelForwarded : Prop :=
  ∀ (s : State) (d : DieId) (ch : Fin 32) (e : QEntry) (es : List QEntry), s.on (R.QCH_CHTAB0_EN d ch) = true →
    s.rd (R.QCH_CHTAB0_KIND d ch) = 0 →
    let sq := s.rd (R.QCH_CHTAB0_SQ d ch)
    s.queue d sq = e :: es → (s.receivers d ch).Nodup → (∀ r ∈ s.receivers d ch, r.1 < 8 ∧ r ≠ (d.val, sq)) →
    (∀ x, x < 8 → mapWf [] (s.die x).queues = true) →
    ((∀ r ∈ s.receivers d ch, s.canPush r.1 r.2 = true) → s.on (R.QCH_QSTAT_RCLOSED d sq) = false →
      Completes (.channelForward d ch) s fun t =>
        t.queue d sq = es ∧
        (∀ r ∈ s.receivers d ch, s.on (R.QCH_QSTAT_RCLOSED r.1 r.2) = false → t.queue r.1 r.2 = s.queue r.1 r.2 ++ [e]) ∧
        (∀ x k, x < 8 → ((x, k) ∉ s.receivers d ch ∨ s.on (R.QCH_QSTAT_RCLOSED x k) = true) → (x, k) ≠ (d.val, sq) →
          t.queue x k = s.queue x k) ∧
        ((∃ r ∈ s.receivers d ch, s.on (R.QCH_QSTAT_RCLOSED r.1 r.2) = true) → t.on (R.QCH_QSTAT_PEER_CLOSED d sq) = true) ∧
        (∀ x, (t.die x).spad = (s.die x).spad ∧ (t.die x).stack = (s.die x).stack)) ∧
    ((∃ r ∈ s.receivers d ch, s.canPush r.1 r.2 = false) ∨ s.on (R.QCH_QSTAT_RCLOSED d sq) = true →
      exec (.channelForward d ch) s = .next s)

/-- R276, R340, R341: a fabric channel's sender sends at most four entries, no more than the least credit of an open member
(log 40: as many as are there and covered); each open member's credit falls by that number and the queue loses its oldest
entries. With an open member without credit, or once the sender's reader end is closed, nothing is sent. -/
def Sys2Proof.Claims.FabricEntriesSent : Prop :=
  ∀ (s : State) (d : DieId) (ch : Fin 32), s.on (R.QCH_CHTAB0_EN d ch) = true → s.rd (R.QCH_CHTAB0_KIND d ch) ≠ 0 →
    let sq := s.rd (R.QCH_CHTAB0_SQ d ch)
    s.members d ch ≠ [] → s.queue d sq ≠ [] → mapWf [] (s.die d).queues = true → s.bindOf d sq = none →
    ((∀ m ∈ s.members d ch, m.closed = false → 0 < m.credit) → s.on (R.QCH_QSTAT_RCLOSED d sq) = false →
      ∃ n, 0 < n ∧ n ≤ 4 ∧ n ≤ (s.queue d sq).length ∧ (∀ m ∈ s.members d ch, m.closed = false → n ≤ m.credit) ∧
        Completes (.fabricEntrySend d ch) s fun t =>
          t.queue d sq = (s.queue d sq).drop n ∧
          t.members d ch = (s.members d ch).map (fun m => if m.closed then m else { m with credit := m.credit - n }) ∧
          (∀ x k, x < 8 → (x, k) ≠ (d.val, sq) → t.queue x k = s.queue x k) ∧
          (∀ m ∈ s.members d ch, m.closed = false → (s.conn m.epid).spent = false →
            (t.conn m.epid).txPsn > (s.conn m.epid).txPsn)) ∧
    ((∃ m ∈ s.members d ch, m.closed = false ∧ m.credit = 0) ∨ s.on (R.QCH_QSTAT_RCLOSED d sq) = true →
      exec (.fabricEntrySend d ch) s = .next s)

/-- R275, R276, R340, R341: what package channels forward and fabric channels send. -/
def Obligations.ChannelsCarry : Prop := Claims.ChannelForwarded ∧ Claims.FabricEntriesSent

/-- R108, R206, R247, R272: a fetch error of a group's operation that is not its fourth in a row counts a restart and leaves
the operation at the head, to be run again; so does a remote read of that group without data within SPAD_RTMO, and a bridge
read lost at its third resend, which also counts its resends. The fourth in a row ends the job with STALL. -/
def Sys2Proof.Claims.FetchErrors : Prop :=
  ∀ (s : State) (d : DieId) (g : Fin 4) (op : Issued) (ops : List Issued) (j : Job), ((s.die d).group g).fifo = op :: ops →
    ((s.die d).group g).cur = none → s.jobOn d = some j →
    let count : Nat → Fld := fun g => match g with
      | 0 => R.BASIL_RESTARTS_COUNT d
      | 1 => R.MINT_RESTARTS_COUNT d
      | 2 => R.PARS_RESTARTS_COUNT d
      | _ => R.TARR_RESTARTS_COUNT d
    (((s.die d).group g).retries < 3 → ∀ i, (i = .fetchErrorRestart d g ∨ (i = .remoteReadTimeout d (BitVec.ofNat 8 g) ∧
        ∃ t0, s.remoteSince d g = some t0 ∧ t0 + 1000 * s.rd (R.SPAD_RTMO_LIMIT_US d) < (s.die d).time)) →
      Completes i s fun t =>
        t.rd (count g) = min (s.rd (count g) + 1) (2 ^ 32 - 1) ∧ ((t.die d).group g).fifo = op :: ops ∧
        ((t.die d).group g).cur = none ∧ ((t.die d).group g).retries = ((s.die d).group g).retries + 1 ∧ t.jobs = s.jobs ∧
        (∀ x, (t.die x).spad = (s.die x).spad ∧ (t.die x).stack = (s.die x).stack)) ∧
    (((s.die d).group g).retries < 3 → s.present d = true →
      Completes (.bridgeResend d 3 (.read (BitVec.ofNat 8 g))) s fun t =>
        t.rd (R.QCH_BRIDGE_RETRIES d) = min (s.rd (R.QCH_BRIDGE_RETRIES d) + 3) (2 ^ 32 - 1) ∧
        t.rd (count g) = min (s.rd (count g) + 1) (2 ^ 32 - 1) ∧ ((t.die d).group g).fifo = op :: ops ∧ t.jobs = s.jobs) ∧
    (3 ≤ ((s.die d).group g).retries → (s.jobs.map (·.id)).Nodup →
      Completes (.fetchErrorRestart d g) s fun t =>
        t.rd (count g) = s.rd (count g) ∧ t.rd (lastCodeFld d g) = Ev.STALL ∧ ((t.die d).group g).fifo = [] ∧ t.jobOn d ≠ some j ∧
        ((t.job? j.id).map (·.phase)) = some .ended)

/-- R272: each resend of a flit is counted, and one that succeeds changes nothing else. With the third, a write is lost: its
handle, unless the job's end scrubs it, is TORN; and so is a channel entry. Either raises BRIDGE_FAIL and ends the job of the
die. -/
def Sys2Proof.Claims.BridgeResends : Prop :=
  ∀ (s : State) (d : DieId), s.present d = true →
    (∀ (n : Fin 4) (what : BridgeLoad), n.val < 3 → Completes (.bridgeResend d n what) s fun t =>
      t.rd (R.QCH_BRIDGE_RETRIES d) = min (s.rd (R.QCH_BRIDGE_RETRIES d) + n.val + 1) (2 ^ 32 - 1) ∧
      (∀ f, f.key ≠ (R.QCH_BRIDGE_RETRIES d).key → t.rd f = s.rd f) ∧ t = { s with regs := t.regs }) ∧
    ∀ j, s.jobOn d = some j → (s.jobs.map (·.id)).Nodup → s.rd (R.EVT_COUNT_COUNT 2) < 2 ^ 64 - 1 →
      (∀ h : BitVec 16, Completes (.bridgeResend d 3 (.write h)) s fun t =>
        s.rd (R.EVT_COUNT_COUNT 2) < t.rd (R.EVT_COUNT_COUNT 2) ∧ (t.job? j.id).map (·.phase) = some .ended ∧
        (s.handleOk h.toNat = true → s.hLoc h.toNat ≠ 0 → t.hTorn h.toNat = true)) ∧
      ∀ ch : Fin 32, s.on (R.QCH_CHTAB0_EN d ch) = true → s.queue d (s.rd (R.QCH_CHTAB0_SQ d ch)) ≠ [] →
        Completes (.bridgeResend d 3 (.entry ch)) s fun t =>
          s.rd (R.EVT_COUNT_COUNT 2) < t.rd (R.EVT_COUNT_COUNT 2) ∧ (t.job? j.id).map (·.phase) = some .ended

/-- R277, R278: a wait that has outlasted its unit's stall limit on the die's counter raises STALL, is recorded in
QCH_LAST_STALL and, for a wait on a queue, in the queue's status word, and ends the job on the die; a wait that has not, or
no wait at all, changes nothing. -/
def Sys2Proof.Claims.StallsEndJobs : Prop :=
  ∀ (s : State) (d : DieId) (u : BitVec 8) (q : QueueId) (wait : Fin 8) (j : Job), s.jobOn d = some j →
    (∀ t0, s.waitSince d u.toNat q wait = some t0 → (s.die d).time ≤ t0 + 1000 * s.stallLimit d u.toNat q wait →
      exec (.stallTimeout d u q wait) s = .next s) ∧
    (s.waitSince d u.toNat q wait = none → exec (.stallTimeout d u q wait) s = .next s) ∧
    ∀ t0, s.waitSince d u.toNat q wait = some t0 → t0 + 1000 * s.stallLimit d u.toNat q wait < (s.die d).time →
    (s.jobs.map (·.id)).Nodup →
    Completes (.stallTimeout d u q wait) s fun t =>
      t.rd (R.QCH_LAST_STALL_UNIT d) = u.toNat ∧ t.rd (R.QCH_LAST_STALL_WAIT d) = wait ∧
      (wait.val ≤ 2 → t.rd (R.QCH_LAST_STALL_QUEUE d) = q ∧ t.on (R.QCH_QSTAT_STALLED d q) = true) ∧
      ((t.job? j.id).map (·.phase)) = some .ended

/-- R108, R206, R247, R272, R277, R278: fetch errors, lost reads and stalls. -/
def Obligations.FetchesAndStalls : Prop := Claims.FetchErrors ∧ Claims.BridgeResends ∧ Claims.StallsEndJobs

/-! ### Macro operations (R32, R46, R85–R87, R116, R131, R159, R169, R181, R182, R199, R479, R480) -/

/-- R46, R180–R182, R186: a macro operation whose descriptors and entries are there, which passes its checks and is not in a
voided transaction. It leaves the head of its group's FIFO, what it popped is spent, its outputs' entries wait to be pushed,
its step counter advances by its table's count, and it either waits on its pushes and commits with code 0 or, having none,
is complete with its status word kept. An operation that waits for an input changes nothing. Every macro operation. -/
def Obligations.MacroRuns : Prop :=
  ∀ p ∈ macroRows, ∀ (s : State) (d : DieId) (ups : List Upset), (p.1.opc = 0x07 → ups = []) →
    let s0 := s.plant ups
    let g := p.1.group
    (s0.headMacro d g = none → exec (p.2 d ups) s = .next s0) ∧
    (∀ op c, s0.headMacro d g = some op → op.opc = p.1.opc → ((s0.die d).group g).redo = none → s0.ctxOf d g op = some c →
      c.gathered (c.shapeOf p.1) = false → exec (p.2 d ups) s = .next s0) ∧
    ∀ (op : Issued) (c : Ctx) (s2 s4 : State) (ys : List Desc), MacroReady s0 d p.1 op c →
      (c.txn.map (·.voided)).getD false = false → c.verdict p.1 = (none, s2) →
      let w := c.workOf p.1 s2
      let c1 : Ctx := { c with s := w.st }
      let f := c.flagsIn ||| w.flags
      let sh := c.shapeOf p.1
      w.torn = false → (w.st.spendKey d p.1).formOuts c1 p.1 false f = (s4, ys, true) →
      let o0 := c1.entriesOut p.1 sh ys false f w 0
      let o1 := c1.entriesOut p.1 sh ys false f w 1
      let r := c1.running p.1 ys 0 false w [o0, o1]
      Completes (p.2 d ups) s fun t =>
        ((t.die d).group g).fifo = ((s0.die d).group g).fifo.drop 1 ∧ ((t.die d).group g).inb = [[], [], []] ∧
        ((t.die d).group g).outb = [o0, o1] ∧ t.rd (stepsFld d g) = (s4.rd (stepsFld d g) + sh.steps) % 2 ^ (stepsFld d g).w ∧
        (r.commits = [] ∧ o0 = [] ∧ o1 = [] → ((t.die d).group g).cur = none ∧
          ((t.die d).group g).hist.getLast? = some (op.ticket, statusWord r)) ∧
        (¬(r.commits = [] ∧ o0 = [] ∧ o1 = []) → ∃ took, ((t.die d).group g).cur = some { r with took := took })

/-- R46, R199, R479, R480: a macro operation that fails a check at steps 1 to 4. Its code is the group's last one and is
raised; one that commits no descriptor ends the job with it; any other writes no output data, pops its entries, pushes its
entries as zero with the VOID tag, and the descriptors that it will commit carry the fault's flag. A later operation of the
transaction is void too and makes no check. -/
def Obligations.MacroFaults : Prop :=
  ∀ p ∈ macroRows, ∀ (s : State) (d : DieId) (ups : List Upset), (p.1.opc = 0x07 → ups = []) →
    ∀ (op : Issued) (c : Ctx), MacroReady (s.plant ups) d p.1 op c →
    let g := p.1.group
    ((c.txn.map (·.voided)).getD false = false → ∀ (code : Nat) (s2 : State), c.verdict p.1 = (some code, s2) →
      (c.isFatal p.1 = true → (s.jobs.map (·.id)).Nodup →
        Completes (p.2 d ups) s fun t =>
          t.rd (lastCodeFld d g) = code ∧ ∀ j, s.jobOn d = some j → ((t.job? j.id).map (·.phase)) = some .ended) ∧
      (c.isFatal p.1 = false → ∀ (s5 : State) (ys : List Desc),
        (c.blamed p.1 code s2).formOuts c p.1 true (c.faultFlags code) = (s5, ys, true) →
        Completes (p.2 d ups) s fun t =>
          t.rd (lastCodeFld d g) = code ∧ ((t.die d).group g).fifo = (((s.plant ups).die d).group g).fifo.drop 1 ∧
          (∀ x, x < 8 → (t.die x).spad = (c.opened.die x).spad ∧ (t.die x).stack = (c.opened.die x).stack) ∧
          (∀ o ∈ ((t.die d).group g).outb, ∀ e ∈ o, e.token = false → e.void = true ∧ e.bytes = zeros 2048) ∧
          (∀ r, ((t.die d).group g).cur = some r → r.code = code ∧ r.void = true ∧
            ∀ k ∈ r.commits, (parseDesc k.desc).poison &&& faultFlag code = faultFlag code))) ∧
    ((c.txn.map (·.voided)).getD false = true → ∀ (s5 : State) (ys : List Desc),
      (c.opened.spendKey d p.1).formOuts c p.1 true c.flagsIn = (s5, ys, true) →
      Completes (p.2 d ups) s fun t =>
        (∀ x, x < 8 → (t.die x).spad = (c.opened.die x).spad ∧ (t.die x).stack = (c.opened.die x).stack) ∧
        t.rd (lastCodeFld d g) = s.rd (lastCodeFld d g) ∧
        ((t.die d).group g).fifo = (((s.plant ups).die d).group g).fifo.drop 1 ∧
        (∀ o ∈ ((t.die d).group g).outb, ∀ e ∈ o, e.token = false → e.void = true ∧ e.bytes = zeros 2048))

/-- R131, R127: what the residue operations compute, word by word, reduced modulo the prime of the word's limb: VADD, VSUB,
VNEG, VMUL and VMAC on queue operands; CTADD and CTSUB of ciphertexts of as many polynomials; CTTENSOR. -/
def Obligations.ResidueResults : Prop :=
  (∀ (c : Ctx) (i : Ins) (e : Nat), e < c.op.arg 1 → c.op.kind 1 = 0 → c.op.kind 2 = 0 →
    let ch := c.s.chainOf c.op.vChain
    let q := ch.prime (ch.ext c.vLevel (c.op.vFirst + c.vLimb e))
    let a := leNat (slice i.a (4 * e) 4)
    let b := leNat (slice i.b (4 * e) 4)
    let k := leNat (slice i.c (4 * e) 4)
    let out (spec : OpSpec) : Nat := leNat (slice ((spec.work c i).outs.getD 0 []) (4 * e) 4)
    1 < q → q < 2 ^ 32 → 4 * c.op.arg 1 ≤ i.a.length → 4 * c.op.arg 1 ≤ i.b.length → 4 * c.op.arg 1 ≤ i.c.length →
    (c.op.opc = 0x20 → out (vecSpec 0x20 2) = (a + b) % q) ∧
    (c.op.opc = 0x21 → (out (vecSpec 0x21 2) + b) % q = a % q ∧ out (vecSpec 0x21 2) < q) ∧
    (c.op.opc = 0x22 → (out (vecSpec 0x22 1) + a) % q = 0 ∧ out (vecSpec 0x22 1) < q) ∧
    (c.op.opc = 0x23 → out (vecSpec 0x23 2) = a * b % q) ∧
    (c.op.opc = 0x24 → out (vecSpec 0x24 3) = (a * b + k) % q)) ∧
  ∀ (c : Ctx) (i : Ins) (x y : Desc) (j l m n : Nat), c.x0 = some x → c.x1 = some y → x.polys = 2 → y.polys = 2 →
    j < 2 → l < x.level → m < x.M → n < x.N →
    let q := c.chain.prime l
    let at' (bs : List Byte) (j : Nat) : Nat := leNat (slice bs (4 * (((j * x.level + l) * x.M + m) * x.N + n)) 4)
    1 < q → q < 2 ^ 32 → 8 * (x.level * x.M * x.N) ≤ i.a.length → 8 * (x.level * x.M * x.N) ≤ i.b.length →
    at' (((addSpec 0x28 false).work c i).outs.getD 0 []) j = (at' i.a j + at' i.b j) % q ∧
    (at' (((addSpec 0x29 true).work c i).outs.getD 0 []) j + at' i.b j) % q = at' i.a j % q ∧
    at' ((tensorSpec.work c i).outs.getD 0 []) 0 = at' i.a 0 * at' i.b 0 % q ∧
    at' ((tensorSpec.work c i).outs.getD 0 []) 1 = (at' i.a 0 * at' i.b 1 + at' i.a 1 * at' i.b 0) % q ∧
    at' ((tensorSpec.work c i).outs.getD 0 []) 2 = at' i.a 1 * at' i.b 1 % q

/-- R32, R85–R87: with the seed vectors of R87 for a prime and its root, the transform that NTT computes on a limb of
coefficients puts at each position the evaluation value that R32 gives it, and the transform that INTT computes on that
limb gives the coefficients back. -/
def Obligations.TransformsExact : Prop :=
  ∀ (q ψ ω ninv logn : Nat) (v : List (List Nat)) (x : List Nat), 1 < q →
    let N1 := n1Of logn
    let N2 := n2Of logn
    let N := 2 ^ logn
    ψ ^ N % q = q - 1 → ψ * ω % q = 1 → N * ninv % q = 1 → SeedsAre q ψ ω ninv N1 N2 v → x.length = N → (∀ a ∈ x, a < q) →
    let y := limbTransform false q N1 N2 v x
    y.length = N ∧ (∀ p, p < N → y.getD p 0 = evalAt q ψ N (fun i => x.getD i 0) (evalIndex N1 N2 p)) ∧
      limbTransform true q N1 N2 v y = x

/-- R116, R159, R161, R169: AUT with an odd g moves evaluation index k′ to k where 2k′ + 1 = (2k + 1) × g mod 2N, fully
reduced, and no position is lost; RINGIFY of a sample and EXTRACT of coefficient 0 give the sample back; and the digits of a number in base
2^B are balanced and sum to it modulo 2^(B × l). -/
def Obligations.PermutationsAndSamples : Prop :=
  (∀ (q logn g p : Nat) (y : List Nat), 1 ≤ logn → g % 2 = 1 → p < 2 ^ logn → y.length = 2 ^ logn →
    let N1 := n1Of logn
    let N2 := n2Of logn
    let src := autSource N1 N2 g p
    src < 2 ^ logn ∧ (autLimb q N1 N2 g y).getD p 0 = y.getD src 0 % q ∧
      (2 * evalIndex N1 N2 src + 1) % (2 * 2 ^ logn) = (2 * evalIndex N1 N2 p + 1) * g % (2 * 2 ^ logn) ∧
      ∀ p', p' < 2 ^ logn → autSource N1 N2 g p' = src → p' = p) ∧
  (∀ (q N : Nat) (x : Lwe), 0 < N → x.a.length = N → (∀ a ∈ x.a, a < q) →
    extractAt q N 0 (fun k => (ringifyPoly q N 0 x).getD k 0) (fun k => (ringifyPoly q N 1 x).getD k 0) = x) ∧
  ∀ (B l t : Nat), 1 ≤ B →
    (∀ r ∈ balanced B l t, -(2 ^ (B - 1) : Int) ≤ r ∧ r < 2 ^ (B - 1)) ∧ (balanced B l t).length = l ∧
    (((balanced B l t).foldr (fun r acc => r + 2 ^ B * acc) 0 - (t : Int)) % (2 ^ (B * l) : Int) = 0)

/-! ### Fine operations, control cores and the key spool (R184–R188, R196–R200, R207, R208, R211, R232, R233, R145, R149) -/

/-- R131, R198: a fine operation on vectors that may run. It computes its function on each word and puts the result at its
destination, leaves its group's FIFO and completes: VADD to VMAC modulo the prime that its word names, FADD to FMIN in FP32
(or two BF16 elements to a word), FCVT, FPERMV through a permutation row with no invalid word, TSET. -/
def Obligations.FineVectors : Prop :=
  ∀ (s : State) (d : DieId) (op : Issued) (a b : List Nat) (s2 : State) (data : Bool),
    (∀ row ∈ fineModRows, FineReady s d 2 row.1 { dst := true, srcs := row.2.1, modOnly := true, keepsDst := row.2.2.1 } op a b s2 data →
      mapWf [] (s.die d).queues = true →
      Completes (row.2.2.2 d) s fun t => FineDone s t d 2 op ∧ ∃ xs, FineWrote s2 t d op xs data ∧ xs.length = a.length ∧
        ∀ e, e < a.length → xs.getD e 0 = modFn row.1 (s.finePrime op) (a.getD e 0) (b.getD e 0) ((oldDst s d op).getD e 0)) ∧
    (∀ row ∈ fineOpenRows, FineReady s d 2 row.1 { dst := true, srcs := 2, openOnly := true, keepsDst := row.2.1 } op a b s2 data →
      mapWf [] (s.die d).queues = true → op.fFormat ≤ 1 → s.on (R.PARS_CFG_OPEN_EN d) = true → s.on (R.PARS_CAPS_FP32 d) = true →
      (op.fFormat = 1 → s.on (R.PARS_CAPS_BF16 d) = true) →
      Completes (row.2.2 d) s fun t => FineDone s t d 2 op ∧ ∃ xs, FineWrote s2 t d op xs data ∧
        (op.fFormat = 0 → xs.length = a.length ∧ ∀ e, e < a.length →
          xs.getD e 0 = openFn row.1 (a.getD e 0) (b.getD e 0) ((oldDst s d op).getD e 0)) ∧
        xs = fineOpen row.1 op.fFormat (s.sel d (op.fSrc 0) == .scalar) (s.sel d (op.fSrc 1) == .scalar) a b (oldDst s d op)) ∧
    (FineReady s d 2 0x3E { dst := true, srcs := 1, openOnly := true } op a b s2 data → mapWf [] (s.die d).queues = true →
      fmtOk op.fFormat 0 = true → s.on (R.PARS_CFG_OPEN_EN d) = true → s.on (R.PARS_CAPS_FP32 d) = true →
      Completes (.fineFcvt d) s fun t => FineDone s t d 2 op ∧ FineWrote s2 t d op (wordsOf (fit 2048 (packElems (fmtBits op.fFormat)
        (a.map fun x => (storeElem op.fFormat 0 (dec32 x)).code)))) data) ∧
    (∀ n, FineReady s d 1 0x12 { dst := true, srcs := 2 } op a b s2 data → mapWf [] (s.die d).queues = true →
      s.sel d (op.fSrc 1) = .tile n → (op.fOpen = true → op.fFormat = 0) →
      (∀ w ∈ b, bits w 18 12 = 0 ∧ bits w 0 18 < 512 ∧ ¬(bitOf w 31 = true ∧ bitOf w 30 = true)) →
      Completes (.fpermv d) s fun t => FineDone s t d 1 op ∧ ∃ xs, FineWrote s2 t d op xs data ∧ xs.length = b.length ∧
        ∀ e, e < b.length → (bitOf (b.getD e 0) 30 = true → xs.getD e 0 = 0) ∧
          (bitOf (b.getD e 0) 30 = false → bitOf (b.getD e 0) 31 = false → xs.getD e 0 =
            (if op.fOpen then a.getD (bits (b.getD e 0) 0 18) 0 else a.getD (bits (b.getD e 0) 0 18) 0 % s.finePrime op))) ∧
    ∀ g : Fin 3, FineReady s d g 0x52 { dst := true, srcs := 1, mode := false, scalarOnly := true } op a b s2 data →
      Completes (.tset d g) s fun t => FineDone s t d g op ∧
        ∀ n, s.sel d op.fDst = .tile n → t.tileWords d n = List.replicate 512 (op.k1.headD 0 % 2 ^ 32) ∧ t.tileUsed d n = true

/-- R78, R82, R83, R198, R199: FLDS loads row IMM of the idle stationary register; FXCH asks for an exchange, which the next FROW
makes before it multiplies its row by the active register, whose rows a change of mode or configuration takes (R83); QMOVE and QDROP move and drop IMM entries, as far as there are
any; a fine operation whose word is not legal writes nothing and ends the job with RANGE. -/
def Obligations.FineLoadsAndMoves : Prop :=
  ∀ (s : State) (d : DieId) (op : Issued) (a b : List Nat) (s2 : State) (data : Bool),
    (FineReady s d 0 0x08 { dst := false, srcs := 1, imm := true, mode := false } op a b s2 data →
      mapWf [] (s.die d).statIdle = true →
      Completes (.flds d) s fun t => FineDone s t d 0 op ∧ (t.die d).idleRow op.fImm = a.map (· % 2 ^ 32) ∧
        (∀ r, r ≠ op.fImm → (t.die d).idleRow r = (s.die d).idleRow r) ∧
        (t.die d).statActive = (s.die d).statActive ∧ (t.die d).exchange = (s.die d).exchange) ∧
    (s.headFine d 0 0x09 = some op → s.fineWordOk d op { dst := false, srcs := 0, mode := false } = true →
      s.fineBarred d 0 op = false → s.fineStale d 0 op = false →
      Completes (.fxch d) s fun t => FineDone s t d 0 op ∧ (t.die d).exchange = true ∧ (t.die d).statActive = (s.die d).statActive ∧
        (t.die d).statIdle = (s.die d).statIdle) ∧
    (FineReady s d 0 0x0A { dst := true, srcs := 1 } op a b s2 data → mapWf [] (s.die d).queues = true → op.fOpen = false →
      let keeps := (s.die d).lastMode = none ∨ (s.die d).lastMode = some (0, 0)
      let row (r : Nat) : List Nat := (s.die d).streamRow r
      Completes (.frow d) s fun t => FineDone s t d 0 op ∧ (t.die d).exchange = false ∧
        ((s.die d).exchange = true → (t.die d).statActive = (s.die d).statIdle ∧ (keeps → (t.die d).statIdle = (s.die d).statActive)) ∧
        ((s.die d).exchange = false → (t.die d).statIdle = (s.die d).statIdle ∧
          (keeps → (t.die d).statActive = (s.die d).statActive)) ∧
        ∃ xs, FineWrote s2 t d op xs data ∧ xs.length = 512 ∧ ((s.die d).exchange = true ∨ keeps → ∀ k, k < 512 →
          xs.getD k 0 = sumTo 512 (fun r => a.getD r 0 * (row r).getD k 0) % s.finePrime op)) ∧
    (∀ g : Fin 3, s.headFine d g 0x50 = some op →
      s.fineWordOk d op { dst := true, srcs := 1, imm := true, mode := false, queueOnly := true } = true → 0 < op.fImm →
      s.fineBarred d g op = false → s.fineStale d g op = false → mapWf [] (s.die d).queues = true → op.fImm ≤ (s.queue d (op.fSrc 0)).length →
      (∀ e ∈ (s.queue d (op.fSrc 0)).take op.fImm, e.ct = false) → s.on (R.QCH_CFG_ENABLE d) = true →
      s.on (R.QCH_QSTAT_RCLOSED d op.fDst) = false → (s.queue d op.fDst).length + op.fImm ≤ s.rd (R.QCH_QCFG_CAP d op.fDst) →
      Completes (.qmove d g) s fun t => FineDone s t d g op ∧
        t.queue d op.fDst = s.queue d op.fDst ++ (s.queue d (op.fSrc 0)).take op.fImm ∧
        t.queue d (op.fSrc 0) = (s.queue d (op.fSrc 0)).drop op.fImm) ∧
    (∀ g : Fin 3, s.headFine d g 0x51 = some op →
      s.fineWordOk d op { dst := false, srcs := 1, imm := true, mode := false, queueOnly := true } = true → 0 < op.fImm →
      s.fineBarred d g op = false → s.fineStale d g op = false → mapWf [] (s.die d).queues = true → s.queue d (op.fSrc 0) ≠ [] →
      (∀ e ∈ (s.queue d (op.fSrc 0)).take op.fImm, e.ct = false) →
      Completes (.qdrop d g) s fun t => t.queue d (op.fSrc 0) = (s.queue d (op.fSrc 0)).drop op.fImm ∧
        (op.fImm ≤ (s.queue d (op.fSrc 0)).length → FineDone s t d g op) ∧
        ((s.queue d (op.fSrc 0)).length < op.fImm → ∃ op', ((t.die d).group g).fifo = op' :: ((s.die d).group g).fifo.drop 1 ∧
          op'.fImm = op.fImm - (s.queue d (op.fSrc 0)).length ∧ op'.ticket = op.ticket)) ∧
    ∀ row ∈ fineModRows, ∀ j, s.headFine d 2 row.1 = some op →
      s.fineWordOk d op { dst := true, srcs := row.2.1, modOnly := true, keepsDst := row.2.2.1 } = false → s.jobOn d = some j →
      (s.jobs.map (·.id)).Nodup →
      Completes (row.2.2.2 d) s fun t => t.rd (R.PARS_STATUS_LAST_CODE d) = Ev.RANGE ∧ (t.die d).tiles = (s.die d).tiles ∧
        ((t.job? j.id).map (·.phase)) = some .ended

/-- R181, R184–R186, R203, R204, R280, R481: a core's issue instructions. OPM and OPF whose group the core owns, at its level, with
nothing of the core's still in flight and room in the FIFO, put the captured operation behind the others and return its ticket,
and the slots that OPM's operation names as outputs are pending; a core that does not own the group gets NOT_OWNER and issues
nothing; OPWAIT returns the status word of a kept ticket; SUSTART queues a program in list order, SUFEED an offset that passes
the check of its program, one that does not ending the job with ALIGN or RANGE, and SUWAIT of a unit at rest returns the code of
its last fault. -/
def Obligations.CoresIssue : Prop :=
  ∀ (s : State) (d : DieId) (c : CoreId) (p : Progress) (rd rs1 rs2 : Fin 32), s.coreInJob d c = true → rd ≠ 0 →
    let s1 := s.progress d c p
    let k := (s1.die d).core c
    let Out (i : Instr) (v : Nat) (P : State → Prop) : Prop := Completes i s fun t =>
      ((t.die d).core c).reg rd = v ∧ ((t.die d).core c).pc = k.pc + 4 ∧ t.jobs = s.jobs ∧ P t
    (∀ g : Fin 4, s1.ownerOf d g = c.val → s.on (R.STRM_CFG_ENABLE d) = true → s1.settled d c = true →
      let x := (s.die d).group g
      x.fifo.length < 16 → x.nextTicket < 2 ^ 16 →
      (k.reg rs1 % 16 = 0 → k.reg rs1 < 2 ^ 18 → s1.inOrder d g (k.captureMacro c x.nextTicket (k.reg rs1)) = true →
        Out (.opm d c p (BitVec.ofNat 7 g) rd rs1) x.nextTicket fun t =>
          ((t.die d).group g).fifo = x.fifo ++ [{ k.captureMacro c x.nextTicket (k.reg rs1) with seq := (s.die d).issueSeq }] ∧
          ((t.die d).group g).nextTicket = nextTicket x.nextTicket ∧
          ∀ sl ∈ s1.outSlots (k.captureMacro c x.nextTicket (k.reg rs1)), (sl, d.val, g.val, x.nextTicket) ∈ t.pendSlots) ∧
      (s1.levelOf d g ≠ 0 →
        Out (.opf d c p (BitVec.ofNat 7 g) rd rs1 rs2) x.nextTicket fun t =>
          ((t.die d).group g).fifo =
            x.fifo ++ [{ k.captureFine c x.nextTicket (k.reg rs1) (k.reg rs2 % 2 ^ 32) with seq := (s.die d).issueSeq }] ∧
          ((t.die d).group g).nextTicket = nextTicket x.nextTicket)) ∧
    (∀ g : Fin 4, s1.ownerOf d g ≠ c.val → ∀ i, (i = .opm d c p (BitVec.ofNat 7 g) rd rs1 ∨ i = .opf d c p (BitVec.ofNat 7 g) rd rs1 rs2) →
      Out i (2 ^ 63 + 1) fun t => ∀ n, (t.die d).group n = (s.die d).group n) ∧
    (∀ (g : Fin 4) (w : Nat), ((s1.die d).group g).statusOf (k.reg rs1 % 2 ^ 16) = some w → w < 2 ^ 64 →
      Out (.opwait d c p (BitVec.ofNat 7 g) rd rs1) w fun t => ∀ n, (t.die d).group n = (s.die d).group n) ∧
    ∀ u, u < 16 → k.reg rs1 = u → s1.settled d c = true →
      (s1.ownerOf d (u / 4) = c.val → s.on (R.STRM_CFG_ENABLE d) = true → s.rd (R.SU_PROGBASE_HANDLE d) ≠ nullHandle →
        (((s.die d).sunit u).waiting.length < 8 → s1.startInOrder d u (k.reg rs2) = true →
          Out (.sustart d c p 0 rd rs1 rs2) 0 fun t =>
            ((t.die d).sunit u).waiting = ((s.die d).sunit u).waiting ++ [k.reg rs2] ∧
            ((t.die d).sunit u).starts = ((s.die d).sunit u).starts + 1 ∧ bitOf (t.rd (R.SU_BUSY_BUSY d)) u = true) ∧
        (s1.arrivalFault d u (k.reg rs2) = none →
          Out (.sufeed d c p 0 rd rs1 rs2) 0 fun t =>
            ((t.die d).sunit u).feeds = ((s.die d).sunit u).feeds ++ [k.reg rs2]) ∧
        ∀ idx code h j, s1.arrivalFault d u (k.reg rs2) = some (idx, code, h) → s.jobOn d = some j → (s.jobs.map (·.id)).Nodup →
          Completes (.sufeed d c p 0 rd rs1 rs2) s fun t => t.rd (R.SU_FAULT_UNIT d) = u ∧
            t.rd (R.SU_FAULT_CODE d) = code % 2 ^ (R.SU_FAULT_CODE d).w ∧ t.ended j.id) ∧
      (((s.die d).sunit u).waiting = [] → ((s.die d).sunit u).prog = none → ((s.die d).sunit u).failed < 2 ^ 64 →
        Out (.suwait d c p 0 rd rs1) ((s.die d).sunit u).failed fun t => ∀ n, (t.die d).sunit n = (s.die d).sunit n)

/-- R207, R211, R229, R232, R233: LBAR holds a core at a barrier; the barrier completes for all cores of its mask at once,
STRM_LAYER advances and each core gets its value, and entries that a fine-level group leaves are held against the job; the next segment goes into the bank that is not active, and a load that names the active bank is
refused with IMEM_ACTIVE; at a boundary with the next segment loaded the banks swap, registers and data memory unchanged;
ECALL with a7 = 0 marks the core's part of the job ended; a service user halts a core, whose groups' operations restart, and
resumes it. -/
def Obligations.CoresSynchronise : Prop :=
  ∀ (s : State) (d : DieId) (c : CoreId),
    (∀ (p : Progress) (rd rs1 : Fin 32), s.coreInJob d c = true → (s.progress d c p).settled d c = true →
      Completes (.lbar d c p 0 rd rs1) s fun t =>
        ((t.die d).core c).atBarrier = some ((((s.progress d c p).die d).core c).reg rs1 % 256 + 256 * rd.val) ∧
        t.jobs = s.jobs ∧ ∀ n, (t.die d).group n = (s.die d).group n) ∧
    (∀ mask : BitVec 8, (s.jobOn d).isSome = true → s.barrierReady d mask.toNat = true →
      Completes (.layerBarrier d mask) s fun t =>
        t.rd (R.STRM_LAYER_COUNT d) = (s.rd (R.STRM_LAYER_COUNT d) + 1) % 2 ^ (R.STRM_LAYER_COUNT d).w ∧
        (∀ n, n < 8 → bitOf mask.toNat n = true → ((t.die d).core n).atBarrier = none ∧ ((t.die d).core n).pc = ((s.die d).core n).pc + 4) ∧
        (∀ n b, n < 8 → bitOf mask.toNat n = true → ((s.die d).core n).atBarrier = some b → 256 ≤ b → b < 256 * 32 →
          ((t.die d).core n).reg (b / 256) = t.rd (R.STRM_LAYER_COUNT d)) ∧
        (s.leavesEntries d ((List.range 8).filter (bitOf mask.toNat)) = true → (t.die d).leftover = true) ∧
        ∀ n, n < 8 → bitOf mask.toNat n = false → (t.die d).core n = (s.die d).core n) ∧
    (∀ (bank : Fin 2) (j : Job), s.jobOn d = some j → bitOf (s.rd (R.CHIVE_RUN_RUN d)) c = true →
      (∀ seg : List Byte, (s.segments d c)[((s.die d).core c).seg + 1]? = some seg → ((s.die d).core c).segReady = false →
        s.activeBank d c ≠ bank.val →
        Completes (.segmentPrefetch d c bank) s fun t => ((t.die d).core c).segReady = true ∧
          (if bank.val = 0 then ((t.die d).core c).bank0 else ((t.die d).core c).bank1) = seg ∧
          (if bank.val = 0 then ((t.die d).core c).bank1 = ((s.die d).core c).bank1 else ((t.die d).core c).bank0 = ((s.die d).core c).bank0) ∧
          t.regs = s.regs) ∧
      (s.activeBank d c = bank.val →
        Completes (.segmentPrefetch d c bank) s fun t => t.rd R.EVT_LAST_CODE = Ev.IMEM_ACTIVE ∧ (t.die d).core c = (s.die d).core c)) ∧
    (∀ p : Progress, s.coreInJob d c = true → (((s.progress d c p).die d).core c).reg 17 = 1 →
      Completes (.ecallSegmentEnd d c p) s fun t => ((t.die d).core c).atBoundary = true ∧ t.jobs = s.jobs) ∧
    (∀ (p : Progress) (j : Job), s.coreInJob d c = true → (((s.progress d c p).die d).core c).reg 17 = 0 → s.jobOn d = some j →
      (s.jobs.map (·.id)).Nodup →
      Completes (.ecallJobEnd d c p) s fun t => ((t.die d).core c).ended = true ∧
        ((t.job? j.id).map fun k => bitOf k.coresEnded (8 * d.val + c.val)) = some true) ∧
    (((s.die d).core c).atBoundary = true → ((s.die d).core c).segReady = true → (s.jobOn d).isSome = true →
      Completes (.bankSwap d c) s fun t => t.activeBank d c = 1 - s.activeBank d c ∧
        (t.die d).core c = { (s.die d).core c with atBoundary := false, segReady := false, seg := ((s.die d).core c).seg + 1, pc := 0x40000 } ∧
        (∀ n, n < 8 → n ≠ c.val → t.activeBank d n = s.activeBank d n)) ∧
    (s.on R.SEC_STATE_SERVICE = true → s.inServ d = true → ((s.die d).core c).debugHalt = false →
      Completes (.debugHalt d c) s fun t => ((t.die d).core c).debugHalt = true ∧ bitOf (t.rd (R.CHIVE_STATUS_HALTED d)) c = true ∧
        (∀ n, n < 4 → s.ownerOf d n = c.val → ((t.die d).group n).cur = none ∧
          ((t.die d).group n).fifo = ((((s.die d).group n).cur.map (·.op)).toList ++ ((s.die d).group n).fifo)) ∧
        ∀ n, n < 4 → s.ownerOf d n ≠ c.val → (t.die d).group n = (s.die d).group n) ∧
    (s.on R.SEC_STATE_SERVICE = true → ((s.die d).core c).debugHalt = true →
      Completes (.debugResume d c) s fun t => ((t.die d).core c).debugHalt = false ∧
        (c.val < 7 → bitOf (s.rd (R.CHIVE_RUN_RUN d)) c = true → bitOf (t.rd (R.CHIVE_STATUS_HALTED d)) c = false))

/-- R145, R149: Dill's snapshot of the next key-order entry takes the header slots of the entry's region, and a row fetch reads
the next DCOUNT rows ahead while the buffer of 256 rows has room, or takes them as they were fetched before the entry was
served; once an entry's rows are all there, it reads those of the next later entry that has some left. Neither changes a stored
byte that holds no error, and an access waits while its stack issues none. -/
def Obligations.KeysStreamed : Prop :=
  ∀ (s0 : State) (d : DieId) (ctx : Fin 2) (ups : List Upset) (e : KeyRef),
    let s := s0.plant ups
    let x := s.dillCtx d ctx
    let rowsOf (h B dmax i : Nat) (l : List RowAt) : List DillRow :=
      l.map fun r => { entry := i, bytes := s.peek h (rowOff B dmax r) 2048, ue := false }
    let cleanRows (h B dmax : Nat) (l : List RowAt) : Prop := ∀ r ∈ l, s.clean h (rowOff B dmax r) 2048
    let waits (h B dmax : Nat) (l : List RowAt) : Bool := l.any fun r => s.accessWaits h (rowOff B dmax r) 2048
    s.keyEntry d ctx = some e →
    (s.handleOk e.handle = true → x.active = false → s.accessWaits e.handle 0 (64 * min e.dcount 8) = false →
      s.clean e.handle 0 (64 * min e.dcount 8) →
      Completes (.dillEntrySnapshot d ctx ups) s0 fun t =>
        (t.dillCtx d ctx).active = true ∧ (t.dillCtx d ctx).ueSeen = false ∧ (t.dillCtx d ctx).fetched = 0 ∧
        (t.dillCtx d ctx).snap = chunks 64 (s.peek e.handle 0 (64 * min e.dcount 8)) ∧ (t.dillCtx d ctx).ahead = x.ahead ∧
        t.regs = s.regs ∧ s.SameStore t) ∧
    (s.accessWaits e.handle 0 (64 * min e.dcount 8) = true → exec (.dillEntrySnapshot d ctx ups) s0 = .next s) ∧
    (x.active = true →
      let r := s.entryRows d ctx e
      let next := (r.2.2.drop (x.fetched / 2)).take e.dcount
      let i := s.koNext d ctx
      let mine := x.ahead.filter fun k => k.entry = i
      (next ≠ [] → x.buffered + 2 * e.dcount ≤ 256 → waits e.handle r.1 r.2.1 next = false →
        (mine.length < next.length → cleanRows e.handle r.1 r.2.1 next) →
        Completes (.dillRowFetch d ctx ups) s0 fun t =>
          (t.dillCtx d ctx).fetched = x.fetched + 2 * next.length ∧ (t.dillCtx d ctx).buffered = x.buffered + 2 * next.length ∧
          (t.dillCtx d ctx).snap = x.snap ∧ t.regs = s.regs ∧ s.SameStore t ∧
          (t.dillCtx d ctx).rows =
            x.rows ++ (if mine.length < next.length then rowsOf e.handle r.1 r.2.1 i next else mine.take next.length)) ∧
      (next = [] → ∀ k e' B dmax l, s.laterRows d ctx = some (k, e', B, dmax, l) →
        x.buffered + 2 * (x.ahead.length + l.length) ≤ 256 → waits e'.handle B dmax l = false → cleanRows e'.handle B dmax l →
        Completes (.dillRowFetch d ctx ups) s0 fun t =>
          (t.dillCtx d ctx).ahead = x.ahead ++ rowsOf e'.handle B dmax k l ∧ (t.dillCtx d ctx).rows = x.rows ∧
          (t.dillCtx d ctx).buffered = x.buffered ∧ t.regs = s.regs ∧ s.SameStore t))

/-! ### Stream units and the accesses of cores (R180, R201–R206, R209, R250–R254, R279–R285, R342) -/

/-- R202–R206, R281: a program that passes the checks reaches its unit's head with its record; one that does not is recorded in
SU_FAULT and ends the job. A read transfer appends the bytes of its range to what the unit holds, as entries of 2,048 bytes
and a rest, in order; a write transfer within the die stores the bytes of the entries it draws on, and nothing else; one to other
dies puts those bytes on their way, on the unit's channel, and stores nothing yet; an offset that was fed and does not fit, or an
entry that may not land, ends the job. -/
def Obligations.StreamUnits : Prop :=
  ∀ (s0 : State) (d : DieId) (u : Fin 16) (ups : List Upset) (j : Job),
    let s := s0.plant ups
    s.jobOn d = some j →
    let x := (s.die d).sunit u
    (∀ idx rest, x.waiting = idx :: rest → x.prog = none →
      let h := s.rd (R.SU_PROGBASE_HANDLE d)
      s.handleOk h = true → 64 * idx + 64 ≤ s.hLen h → s.clean h (64 * idx) 64 →
      let b := s.peek h (64 * idx) 64
      (s.progFault d b = none →
        Completes (.streamProgramStart d u ups) s0 fun t =>
          ((t.die d).sunit u).prog = some (idx, b) ∧ ((t.die d).sunit u).waiting = rest ∧ ((t.die d).sunit u).made = 0 ∧
          t.regs = s.regs ∧ s.SameStore t) ∧
      (∀ code, s.progFault d b = some code → (s.jobs.map (·.id)).Nodup →
        Completes (.streamProgramStart d u ups) s0 fun t =>
          t.rd (R.SU_FAULT_UNIT d) = u ∧ t.rd (R.SU_FAULT_CODE d) = code ∧ t.ended j.id)) ∧
    ∀ idx rec' off, x.prog = some (idx, rec') →
      let p := parseProg rec'
      let go := if p.dir = 0 then x.mayRead p else s.mayWriteOut d u p
      let fed := p.feed = true → s.feedFault p (off - p.base) = none
      x.nextOff p = some off → go = true → s.accessWaits p.handle off p.xbytes = false → s.memWf = true →
      (∀ code, p.feed = true → s.feedFault p (off - p.base) = some code → (s.jobs.map (·.id)).Nodup →
        Completes (.streamTransfer d u ups) s0 fun t => t.rd (R.SU_FAULT_UNIT d) = u ∧ t.rd (R.SU_FAULT_CODE d) = code ∧ t.ended j.id) ∧
      (p.dir ≠ 0 → fed → s.mayLand p.handle (x.used? p.xbytes) = false → (s.jobs.map (·.id)).Nodup →
        Completes (.streamTransfer d u ups) s0 fun t =>
          t.rd (R.SU_FAULT_UNIT d) = u ∧ t.rd (R.SU_FAULT_CODE d) = Ev.RANGE ∧ t.ended j.id) ∧
      (p.dir = 0 → fed → s.hTorn p.handle = false → s.clean p.handle off p.xbytes →
        Completes (.streamTransfer d u ups) s0 fun t =>
          let y := (t.die d).sunit u
          (y.ents.flatMap (·.bytes)) ++ y.rest = (x.ents.flatMap (·.bytes)) ++ x.rest ++ s.peek p.handle off p.xbytes ∧
          y.rest.length < 2048 ∧ y.made = x.made + 1 ∧ t.jobs = s.jobs ∧ s.SameStore t ∧
          (∀ f, f.key ≠ (R.SU_BYTES_COUNT d).key → t.rd f = s.rd f)) ∧
      (p.dir ≠ 0 → fed → s.mayLand p.handle (x.used? p.xbytes) = true → (∀ e ∈ x.used? p.xbytes, e.void = false) →
        let bytes := slice (x.ents.flatMap fun e => fit 2048 e.bytes) x.used p.xbytes
        let Kept (t : State) : Prop := t.jobs = s.jobs ∧
          ∀ f, f.key ≠ (R.SU_BYTES_COUNT d).key → f.key ≠ (R.SU_BUSY_BUSY d).key → t.rd f = s.rd f
        ((∀ k, k < p.xbytes → (s.place p.handle (off + k)).die = d.val) → s.spread p.handle off p.xbytes →
          Completes (.streamTransfer d u ups) s0 fun t =>
            t.peek p.handle off p.xbytes = bytes ∧ s.StoredBut t p.handle off p.xbytes ∧ t.flights = s.flights ∧ Kept t) ∧
        ((∀ k, k < p.xbytes → (s.place p.handle (off + k)).die ≠ d.val) →
          Completes (.streamTransfer d u ups) s0 fun t => s.SameStore t ∧ Kept t ∧
            ∃ fs, t.flights = s.flights ++ fs ∧ fs.flatMap (·.bytes) = bytes ∧
              ∀ f ∈ fs, f.handle = p.handle ∧ f.chan = 1 + u.val ∧ f.isSealed = false))

/-- R209, R250, R255, R268, R279–R282, R293: a core's loads and stores. In its private data memory they read and write the bytes
there. A permitted load of error-free
bytes of a handle returns them, extended, and a load of a queue's status word returns its bytes; a permitted store on the core's own die
lands at once, or is refused with a trap where it is narrow and its word cannot be corrected; on another die it is issued and
lands later, a sealed store is held, and one to a descriptor slot or to the request port below its last word is staged; an access that R209 does not
allow traps and ends the job; FENCE retires once everything of the core has landed, and until then changes nothing. -/
def Obligations.CoreAccesses : Prop :=
  ∀ (s0 : State) (d : DieId) (c : CoreId) (p : Progress) (addr : Word64) (w : AccessWidth) (ups : List Upset), s0.coreInJob d c = true →
    let s := s0.plant ups
    let s1 := s.progress d c p
    let k := (s1.die d).core c
    let n := w.bytes
    let len := s1.accessLen d c
    let r1 := s0.progress d c p
    let Traps (i : Instr) (cause : Nat) : Prop := ∀ j, s.jobOn d = some j → (s.jobs.map (·.id)).Nodup → Completes i s0 fun t =>
      t.rd (R.CHIVE_TRAP_CAUSE d) = cause ∧ t.rd (R.CHIVE_TRAP_CORE d) = c ∧ t.rd (R.CHIVE_TRAP_EPC d) = k.pc % 2 ^ 32 ∧
      t.ended j.id
    (addr.toNat + n ≤ 2 ^ 18 → mapWf (0 : Byte) k.dmem = true →
      (∀ (rd : Fin 32) (g : Bool), Completes (.windowLoad d c p rd addr w g ups) s0 fun t =>
        Retired s t d c k len rd (loadExt n g (leNat (mapBytes k.dmem addr.toNat n)) % 2 ^ 64) ∧ s.SameStore t) ∧
      ∀ rs2 : Fin 32, Completes (.windowStore d c p rs2 addr w ups) s0 fun t => Retired s t d c k len 0 0 ∧ s.SameStore t ∧
        mapBytes ((t.die d).core c).dmem addr.toNat n = leBytes n (k.reg rs2)) ∧
    (∀ (h o : Nat) (rd : Fin 32) (g : Bool), regionOf addr.toNat = .window h o → s1.mayLoad h o n = true →
      s1.mustWait d c h o n = false → s1.clean h o n →
      Completes (.windowLoad d c p rd addr w g ups) s0 fun t =>
        Retired s t d c k len rd (loadExt n g (leNat (s1.peek h o n)) % 2 ^ 64) ∧ s.SameStore t) ∧
    (∀ (q o : Nat) (rd : Fin 32) (g : Bool), regionOf addr.toNat = .status q o → o + n ≤ 8 →
      Completes (.windowLoad d c p rd addr w g ups) s0 fun t =>
        Retired s t d c k len rd (loadExt n g (bits (s1.statusWord d q) (8 * o) (8 * n)) % 2 ^ 64) ∧ s.SameStore t) ∧
    (∀ (rd : Fin 32) (g : Bool), 2 ^ 18 < addr.toNat + n → (¬∃ h o, regionOf addr.toNat = .window h o ∧ s1.mayLoad h o n = true) →
      (¬∃ q o, regionOf addr.toNat = .status q o ∧ o + n ≤ 8) → Traps (.windowLoad d c p rd addr w g ups) Trap.loadFault) ∧
    (∀ rs2 : Fin 32, 2 ^ 18 < addr.toNat + n → (regionOf addr.toNat = .outside ∨ ∃ h o, regionOf addr.toNat = .window h o ∧ s1.mayStore h o n = false) →
      Traps (.windowStore d c p rs2 addr w ups) Trap.storeFault) ∧
    (∀ (o : Nat) (rs2 : Fin 32), regionOf addr.toNat = .port o → n = 8 → o % 8 = 0 → o < 0x38 →
      Completes (.windowStore d c p rs2 addr w ups) s0 fun t => Retired s t d c k len 0 0 ∧ s.SameStore t ∧
        ((t.die d).core c).remote = k.remote.setIfInBounds (o / 8) (BitVec.ofNat 64 (k.reg rs2))) ∧
    (∀ (h o : Nat) (rs2 : Fin 32), regionOf addr.toNat = .window h o → s1.mayStore h o n = true → s1.hAttr h Attr.DESC = true →
      o % 64 + n ≤ 0x38 →
      Completes (.windowStore d c p rs2 addr w ups) s0 fun t => Retired s t d c k len 0 0 ∧ s.SameStore t ∧
        ((t.die d).core c).stageRef = some (slotRef h o) ∧
        ((t.die d).core c).staging = (k.stage (slotRef h o) (o % 64) (leBytes n (k.reg rs2))).staging) ∧
    (∀ (h o : Nat) (rs2 : Fin 32), regionOf addr.toNat = .window h o → s1.mayStore h o n = true → s1.hAttr h Attr.DESC = false →
      s1.mustWait d c h o n = false → s.memWf = true →
      ((s1.place h o).die = d.val → s1.narrowUe h o n = false → s1.spread h o n →
        Completes (.windowStore d c p rs2 addr w ups) s0 fun t =>
          Retired s t d c k len 0 0 ∧ t.peek h o n = leBytes n (k.reg rs2) ∧ s.StoredBut t h o n) ∧
      ((s1.place h o).die = d.val → s1.narrowUe h o n = true → Traps (.windowStore d c p rs2 addr w ups) Trap.storeFault) ∧
      ((s1.place h o).die ≠ d.val →
        Completes (.windowStore d c p rs2 addr w ups) s0 fun t =>
          Retired s t d c k len 0 0 ∧ s.SameStore t ∧ ∃ f, t.flights = s.flights ++ [f] ∧ f.mid = coreMid d c ∧ f.chan = 0 ∧
            f.handle = h ∧ f.off = o ∧ f.bytes = leBytes n (k.reg rs2) ∧ f.isSealed = false)) ∧
    (∀ (h o : Nat) (rs2 : Fin 32), regionOf addr.toNat = .sealedWin h o → 4 ≤ n → o % n = 0 → r1.mayStore h o n = true →
      r1.hAttr h Attr.DESC = false → r1.mustWait d c h o n = false → r1.sealPend (r1.place h o).die < 32 →
      Completes (.sealedStore d c p rs2 addr w) s0 fun t =>
        Retired s0 t d c ((r1.die d).core c) (r1.accessLen d c) 0 0 ∧ s0.SameStore t ∧ ∃ f, t.flights = s0.flights ++ [f] ∧
          f.mid = coreMid d c ∧ f.chan = 0 ∧ f.handle = h ∧ f.off = o ∧
          f.bytes = leBytes n (((r1.die d).core c).reg rs2) ∧ f.isSealed = true) ∧
    (r1.settled d c = true → (∀ q ∈ s0.fab.posts, ¬(q.die = d.val ∧ q.core = c.val)) →
      Completes (.fence d c p) s0 fun t => Retired s0 t d c ((r1.die d).core c) 4 0 0 ∧ s0.SameStore t) ∧
    (r1.settled d c = false → exec (.fence d c p) s0 = .next s0)

/-- R283, R284: each scoped atomic on permitted, aligned, error-free bytes returns the old value, sign-extended, and leaves
in memory what its row gives: the sum, the larger signed or unsigned operand, rs2, or rs2 where the old value equals rd's.
No other byte of storage changes. On any other address it traps and ends the job. -/
def Obligations.ScopedAtomics : Prop :=
  ∀ (s0 : State) (d : DieId) (c : CoreId) (p : Progress) (rd rs1 rs2 : Fin 32) (scope : Fin 4) (wide : Bool) (ups : List Upset),
    s0.coreInJob d c = true →
    let s := s0.plant ups
    let s1 := s.progress d c p
    let k := (s1.die d).core c
    let n := if wide then 8 else 4
    let Allowed (h o : Nat) : Prop := regionOf (k.reg rs1) = .window h o ∧ o % n = 0 ∧ s1.mayLoad h o n = true ∧
      s1.mayStore h o n = true ∧ s1.hAttr h Attr.DESC = false
    ((¬∃ h o, Allowed h o) → ∀ j, s.jobOn d = some j → (s.jobs.map (·.id)).Nodup →
      ∀ i ∈ [Instr.samoAdd d c p rd rs1 rs2 scope wide ups, .samoMax d c p rd rs1 rs2 scope wide ups,
        .samoMaxu d c p rd rs1 rs2 scope wide ups, .samoSwap d c p rd rs1 rs2 scope wide ups, .samoCas d c p rd rs1 rs2 scope wide ups],
        Completes i s0 fun t => t.rd (R.CHIVE_TRAP_CAUSE d) = Trap.storeFault ∧ t.ended j.id) ∧
    ∀ h o, Allowed h o → s1.mustWait d c h o n = false →
      (1 ≤ scope.val → ∀ f ∈ s.flights, f.mid ≠ coreMid d c) →
      (scope.val = 3 → ∀ q ∈ s.fab.posts, ¬(q.die = d.val ∧ q.core = c.val)) → s1.clean h o n → s1.spread h o n → s.memWf = true →
      let old := leNat (s1.peek h o n)
      let b := k.reg rs2 % 2 ^ (8 * n)
      let Does (i : Instr) (new : Nat) : Prop := Completes i s0 fun t =>
        Retired s t d c k 4 rd (loadExt n true old % 2 ^ 64) ∧ t.peek h o n = leBytes n new ∧ s.StoredBut t h o n
      Does (.samoAdd d c p rd rs1 rs2 scope wide ups) ((old + b) % 2 ^ (8 * n)) ∧
      Does (.samoMax d c p rd rs1 rs2 scope wide ups) (if toSigned (8 * n) old < toSigned (8 * n) b then b else old) ∧
      Does (.samoMaxu d c p rd rs1 rs2 scope wide ups) (max old b) ∧
      Does (.samoSwap d c p rd rs1 rs2 scope wide ups) b ∧
      Does (.samoCas d c p rd rs1 rs2 scope wide ups) (if old = k.reg rd % 2 ^ (8 * n) then b else old)

/-- R250: the store of a slot's last word creates a tensor that passes the checks: the slot holds exactly the 64 bytes; one
that fails is recorded in SPAD_TDFAULT, leaves the slot not valid and stores nothing; one of another TYPE, or to a slot that is
not free, is refused with RANGE and changes nothing. -/
def Sys2Proof.Claims.TensorsCreated : Prop :=
  ∀ (s : State) (d : DieId) (c : CoreId) (p : Progress) (addr value : Word64) (ref : Nat) (b : List Byte), s.coreInJob d c = true →
    let s1 := s.progress d c p
    let at_ := 64 * (ref / 2 ^ 16)
    s1.slotCommit d c addr.toNat value.toNat = some (ref, b) → s.memWf = true → b.length = 64 → s1.spread (refHandle ref) at_ 64 →
    (leAt b 0 1 ≠ 0x11 → leAt b 0 1 ≠ 0x10 ∨ s1.slotFree ref = false →
      Completes (.tensorCreate d c p addr value) s fun t =>
        t.rd (R.SPAD_TDFAULT_CODE d) = Ev.RANGE ∧ t.rd (R.SPAD_TDFAULT_HANDLE d) = refHandle ref ∧ t.badSlots = s.badSlots ∧
        s.SameStore t) ∧
    (leAt b 0 1 = 0x10 → s1.slotFree ref = true → s1.tensorFault b = none →
      Completes (.tensorCreate d c p addr value) s fun t =>
        Retired s t d c ((s1.die d).core c) (s1.accessLen d c) 0 0 ∧ t.peek (refHandle ref) at_ 64 = b ∧
        s.StoredBut t (refHandle ref) at_ 64 ∧ ref ∉ t.badSlots) ∧
    (∀ code, leAt b 0 1 = 0x10 → s1.slotFree ref = true → s1.tensorFault b = some code →
      Completes (.tensorCreate d c p addr value) s fun t =>
        t.rd (R.SPAD_TDFAULT_CODE d) = code ∧ t.rd (R.SPAD_TDFAULT_HANDLE d) = refHandle ref ∧ ref ∈ t.badSlots ∧ s.SameStore t)

/-- R251, R252, R279: a copy that passes its checks is written to its slot and queued on the copy unit of the slot's die, unless
an outstanding access of the core meets either range or the two do not fit beside those outstanding; one that fails is recorded,
leaves the slot not valid and stores nothing. -/
def Sys2Proof.Claims.CopiesRequested : Prop :=
  ∀ (s : State) (d : DieId) (c : CoreId) (p : Progress) (addr value : Word64) (ref : Nat) (b : List Byte), s.coreInJob d c = true →
    let s1 := s.progress d c p
    let at_ := 64 * (ref / 2 ^ 16)
    let src := s1.copySource (parseT b).src
    let e := hDie (refHandle ref)
    let held := 15 ≤ s1.outstanding d c ∨ s1.trackedTensor d c (parseT b) = true ∨ s1.trackedTensor d c (parseT src) = true
    s1.slotCommit d c addr.toNat value.toNat = some (ref, b) → s1.slotFree ref = true → s.memWf = true → b.length = 64 →
    leAt b 0 1 = 0x11 → s1.spread (refHandle ref) at_ 64 →
    (s1.copyFault b src = none → ¬held →
      Completes (.copyRequest d c p addr value) s fun t =>
        Retired s t d c ((s1.die d).core c) (s1.accessLen d c) 0 0 ∧ t.peek (refHandle ref) at_ 64 = b ∧
        s.StoredBut t (refHandle ref) at_ 64 ∧
        (t.die e).copies = (s.die e).copies ++
          [({ ref := ref, mid := coreMid d c, dst := b, src := src, at_ := (s.die e).time } : CopyJob)]) ∧
    (s1.copyFault b src = none → held → exec (.copyRequest d c p addr value) s = .next s) ∧
    (∀ code, s1.copyFault b src = some code →
      Completes (.copyRequest d c p addr value) s fun t =>
        t.rd (R.SPAD_TDFAULT_CODE d) = code ∧ ref ∈ t.badSlots ∧ s.SameStore t ∧ ∀ x, (t.die x).copies = (s.die x).copies)

/-- R251, R253, R254, R262: a copy at the head of a die's copy unit, of elements of 8 bits or more without block scales, whose
bytes hold no error and whose stacks issue accesses: when it has run, every element of the destination holds the source's code,
CSTAT says done and the destination is not TORN. -/
def Sys2Proof.Claims.CopiesRun : Prop :=
  ∀ (s0 : State) (d : DieId) (ups : List Upset) (j : CopyJob) (js : List CopyJob),
    let s := s0.plant ups
    (s.die d).copies = j :: js → s.memWf = true → j.done = 0 → j.fault = 0 →
    let dst := parseT j.dst
    let src := parseT j.src
    let at_ := 64 * (j.ref / 2 ^ 16)
    dst.blk = 0 → src.blk = 0 → src.bits = dst.bits → 8 ≤ dst.bits → src.count = dst.count → j.dst.length = 64 →
    s.hTorn src.handle = false →
    (∀ o n, s.accessWaits src.handle o n = false ∧ s.accessWaits dst.handle o n = false) →
    (∀ i, i < src.count → s.clean src.handle (src.addr i).toNat (src.bits / 8) ∧ s.clean dst.handle (dst.addr i).toNat (dst.bits / 8)) →
    (∀ i i' k k', i < dst.count → i' < dst.count → k < dst.bits / 8 → k' < dst.bits / 8 →
      s.spot dst.handle ((dst.addr i).toNat + k) ≠ s.spot src.handle ((src.addr i').toNat + k') ∧
      (s.spot dst.handle ((dst.addr i).toNat + k) = s.spot dst.handle ((dst.addr i').toNat + k') → i = i' ∧ k = k')) →
    (∀ i k k', i < dst.count → k < dst.bits / 8 → k' < 64 →
      s.spot dst.handle ((dst.addr i).toNat + k) ≠ s.spot (refHandle j.ref) (at_ + k')) →
    s.spread (refHandle j.ref) at_ 64 →
    Completes (.copyRun d ups) s0 fun t =>
      (t.die d).copies = js ∧ t.hTorn dst.handle = false ∧
      (∀ i, i < dst.count → t.peek dst.handle (dst.addr i).toNat (dst.bits / 8) = s.peek src.handle (src.addr i).toNat (src.bits / 8)) ∧
      slice (t.peek (refHandle j.ref) at_ 64) 0x3C 4 = leBytes 4 (cstat 0)

/-- R250–R254, R262, R279: descriptor slots and copies. -/
def Obligations.TensorsAndCopies : Prop := Claims.TensorsCreated ∧ Claims.CopiesRequested ∧ Claims.CopiesRun

/-- R342, R344, R345: a store to the request port's last word posts the staged record: a plain or sealed write takes the next
write number of its core, destination and channel, an atomic the next request number, and the core goes on. A record that
its table does not allow is completed at once with RANGE in the core's data memory and posts nothing. A core that has 16
requests posted waits. -/
def Obligations.RemoteRequests : Prop :=
  ∀ (s : State) (d : DieId) (c : CoreId) (p : Progress) (value : Word64), s.coreInJob d c = true →
    let s1 := s.progress d c p
    let k := (s1.die d).core c
    let len := s1.accessLen d c
    let b := k.record value.toNat
    let r := parseRemote b
    let posted := (s1.fab.posts.filter fun q => q.die = d.val && q.core = c.val).length
    ∀ i, (i = .remoteWrite d c p value ∧ (r.op = 0 ∨ r.op = 3)) ∨ (i = .remoteSealedWrite d c p value ∧ r.op = 1) ∨
      (i = .remoteAtomic d c p value ∧ r.op = 2) →
      (16 ≤ posted → exec i s = .next s) ∧
      (posted < 16 → (∀ q ∈ s.fab.posts, q.sent = true) → (s1.retireAccess d c 0 0).remoteOk b = true →
        (r.op ≠ 2 → s1.clean r.srch r.soff r.len) →
        Completes i s fun t => Retired s t d c k len 0 0 ∧ s.SameStore t ∧
          ∃ q, t.fab.posts = s.fab.posts ++ [q] ∧ q.die = d.val ∧ q.core = c.val ∧ q.rec' = b ∧
            q.num = (if r.op = 2 then s.fab.reqNo % 2 ^ 32 else mapGet 0 s.fab.wseq (wseqKey (coreMid d c) r.dest r.ach) % 2 ^ 32)) ∧
      (posted < 16 → (s1.retireAccess d c 0 0).remoteOk b = false → r.res % 8 = 0 → r.res + 16 ≤ 2 ^ 18 →
        mapWf (0 : Byte) k.dmem = true →
        Completes i s fun t => Retired s t d c k len 0 0 ∧ t.fab.posts = s.fab.posts ∧ s.SameStore t ∧
          mapBytes ((t.die d).core c).dmem r.res 8 = leBytes 8 (1 + Ev.RANGE * 2 ^ 16))

/-! ### The fabric (R328–R347, R394, R395, R454) -/

/-- R16, R338–R345: what an accepted frame does. ENTRY: in its turn its plain entries enter the bound queue in order and its
credit is spent. WRITE: a permitted plain write stores its payload and no other byte, a sealed one is held, or dropped where its
die holds 32. ATOMIC: the home word becomes what the operation gives and the reply, with the old value, is kept for a duplicate.
A WRITE or an ATOMIC that its destination refuses stores nothing and raises RANGE. WACK and AREPLY: the request they name
completes in its core's data memory, with the atomic's old value. CREDIT: the member's credit grows. CLOSE: the member is
closed and its discarded entries are counted. -/
def Obligations.FramesReceived : Prop :=
  ∀ (s : State) (p : Fin 8) (frame : List Byte) (h : Hdr) (pay : List Byte), s.memWf = true →
    (∀ i b, s.rxFrame p frame Ft.ENTRY = .frame h pay → s.rxBinding h = some i → mapFind s.fab.binds i = some b →
      b.closed = false → h.nent ≤ b.credit → b.die < 8 → mapWf [] (s.die b.die).queues = true → mapRises 0 s.fab.binds = true →
      h.psn = (s.conn h.src).rxCum → (s.conn h.src).early = [] → (s.conn h.src).rxSeen.length < 1023 → pay.length = 2056 * h.nent →
      (∀ k, k < h.nent → leAt pay (2056 * k) 8 < 2) → s.on (R.QCH_QSTAT_RCLOSED b.die (s.rd (R.FAB_RXTAB_RQ i))) = false →
      Completes (.rxEntry p frame) s fun t =>
        t.queue b.die (s.rd (R.FAB_RXTAB_RQ i)) = s.queue b.die (s.rd (R.FAB_RXTAB_RQ i)) ++
          ((List.range h.nent).map fun k =>
            ({ bytes := slice pay (2056 * k + 8) 2048, dataT := leAt pay (2056 * k) 8 == 1 } : QEntry)) ∧
        ((mapFind t.fab.binds i).map (·.credit)) = some (b.credit - h.nent) ∧ (t.conn h.src).received h.psn = true) ∧
    (s.rxFrame p frame Ft.WRITE = .frame h pay → s.accessWaits h.handle h.off h.len = false → pay.length = h.len →
      let refused := s.remoteRefusal h.smid h.handle h.off h.len false ≠ 0
      (refused → Completes (.rxWrite p frame) s fun t =>
        s.SameStore t ∧ t.fab.held = s.fab.held ∧ t.rd R.EVT_LAST_CODE = Ev.RANGE) ∧
      (¬refused → h.isSealed = 0 → s.narrowUe h.handle h.off h.len = false → s.spread h.handle h.off h.len →
        Completes (.rxWrite p frame) s fun t =>
          t.peek h.handle h.off h.len = pay ∧ s.StoredBut t h.handle h.off h.len ∧ t.jobs = s.jobs) ∧
      let home := (s.place h.handle h.off).die
      (¬refused → h.isSealed ≠ 0 → 32 ≤ s.sealPend home → Completes (.rxWrite p frame) s fun t => s.SameStore t ∧
        t.fab.held = s.fab.held ∧ t.fab.conns = s.fab.conns ∧ t.rd (R.FAB_DROP_COUNT 11) = (s.rd (R.FAB_DROP_COUNT 11) + 1) % 2 ^ 64) ∧
      (¬refused → h.isSealed ≠ 0 → s.sealPend home < 32 →
        Completes (.rxWrite p frame) s fun t => s.SameStore t ∧
          t.fab.held = s.fab.held ++ [({ epid := h.src, port := p, smid := h.smid, ach := h.ach, wseq := h.wseq, handle := h.handle,
                                         off := h.off, bytes := pay, at_ := (s.die home).time } : HeldWrite)])) ∧
    (s.rxFrame p frame Ft.ATOMIC = .frame h pay →
      let n := if h.aw64 = 1 then 8 else 4
      let old := leNat (s.peek h.handle h.off n)
      let reply (code v : Nat) : Nat × List Byte :=
        (h.psn, ({ type := Ft.AREPLY, ach := code, smid := h.smid, wseq := h.wseq, aux := v } : Hdr).toBytes)
      s.accessWaits h.handle h.off n = false →
      (s.remoteRefusal h.smid h.handle h.off n true ≠ 0 → Completes (.rxAtomic p frame) s fun t =>
        s.SameStore t ∧ t.rd R.EVT_LAST_CODE = Ev.RANGE ∧ (t.conn h.src).replies.getLast? = some (reply Ev.RANGE 0)) ∧
      (s.remoteRefusal h.smid h.handle h.off n true = 0 → s.clean h.handle h.off n → s.spread h.handle h.off n →
      Completes (.rxAtomic p frame) s fun t =>
        t.peek h.handle h.off n = leBytes n (samoNew h.aop (8 * n) old h.aux (leNat pay)) ∧
        s.StoredBut t h.handle h.off n ∧ (t.conn h.src).replies.getLast? = some (reply 0 old))) ∧
    (∀ q, s.rxFrame p frame Ft.WACK = .frame h pay → (s.accept h).postOf h.src h.smid (h.aux / 2 ^ 32) false h.ach = some q →
      q.die < 8 → q.core < 8 → mapWf (0 : Byte) ((s.die q.die).core q.core).dmem = true → (∀ x ∈ s.fab.posts, x.sent = true) →
      Completes (.rxWack p frame) s fun t => q ∉ t.fab.posts ∧
        mapBytes ((t.die q.die).core q.core).dmem (parseRemote q.rec').res 8 = leBytes 8 (1 + h.aux % 2 ^ 16 * 2 ^ 16)) ∧
    (∀ q, s.rxFrame p frame Ft.AREPLY = .frame h pay → (s.accept h).postOf h.src h.smid h.wseq true 0 = some q →
      q.die < 8 → q.core < 8 → mapWf (0 : Byte) ((s.die q.die).core q.core).dmem = true → (∀ x ∈ s.fab.posts, x.sent = true) →
      Completes (.rxAreply p frame) s fun t => q ∉ t.fab.posts ∧
        mapBytes ((t.die q.die).core q.core).dmem (parseRemote q.rec').res 16 =
          leBytes 8 (1 + h.ach * 2 ^ 16) ++ leBytes 8 h.aux) ∧
    (s.rxFrame p frame Ft.CREDIT = .frame h pay →
      Completes (.rxCredit p frame) s fun t => t.regs = s.regs ∧ t.dies = s.dies ∧
        t.fab.mems = s.fab.mems.map fun m => if m.epid = h.src ∧ s.rd (R.QCH_CHTAB0_ACH m.die m.ch) = h.ach ∧
          s.rd (R.QCH_CHTAB1_RQ m.die m.ch) = h.rq then { m with credit := m.credit + h.aux } else m) ∧
    (∀ m ∈ s.fab.mems, s.rxFrame p frame Ft.CLOSE = .frame h pay → m.epid = h.src → s.rd (R.QCH_CHTAB0_ACH m.die m.ch) = h.ach →
      Completes (.rxClose p frame) s fun t => s.SameStore t ∧ (∀ x ∈ t.fab.mems, x.die = m.die → x.ch = m.ch → x.epid = m.epid → x.closed = true) ∧
        t.on (R.QCH_QSTAT_PEER_CLOSED m.die (s.rd (R.QCH_CHTAB0_SQ m.die m.ch))) = true ∧
        ((s.fab.mems.filter fun x => x.epid = h.src && s.rd (R.QCH_CHTAB0_ACH x.die x.ch) = h.ach) = [m] →
          let f := R.QCH_QSTAT_DISCARDED m.die (s.rd (R.QCH_CHTAB0_SQ m.die m.ch))
          t.rd f = min (2 ^ f.w - 1) (s.rd f + h.aux)))

/-- R5, R337: a frame whose frame check sequence is wrong is counted under cause 10 and does nothing else, whichever row it came
by; one whose form check 1 refuses, a reserved bit that is set among others, is counted under cause 1, raises FAB_FRAME_DROP and
RANGE where none was raised for that cause in the last 1,000 µs, and stores nothing; on a port that carries no frames nothing
happens at all. -/
def Obligations.FramesChecked : Prop :=
  ∀ (s : State) (p : Fin 8) (frame : List Byte) (i : Instr), (i = .rxEntry p frame ∨ i = .rxWrite p frame ∨ i = .rxAtomic p frame ∨
      i = .rxWack p frame ∨ i = .rxAreply p frame ∨ i = .rxCredit p frame ∨ i = .rxClose p frame ∨ i = .rxAck p frame ∨
      i = .keyxInit p frame ∨ i = .keyxResp p frame ∨ i = .keyxDone p frame) →
    (s.portsUp.contains p.val = false → exec i s = .next s) ∧
    (s.portsUp.contains p.val = true → frame.drop (frame.length - 4) ≠ fcs (frame.take (frame.length - 4)) →
      Completes i s fun t => t.rd (R.FAB_DROP_COUNT 10) = (s.rd (R.FAB_DROP_COUNT 10) + 1) % 2 ^ 64 ∧
        (∀ f, f.key ≠ (R.FAB_DROP_COUNT 10).key → t.rd f = s.rd f) ∧ t = { s with regs := t.regs }) ∧
    (s.portsUp.contains p.val = true → frame.drop (frame.length - 4) = fcs (frame.take (frame.length - 4)) → 4 ≤ frame.length →
      frame.length ≤ 9216 → s.ethOk p frame = true → frameFormOk ((frame.take (frame.length - 4)).drop s.ethLen) = false →
      Completes i s fun t => t.rd (R.FAB_DROP_COUNT 1) = (s.rd (R.FAB_DROP_COUNT 1) + 1) % 2 ^ 64 ∧ s.SameStore t ∧
        t.jobs = s.jobs ∧ t.fab.conns = s.fab.conns ∧ (mapFind s.fab.dropAt 1 = none → t.rd R.EVT_LAST_CODE = Ev.RANGE))

/-- R335, R336, R344: an ACK lets go of the frames that it covers; the ACK timer sends an ACK of what has been received; a
frame not acknowledged in time is sent again or, after RETRIES + 1 sendings, its peer is lost and nothing to it is held any
more; a held sealed write lands once every earlier write of its source and channel has. -/
def Obligations.TransportTimers : Prop :=
  ∀ (s : State),
    (∀ (p : Fin 8) (frame : List Byte) (h : Hdr) (pay : List Byte), s.rxHead p frame Ft.ACK = .frame h pay → s.memWf = true →
      Completes (.rxAck p frame) s fun t => s.SameStore t ∧
        ((s.conn h.src).spent = false → ∀ f ∈ (t.conn h.src).unacked, ackCovers (bits h.aux 0 24) (bits h.aux 24 32) f.psn = false)) ∧
    (∀ epid : BitVec 17, (s.conn epid.toNat).ackCnt ≠ 0 → (s.conn epid.toNat).ackAt + 2000 ≤ s.time →
      Completes (.ackTimer epid) s fun t => (t.conn epid.toNat).ackCnt = 0 ∧ (t.conn epid.toNat).unacked = (s.conn epid.toNat).unacked ∧
        t.regs = s.regs ∧ t.dies = s.dies) ∧
    (∀ (epid : BitVec 17) (psn : BitVec 24) (f : TxFrame), (s.conn epid.toNat).unacked.find? (fun f => f.psn = psn.toNat) = some f →
      f.at_ + s.rd R.FAB_RTO_RTO_US * 1000 ≤ s.time →
      (f.sends ≤ s.rd R.FAB_RTO_RETRIES →
        Completes (.retransmitTimeout epid psn) s fun t => t.jobs = s.jobs ∧ t.dies = s.dies ∧
          (t.conn epid.toNat).unacked.map (·.psn) = (s.conn epid.toNat).unacked.map (·.psn) ∧
          ∀ x ∈ (t.conn epid.toNat).unacked, x.psn = psn.toNat → x.at_ = s.time) ∧
      (s.rd R.FAB_RTO_RETRIES < f.sends →
        Completes (.retransmitTimeout epid psn) s fun t => (t.conn epid.toNat).unacked = [] ∧
          (∀ q ∈ t.fab.posts, leAt q.rec' 0 8 % 2 ^ 17 ≠ epid.toNat) ∧ (∀ w ∈ t.fab.held, w.epid ≠ epid.toNat) ∧
          ∀ m ∈ t.fab.mems, m.epid = epid.toNat → m.closed = true)) ∧
    (∀ (i : Nat) (f : Flight), (s.flights.filter (·.isSealed))[i]? = some f → s.memWf = true →
      f.chan = 0 → (∀ g ∈ s.flights, g.mid = f.mid → g.chan = f.chan → f.seq ≤ g.seq) → s.handleOk f.handle = true →
      f.off + f.bytes.length ≤ s.hLen f.handle → s.accessWaits f.handle f.off f.bytes.length = false →
      s.cutClean f.handle f.off f.bytes.length → s.spread f.handle f.off f.bytes.length →
      Completes (.sealedWriteLand i) s fun t => t.peek f.handle f.off f.bytes.length = f.bytes ∧
        s.StoredBut t f.handle f.off f.bytes.length ∧ f ∉ t.flights ∧ t.regs = s.regs) ∧
    ∀ (i : Nat) (w : HeldWrite), (s.flights.filter (·.isSealed)).length ≤ i →
      s.fab.held[i - (s.flights.filter (·.isSealed)).length]? = some w →
      ((mapGet (0, []) (s.conn w.epid).landed (lanedKey w.smid w.ach)).1 ≠ w.wseq → exec (.sealedWriteLand i) s = .next s) ∧
      ((mapGet (0, []) (s.conn w.epid).landed (lanedKey w.smid w.ach)).1 = w.wseq → s.memWf = true →
        s.accessWaits w.handle w.off w.bytes.length = false →
        s.remoteRefusal w.smid w.handle w.off w.bytes.length false = 0 → s.narrowUe w.handle w.off w.bytes.length = false →
        s.spread w.handle w.off w.bytes.length →
        Completes (.sealedWriteLand i) s fun t => t.peek w.handle w.off w.bytes.length = w.bytes ∧
          s.StoredBut t w.handle w.off w.bytes.length ∧ w ∉ t.fab.held)

/-- R329, R334, R394, R454: a trusted INIT is answered with RESP and the exchange kept; a RESP to the part's own INIT and a DONE
to its own RESP that verify give the peer its session key; an INIT not answered in 5 ms is sent again, and after 20 sendings
the peer is lost; a lane's fault degrades a port to its other half or takes it down; a trained port in service comes up. -/
def Obligations.SessionsAndPorts : Prop :=
  ∀ (s : State) (p : Fin 8),
    (∀ (frame : List Byte) (h : Hdr) (b r pay : List Byte) (s1 s2 s3 : State), s.rxHead p frame Ft.KEYX = .frame h b →
      leAt b 0 1 = 1 → s.kxForm 1 b = true → s.keyx? h.src = none → s.kxTrusted h.src [] b = (true, s1) → s1.draw 64 = some (r, s2) →
      s2.kxSeal b (kxBody 2 h.src (r.take 32) (ecPub (scalarOf (r.drop 32))) s2.akChain) = (some pay, s3) →
      Completes (.keyxInit p frame) s fun t => ∃ k, t.keyx? h.src = some k ∧ k.initiator = false ∧ k.init = b ∧ k.resp = pay ∧
        k.secret = scalarOf (r.drop 32) ∧ t.fab.keys = s.fab.keys ∧ t.dies = s.dies) ∧
    (∀ (frame : List Byte) (h : Hdr) (b key pay : List Byte) (k : Keyx) (s1 s2 s3 : State) (n : Nat),
      s.rxHead p frame Ft.KEYX = .frame h b → leAt b 0 1 = 2 → s.kxForm 2 b = true → s.keyx? h.src = some k → k.initiator = true →
      s.kxTrusted h.src k.init b = (true, s1) → s1.kxAgree k k.init b (kxPub b) = (some key, s2) →
      s2.kxSeal (k.init ++ b) (kxBody 3 h.src (kxNonce k.init) (kxPub k.init) []) = (some pay, s3) → s.peerEntry h.src = some n →
      h.src < 2 ^ 17 →
      Completes (.keyxResp p frame) s fun t => t.peerKey h.src = some key) ∧
    (∀ (frame : List Byte) (h : Hdr) (b key : List Byte) (k : Keyx) (c : Config.Chain) (s1 s2 : State) (n : Nat),
      s.rxHead p frame Ft.KEYX = .frame h b → leAt b 0 1 = 3 → s.kxForm 3 b = true → s.keyx? h.src = some k → k.initiator = false →
      Config.chainOf (kxChain k.init) = some c → s.verify c.ak (kxSig b) (k.init ++ k.resp ++ kxSigned b) = (true, s1) →
      s1.kxAgree k k.init k.resp (kxPub k.init) = (some key, s2) → s.peerEntry h.src = some n → h.src < 2 ^ 17 →
      Completes (.keyxDone p frame) s fun t => t.peerKey h.src = some key) ∧
    (∀ (epid : BitVec 17) (k : Keyx), s.keyx? epid.toNat = some k → k.initiator = true → k.at_ + 5000000 ≤ s.time →
      (k.sends < 20 → Completes (.keyxInitResend epid) s fun t =>
        t.keyx? epid.toNat = some { k with sends := k.sends + 1, at_ := s.time } ∧ t.regs = s.regs ∧ t.dies = s.dies) ∧
      (20 ≤ k.sends → Completes (.keyxInitResend epid) s fun t => t.keyx? epid.toNat = none)) ∧
    (∀ lane : Fin 8, bitOf (s.rd R.FAB_CAPS_PORTS) p = true → bitOf (s.rd (R.FAB_PORT_LANE_OK p)) lane = true →
      (s.on (R.FAB_PORT_DEGRADED p) = false ∨ s.rd (R.FAB_PORT_HALF p) = lane.val / 4) →
      Completes (.laneFault p lane) s fun t => bitOf (t.rd (R.FAB_PORT_LANE_OK p)) lane = false ∧ t.on (R.FAB_PORT_UP p) = false ∧
        (halfOk (s.rd (R.FAB_PORT_LANE_OK p)) (1 - lane.val / 4) = true → t.on (R.FAB_PORT_DEGRADED p) = true ∧
          t.rd (R.FAB_PORT_HALF p) = 1 - lane.val / 4 ∧ t.rd R.FAB_CAPS_PORTS = s.rd R.FAB_CAPS_PORTS) ∧
        (halfOk (s.rd (R.FAB_PORT_LANE_OK p)) (1 - lane.val / 4) = false → bitOf (t.rd R.FAB_CAPS_PORTS) p = false) ∧ t.fab = s.fab) ∧
    (bitOf (s.rd R.FAB_CAPS_PORTS) p = true → s.on (R.FAB_PORT_UP p) = false → s.rd R.SEC_STATE_STAGE ≠ 0 →
      Completes (.portUp p) s fun t => t.on (R.FAB_PORT_UP p) = true ∧ t.dies = s.dies)

/-! ### Jobs and images (R215–R237, R311–R319, R409–R412) -/

/-- R53, R409, R412, R317, R313, R462: what becomes of a JOB entry read in its turn. One whose fields or argument block break the rules,
or whose image or inputs do not pass step 1 of R235, is refused with RANGE; one not decided 90 µs after its doorbell time with
ADMIT_LATE; one not fetched in 50 µs with STALL; one whose zero seed cannot be drawn with TRNG_FAIL; one that does not fit the
armed replay with RANGE; one that meets the STOP with DEADLINE_AT_RISK; one whose computed finish lies
past its budget with ADMIT_BUDGET; and every refusal leaves the jobs and the horizons as they were, is kept in ADM_LAST,
disarms a replay, and completes at stage 0 with the time since the doorbell. A JOB that passes is admitted: it waits with the
next number on the dies of its slot, their horizons stand at its finish, and its completion carries its number. -/
def Obligations.JobsDecided : Prop :=
  ∀ (s0 : State) (r : Fin 64) (entry args : List Byte) (ups : List Upset),
    let s := s0.plant ups
    s.hostUp = true → s.mayRead r 2 = true → mapWf (0 : Byte) s.hostMem = true →
    let s1 := (s.readEntry r entry).1
    let e := (s.readEntry r entry).2
    let door := s.doorTime r
    let Refused (code : Nat) (t : State) : Prop := t.jobs.map (fun j => (j.id, j.phase)) = s.jobs.map (fun j => (j.id, j.phase)) ∧
      (∀ d : Fin 8, t.rd (R.ADM_HORIZON_TIME d) = s.rd (R.ADM_HORIZON_TIME d)) ∧ t.rd R.ADM_LAST_CODE = code ∧
      t.rd R.ADM_LAST_TAG = e.tag ∧ t.on R.RPL_ARM_EN = false ∧ t.rd (R.SQ_STATE_HEAD r) = e.sqHead ∧ s.SameStore t ∧
      Posted s t r e.tag 1 e.sqHead { stage := 0, code := code, result := s.time - door }
    (door + 50000 ≤ s.time → Completes (.entryFetchTimeout r entry) s (Refused Ev.STALL)) ∧
    (s.time < door + 90000 → s1.jobEntryOk e = false ∨ parseArgs args (e.q 0x18) = none →
      Completes (.job r entry args ups) s0 (Refused Ev.RANGE)) ∧
    ∀ a : JobArgs, s1.jobEntryOk e = true → parseArgs args (e.q 0x18) = some a →
      (door + 90000 ≤ s.time → Completes (.admitLate r entry args) s (Refused Ev.ADMIT_LATE)) ∧
      (s.time < door + 90000 → s1.imageOk e a = false → Completes (.job r entry args ups) s0 (Refused Ev.RANGE)) ∧
      (s.time < door + 90000 → s1.imageOk e a = true → s1.seedOf a.seed = none →
        Completes (.job r entry args ups) s0 (Refused Ev.TRNG_FAIL)) ∧
      ∀ (seed : List Byte) (s2 s3 : State) (ok : Bool) (hs : List Nat), s.time < door + 90000 → s1.imageOk e a = true →
        s1.seedOf a.seed = some (seed, s2) → s2.checkInputs (s1.image e.slot) s2.armed a.inputs = (s3, ok, hs) →
        let dies := mapGet [] s.slotDies e.slot
        let finish := s3.finishOf dies door (imgCpSteps (s.image e.slot))
        let replays := (s2.armed.map fun c => replayArgsOk c { a with seed := seed }).getD true
        (ok = false ∨ replays = false → Completes (.job r entry args ups) s0 (Refused Ev.RANGE)) ∧
        (ok = true → replays = true → s3.on R.ADM_STATE_STOP = true ∨ s3.on R.ADM_CFG_ENABLE = false →
          Completes (.job r entry args ups) s0 (Refused Ev.DEADLINE_AT_RISK)) ∧
        (ok = true → replays = true → s3.on R.ADM_STATE_STOP = false → s3.on R.ADM_CFG_ENABLE = true →
          (e.q 8 ≠ 0 → door + e.q 8 < finish → Completes (.job r entry args ups) s0 (Refused Ev.ADMIT_BUDGET)) ∧
          (e.q 8 = 0 ∨ finish ≤ door + e.q 8 → Completes (.job r entry args ups) s0 fun t =>
            t.jobs.map (·.id) = s.jobs.map (·.id) ++ [s.nextJob] ∧ t.nextJob = s.nextJob + 1 ∧
            (∃ j ∈ t.jobs, j.id = s.nextJob ∧ j.tag = e.tag ∧ j.phase = .waiting ∧ j.slot = e.slot ∧ j.dieMap = dies ∧
              j.seed = seed ∧ j.tDoor = door ∧ j.finish = finish ∧ j.cq = s.rd (R.SQ_CFG_CQ r) ∧
              j.replayOf = (s2.armed.map (·.job)).getD 0 ∧ j.deadline = if e.q 8 = 0 then 0 else door + e.q 8) ∧
            (∀ d ∈ dies, t.rd (R.ADM_HORIZON_TIME d) = finish % 2 ^ 64) ∧ s.SameStore t ∧
            Posted s t r e.tag 1 e.sqHead { stage := 0, result := s.time - door, jobId := s.nextJob }))

/-- R235 steps 2 and 3, R208, R462, R476: a job whose turn has not come stays as it is; one whose turn has come and whose buffers and
regions find room runs: on each of its dies every core with code stands at its first instruction with its registers zero and
is released, no other core runs, the engines are enabled and locked with nothing issued, no transaction is open, and the key
orders and the layer count stand at zero. A replay whose restored inputs do not give the captured digests ends. (Where the loader's own regions lie, and when a job waits for room, are the
model's choices: log 64, 72, 73.) -/
def Obligations.JobsStart : Prop :=
  ∀ (s0 : State) (j : Job) (job : BitVec 48) (ups : List Upset),
    let s := s0.plant ups
    s.job? job.toNat = some j →
    (s.jobTurn j = false → exec (.jobStart job ups) s0 = .next s0) ∧
    ∀ s1 : State, s.jobTurn j = true → j.dieMap.Nodup → (∀ d ∈ j.dieMap, d < 8) →
      s.rxRoom (s.image j.slot) = true → s.configJob j (s.image j.slot) = some s1 →
      let cap := if j.replayOf = 0 then none else s1.captures.find? fun c => c.job = j.replayOf
      let idigs := ((match cap with | some c => s1.restoreAll j c | none => s1).hashInputs j).2.2
      (∀ c, cap = some c → c.idigs ≠ idigs → (s.jobs.map (·.id)).Nodup → Completes (.jobStart job ups) s0 fun t => t.ended j.id) ∧
      ((∀ c, cap = some c → c.idigs = idigs) →
      Completes (.jobStart job ups) s0 fun t => (t.job? job.toNat).map (·.phase) = some .running ∧
        ∀ i d, j.dieMap[i]? = some d →
          (∀ c, c < 7 → bitOf (t.rd (R.CHIVE_RUN_RUN d)) c = imgHas (s.image j.slot) Sec.CODE i c) ∧
          (∀ c, c < 7 → imgHas (s.image j.slot) Sec.CODE i c = true →
            ((t.die d).core c).pc = 0x40000 ∧ (∀ n, n < 32 → ((t.die d).core c).x[n]? = some 0) ∧ ((t.die d).core c).ended = false ∧
            ((t.die d).core c).seg = 0) ∧
          t.rd (R.BASIL_CFG_ENABLE d) = t.rd (R.BASIL_CAPS_PRESENT d) ∧ t.on (R.BASIL_CFG_LOCK d) = true ∧
          (t.die d).groups = Vector.replicate 4 {} ∧ (t.die d).txns = [] ∧ t.rd (R.DILL_ORDER_NEXT0 d) = 0 ∧
          t.rd (R.DILL_ORDER_NEXT1 d) = 0 ∧ t.rd (R.STRM_LAYER_COUNT d) = 0)

/-- R235 steps 4 to 6, R236, R237, R319, R322, R365: a job whose work is not done goes on; one whose work is done ends, completed
where the invariants of R236 hold, else failed with JOB_INVARIANT and entered in Sage's table of failed jobs, or Sage is frozen;
its record in host memory says which, and its completion follows (that the stream units are idle too is the model's
inference, log 75; the completion code 0 of a job that an ABORT ends is its choice, log 70). An ABORT that names a live job ends that job alone; one that
names none completes with ABORT_LATE, and one whose fields R313 or R322 does not allow with RANGE. -/
def Obligations.JobsEnd : Prop :=
  ∀ s : State, mapWf (0 : Byte) s.hostMem = true →
    (∀ (j : Job) (job : BitVec 48) (ups : List Upset), s.job? job.toNat = some j → j.phase = .running → j.cq < 64 →
      (∀ d ∈ j.dieMap, d < 8) →
      (s.workDone j = false → exec (.jobComplete job ups) s = .next s) ∧
      (s.workDone j = true → j.recAddr + 18 ≤ s.complOn j.cq ∨ s.complOn j.cq + 32 ≤ j.recAddr →
        Completes (.jobComplete job ups) s fun t => t.ended j.id ∧
          mapBytes t.hostMem (j.recAddr + 8) 8 = leBytes 8 j.id ∧
          leNat (mapBytes t.hostMem (j.recAddr + 16) 2) % 4 = (if s.jobDone j then 0 else 2) ∧
          (s.jobDone j = false → t.sage.failed.contains (j.id % 2 ^ 32) = true ∨ t.on R.SAGE_STATE_FROZEN = true) ∧
          ∃ k : Compl, k.stage = 1 ∧ k.aborted = false ∧ k.code = (if s.jobDone j then 0 else Ev.JOB_INVARIANT) ∧
            k.result = s.time - j.tDoor ∧ k.jobId = j.id ∧ PostedOn s t j.cq j.ring j.tag 1 j.sqHead k)) ∧
    ∀ (r : Fin 64) (entry : List Byte), s.hostUp = true → s.mayRead r 1 = true →
      let s1 := (s.readEntry r entry).1
      let e := (s.readEntry r entry).2
      let formOk := s1.entryOk e && e.kind = 6 && decide (e.q 8 < 64) && decide (e.q 0x10 < 2 ^ 32) && e.q 0x18 = 0 && e.q 0x20 = 0 &&
        e.q 0x28 = 0 && e.q 0x30 = 0 && (e.q 8 = r.val || s.on (R.SQ_CFG_ABORT_ANY r))
      (formOk = false → Completes (.abort r entry) s fun t => t.jobs.map (fun k => (k.id, k.phase)) = s.jobs.map (fun k => (k.id, k.phase)) ∧
        s.SameStore t ∧ t.rd R.EVT_LAST_CODE = Ev.RANGE ∧ (e.kind ≠ 1 → Posted s t r e.tag e.kind e.sqHead { code := Ev.RANGE })) ∧
      (formOk = true → ∀ j, s.jobs.find? (fun j => j.live && j.ring = e.q 8 && j.tag = e.q 0x10) = some j →
        (s.jobs.map (·.id)).Nodup → (∀ d ∈ j.dieMap, d < 8) →
        Completes (.abort r entry) s fun t => t.rd (R.SQ_STATE_HEAD r) = e.sqHead ∧
          (j.cq ≠ s.rd (R.SQ_CFG_CQ r) → Posted s t r e.tag 6 e.sqHead {}) ∧
          t.jobs.map (fun k => (k.id, k.phase)) = s.jobs.map fun k => (k.id, if k.id = j.id then .ended else k.phase)) ∧
      (formOk = true → s.jobs.find? (fun j => j.live && j.ring = e.q 8 && j.tag = e.q 0x10) = none →
        Completes (.abort r entry) s fun t => t.jobs = s.jobs ∧ t.dies = s.dies ∧ t.rd R.EVT_LAST_CODE = s.rd R.EVT_LAST_CODE ∧
          Posted s t r e.tag 6 e.sqHead { code := Ev.ABORT_LATE })

/-- R222, R234, R246, R313: a LOAD entry that the rules accept and whose slot no admitted job refers to empties the slot and
puts the image before the verifier, with no completion yet; any other LOAD raises RANGE and completes with it. The verifier
takes the landed image away: an accepted one occupies its slot with its dies and its handles, and the completion's RESULT is
the first 8 bytes of its digest; a rejected one occupies no slot, LDR_LAST tells the first check that failed, and the
completion carries its code. -/
def Obligations.ImagesLoaded : Prop :=
  ∀ s : State, mapWf (0 : Byte) s.hostMem = true →
    (∀ (r : Fin 64) (entry image : List Byte), s.hostUp = true → s.mayRead r 1 = true →
      let s1 := (s.readEntry r entry).1
      let e := (s.readEntry r entry).2
      let free := s.storeThere && !s.slotInUse e.slot && !(s.landings.any fun l => l.slot = e.slot)
      let formOk := s1.entryOk e && e.kind = 2 && e.q 8 = 0 && aligned64 (e.q 0x10) && bits (e.q 0x18) 32 32 = 0 && e.q 0x20 = 0 &&
        e.q 0x28 = 0 && e.q 0x30 = 0 && decide (bits (e.q 0x18) 0 32 ≤ 2 ^ 28)
      (formOk = true → free = true → mapRises 0 s.images = true →
        Completes (.load r entry image) s fun t => mapFind t.images e.slot = none ∧ bitOf (t.rd R.LDR_SLOTS_VALID) e.slot = false ∧
          t.hostMem = s.hostMem ∧
          t.landings = s.landings ++ [({ slot := e.slot, ring := r, tag := e.tag, sqHead := e.sqHead, image := fit (bits (e.q 0x18) 0 32) image,
                                         cq := s.rd (R.SQ_CFG_CQ r) } : Landing)]) ∧
      ((formOk && free) = false →
        Completes (.load r entry image) s fun t => t.images = s.images ∧ t.landings = s.landings ∧ t.rd R.EVT_LAST_CODE = Ev.RANGE ∧
          (e.kind ≠ 1 → Posted s t r e.tag e.kind e.sqHead { code := Ev.RANGE }))) ∧
    ∀ (slot : Fin 16) (l : Landing), s.landings.find? (fun l => l.slot = slot.val) = some l → l.cq < 64 →
      let s0 : State := { s with landings := s.landings.filter fun k => k.slot != slot.val }
      (∀ a, s0.verifyImage l = .ok a → Completes (.imageVerify slot) s fun t => t.landings = s0.landings ∧
        mapFind t.images slot = some a.img ∧ mapFind t.slotDies slot = some a.dies ∧ mapFind t.slotBufs slot = some a.hs ∧
        bitOf (t.rd R.LDR_SLOTS_VALID) slot = true ∧
        PostedOn s t l.cq l.ring l.tag 2 l.sqHead { result := leAt (imgDigest l.image) 0 8 }) ∧
      ∀ code off, s0.verifyImage l = .error (code, off) → Completes (.imageVerify slot) s fun t =>
        t.landings = s0.landings ∧ t.images = s.images ∧ t.chains = s.chains ∧ t.dies = s.dies ∧ t.rd R.LDR_LAST_CODE = code ∧
        t.rd R.LDR_LAST_SLOT = slot.val ∧ t.rd R.LDR_LAST_OFFSET = off % 2 ^ 32 ∧ t.rd R.EVT_LAST_CODE = code ∧
        PostedOn s t l.cq l.ring l.tag 2 l.sqHead { code := code }

/-! ### The release gate and the security processor (R348–R400) -/

/-- R139, R140, R377, R384–R386: what the requests of mailbox channel 0 do. A request whose fields R384 does not allow is refused
with RANGE, and a package whose signature fails with SIG_BAD, and nothing else changes. An accepted share moves EPOCH to its
own, clears SPENT and ALLOWSEQ, seals the share and drops the allowlist and the tickets of other epochs; a counter that fails
freezes Sage and leaves the share as it was. An accepted key of a package lies in a new KEY region of its die; a key set is
retired, unless it is in use, by freeing its regions alone. A valid image goes to the flash slot that was not booted. A
committed SVN raises the floor and never lowers it. The layouts of the packages are free (log 58); the operand of RETIRE_KEYSET
and COMMIT_SVN at ADDR, the order of the checks and that a key's KEYSET is the package's are the model's (log 80, 81, 82). -/
def Obligations.SecurityServed : Prop :=
  ∀ (s : State) (op : Nat) (b pkg : List Byte), s.power.on = true → s.memWf = true → s.request? op = some b →
    (∀ (f : Fin 4) (i : Instr), requestOk b = false →
      ((op, i) ∈ [(1, Instr.installShare pkg f), (2, .installKeyset pkg), (3, .retireKeyset pkg), (4, .stageFirmware pkg), (5, .commitSvn pkg)]) →
      Completes i s fun t => Replied t b Ev.RANGE ∧ OnlyReplied s t) ∧
    (op = 1 → requestOk b = true → ∀ f : Fin 4,
      let p := Config.shareOf (packageOf b pkg)
      let signed := (rsaVerify p.modulus p.sig ((packageOf b pkg).take p.len) = Bn.OK) ∧ (sha256 p.modulus == s.inst.keyAuth) = true
      (¬ signed → Completes (.installShare pkg f) s fun t => Replied t b Ev.SIG_BAD ∧ OnlyReplied s t) ∧
      ∀ (body seed : List Byte) (s2 s3 : State), signed → s.call.shareHeaderOk p = true → s.call.openShare p = (some body, s2) →
        s2.draw 32 = some (seed, s3) →
        (f = 0 → Completes (.installShare pkg f) s fun t => Replied t b 0 ∧ t.dies = s.dies ∧ t.sec.epoch = p.epoch ∧ t.sec.spent = 0 ∧
          t.sec.allowSeq = 0 ∧ t.sage.allow = none ∧ (∀ k ∈ t.sage.tickets, k.epoch = p.epoch) ∧ t.sage.records = s.sage.records ∧
          t.sec.flash.share.map (fun x => (x.epoch, x.keyset, x.body, x.seed)) = some (p.epoch, p.keyset, body, seed) ∧
          t.rd R.SAGE_STATE_EPOCH = p.epoch % 2 ^ 32 ∧ t.rd R.SAGE_BUDGET_SPENT = 0 ∧ t.on R.SAGE_STATE_ALLOW = false) ∧
        (f ≠ 0 → Completes (.installShare pkg f) s fun t => Replied t b Ev.COUNTER_FAIL ∧ t.on R.SAGE_STATE_FROZEN = true ∧
          t.sec.flash = s.sec.flash ∧ t.sage = s.sage ∧ (f = 1 → t.sec.epoch = s.sec.epoch))) ∧
    (op = 2 → requestOk b = true →
      let p := Config.keysetOf (packageOf b pkg)
      let signed := (rsaVerify p.modulus p.sig ((packageOf b pkg).take p.len) = Bn.OK) ∧ (sha256 p.modulus == s.inst.keyAuth) = true
      (¬ signed → Completes (.installKeyset pkg) s fun t => Replied t b Ev.SIG_BAD ∧ OnlyReplied s t) ∧
      (signed → (p.chains.all s.call.chainLoads && pkgBodiesOk p && p.bodies.all ((s.call.putChains p.chains).keyLegal p.keyset)) = false →
        Completes (.installKeyset pkg) s fun t => Replied t b Ev.RANGE ∧ t.keyBodies = s.keyBodies ∧ t.chains = s.chains ∧ t.dies = s.dies) ∧
      ∀ (d : Nat) (body sha : List Byte), signed →
        (p.chains.all s.call.chainLoads && pkgBodiesOk p && p.bodies.all ((s.call.putChains p.chains).keyLegal p.keyset)) = true →
        pkgKeys p = [(d, body, sha)] → (State.putKeys p.keyset (pkgKeys p) (s.call.putChains p.chains)).isSome = true →
        Completes (.installKeyset pkg) s fun t => Replied t b 0 ∧ t.chains = (s.call.putChains p.chains).chains ∧
          ∃ h, hDie h = d ∧ mapFind t.keyBodies h = some (p.keyset, sha) ∧ t.handleOk h = true ∧ t.hLoc h = 2 ∧
            t.rd (R.SPAD_HTAB0_ATTR (hDie h) (hIdx h)) = 2 ^ Attr.KEY ∧
            ∀ k ∈ t.keyBodies, k.1 ≠ h → k ∈ s.keyBodies) ∧
    (op = 3 → requestOk b = true → mapRises 0 s.keyBodies = true →
      let ks := leAt (packageOf b pkg) 0 8
      ((∃ k ∈ s.keyBodies, k.2.1 = ks ∧ s.keyInUse k.1 = true) →
        Completes (.retireKeyset pkg) s fun t => Replied t b Ev.RANGE ∧ OnlyReplied s t) ∧
      ((∀ k ∈ s.keyBodies, k.2.1 = ks → s.keyInUse k.1 = false) →
        Completes (.retireKeyset pkg) s fun t => Replied t b 0 ∧ t.keyBodies = s.keyBodies.filter (fun k => k.2.1 != ks) ∧
          ∀ k ∈ s.keyBodies, k.2.1 = ks → t.on (R.SPAD_HTAB0_V (hDie k.1) (hIdx k.1)) = false)) ∧
    (op = 4 → requestOk b = true →
      let img := packageOf b pkg
      let form := 1 ≤ fwKind img ∧ fwKind img ≤ 4 ∧ fwForm img (fwKind img) = true ∧ s.rd R.SEC_SVN_FLOOR ≤ fwSvn img
      (¬ form → Completes (.stageFirmware pkg) s fun t => Replied t b Ev.RANGE ∧ OnlyReplied s t) ∧
      (form → (if fwKind img = 4 then s.configValid img else s.fwValid img (fwKind img)) = false →
        Completes (.stageFirmware pkg) s fun t => Replied t b Ev.SIG_BAD ∧ OnlyReplied s t) ∧
      (form → (if fwKind img = 4 then s.configValid img else s.fwValid img (fwKind img)) = true → s.sec.flash.sp.length = 2 →
        Completes (.stageFirmware pkg) s fun t => Replied t b 0 ∧ t.dies = s.dies ∧ t.sage = s.sage ∧
          (fwKind img = 1 → t.sec.flash.sp[1 - s.rd R.SEC_STATE_SLOT_SP]? = some img ∧
            t.sec.flash.sp[s.rd R.SEC_STATE_SLOT_SP]? = s.sec.flash.sp[s.rd R.SEC_STATE_SLOT_SP]?) ∧
          (fwKind img = 4 → t.sec.flash.config = img) ∧ (fwKind img ≠ 4 → t.sec.flash.config = s.sec.flash.config) ∧
          t.sec.flash.share = s.sec.flash.share)) ∧
    (op = 5 → requestOk b = true →
      let v := leAt (packageOf b pkg) 0 4
      (s.rd R.SEC_STATE_STAGE = 4 → v ≤ 64 → v ≤ s.rd R.SEC_SVN_RUNNING → v ≤ s.sec.svnDz →
        Completes (.commitSvn pkg) s fun t => Replied t b 0 ∧ t.rd R.SEC_SVN_FLOOR = max v (s.rd R.SEC_SVN_FLOOR) ∧ t.sec = s.sec ∧ t.dies = s.dies) ∧
      (s.rd R.SEC_STATE_STAGE ≠ 4 ∨ 64 < v ∨ s.rd R.SEC_SVN_RUNNING < v ∨ s.sec.svnDz < v →
        Completes (.commitSvn pkg) s fun t => Replied t b Ev.RANGE ∧ OnlyReplied s t))

/-- R387, R388, R390–R392: an INGEST entry or argument block that breaks the rules is refused with RANGE. A filing that the checks
refuse leaves its handles their attributes, counts as refused, and is kept in SEC_LAST; the entry completes with its code. A
filing that passes leaves its two handles CT alone and bound to new RECORDs of its contributor, one for each member, puts its
descriptor with these handles in its slot, counts as accepted, and completes the entry with code 0. An entry of any number of
filings completes. (What a filing of a group holds, and what the filings of one entry hold, are the model's: log 85, 86.) -/
def Obligations.FilingsIngested : Prop :=
  ∀ (s0 : State) (r : Fin 64) (entry args registry : List Byte) (ups : List Upset),
    let s := s0.plant ups
    s.hostUp = true → s.mayRead r 1 = true → s.memWf = true →
    let s1 := (s.readEntry r entry).1
    let e := (s.readEntry r entry).2
    (s1.ingestEntryOk e = false ∨ s.on R.SAGE_CFG_ENABLE = false ∨ parseIngest args (e.q 0x18) = none → e.kind = 3 →
      Completes (.ingest r entry args registry ups) s0 fun t => t.dies = s.dies ∧ t.sage = s.sage ∧ t.rd R.EVT_LAST_CODE = Ev.RANGE ∧
        Posted s t r e.tag 3 e.sqHead { code := Ev.RANGE }) ∧
    (∀ a, s1.ingestEntryOk e = true → s.on R.SAGE_CFG_ENABLE = true → parseIngest args (e.q 0x18) = some a →
      Completes (.ingest r entry args registry ups) s0 fun t => t.rd (R.SQ_STATE_HEAD r) = e.sqHead ∧ t.jobs.map (·.id) = s.jobs.map (·.id) ∧
        ∃ code, Posted s t r e.tag 3 e.sqHead { code := code }) ∧
    ∀ (a : IngestArgs) (s2 : State) (held : Holds) (x : Filing), s1.ingestEntryOk e = true → s.on R.SAGE_CFG_ENABLE = true →
      parseIngest args (e.q 0x18) = some a → a.nfil = 1 → s1.filCheck {} registry a (filingAt args 0) = (s2, held, x) →
      let f := filingAt args 0
      (x.code ≠ 0 → x.code < 2 ^ 16 →
        Completes (.ingest r entry args registry ups) s0 fun t =>
          t.rd (R.SPAD_HTAB0_ATTR (hDie (filH0 f)) (hIdx (filH0 f))) = s.rd (R.SPAD_HTAB0_ATTR (hDie (filH0 f)) (hIdx (filH0 f))) ∧
          t.rd (R.SPAD_HTAB0_ATTR (hDie (filH1 f)) (hIdx (filH1 f))) = s.rd (R.SPAD_HTAB0_ATTR (hDie (filH1 f)) (hIdx (filH1 f))) ∧
          t.sage = s.sage ∧ s.SameStore t ∧ t.rd R.SEC_INGEST_REFUSED = satAdd 32 (s.rd R.SEC_INGEST_REFUSED) 1 ∧ t.rd R.SEC_LAST_CODE = x.code ∧
          t.rd R.SEC_LAST_SOURCE = 1 ∧ t.rd R.SEC_LAST_TAG = e.tag ∧ Posted s t r e.tag e.kind e.sqHead { code := x.code }) ∧
      (x.code = 0 → mapRises 0 s.sage.records = true → (s2.assign (List.replicate (parseDesc (filDesc f)).M {})).isSome = true →
        s.spread (refHandle (filDref f)) (64 * refSlot (filDref f)) 64 →
        Completes (.ingest r entry args registry ups) s0 fun t => ∃ l, 0 < l ∧
          (∀ m, m < (parseDesc (filDesc f)).M → mapFind s.sage.records (l + m) = none ∧
            t.recAt (l + m) = { cls := Cls.RECORD, floor := 1, link := leAt (filHdr f) 8 4 }) ∧
          t.peek (refHandle (filDref f)) (64 * refSlot (filDref f)) 64 =
            Desc.toBytes { parseDesc (filDesc f) with h0 := filH0 f, h1 := filH1 f, lineage := l } ∧
          (∀ h ∈ [filH0 f, filH1 f], t.rd (R.SPAD_HTAB0_ATTR (hDie h) (hIdx h)) = 2 ^ Attr.CT ∧
            t.on (R.SAGE_BIND_V (hDie h) (hIdx h)) = true ∧ t.rd (R.SAGE_BIND_LINEAGE (hDie h) (hIdx h)) = l) ∧
          s.StoredBut t (refHandle (filDref f)) (64 * refSlot (filDref f)) 64 ∧
          t.rd R.SEC_INGEST_ACCEPTED = satAdd 32 (s.rd R.SEC_INGEST_ACCEPTED) 1 ∧ Posted s t r e.tag e.kind e.sqHead {})

/-- R361–R368, R370–R372: a release request whose form, members or room break the rules is refused with RANGE and moves nothing.
One that a check of R363 refuses is kept in SAGE_LAST, counts as a refusal, raises GATE_REFUSED, is answered with that code and
moves no budget and no record. One that passes moves SPENT by its members and marks each of them: a decryption counts in
RELCOUNT, a probe sets RELEASED and leaves a ticket; its reply stands in host memory and its completion has code 0, or, where the
reply's signature fails its check, LOVAGE_FAULT and no reply. Where the counter's commit fails Sage is frozen and nothing is
released; a probe without random bits is refused with TRNG_FAIL, and one whose key cannot be agreed with cause PEER. A request of
another kind is no command of the row. (Which slots count as busy, and how a probe's masks are drawn, are the model's choices:
log 87, 88.) -/
def Obligations.ReleasesServed : Prop :=
  ∀ (s0 : State) (r : Fin 64) (entry req : List Byte) (ups : List Upset),
    let s := s0.plant ups
    s.hostUp = true → s.mayRead r 1 = true → s.memWf = true →
    let s1 := (s.readEntry r entry).1
    let e := (s.readEntry r entry).2
    let q := parseRel req
    let Refused (cause : Nat) (m : Nat) (t : State) : Prop := t.sec.spent = s.sec.spent ∧ t.sage = s.sage ∧ s.SameStore t ∧
      t.rd R.SAGE_LAST_CAUSE = cause ∧ t.rd R.SAGE_LAST_MEMBER = m ∧ t.rd R.SAGE_LAST_TAG = e.tag ∧
      t.rd R.SAGE_REFUSALS_COUNT = (s.rd R.SAGE_REFUSALS_COUNT + 1) % 2 ^ 64 ∧ Posted s t r e.tag 4 e.sqHead { code := Ev.GATE_REFUSED }
    let BadForm (i : Instr) : Prop := Completes i s0 fun t => t.sec.spent = s.sec.spent ∧ t.sage = s.sage ∧ s.SameStore t ∧
      Posted s t r e.tag e.kind e.sqHead { code := Ev.RANGE, stage := if e.kind = 1 then 0 else 1 }
    let Moved (t : State) : Prop := s.SameStore t ∧ t.sec.spent = s.sec.spent + q.selected.length ∧
      t.rd R.SAGE_BUDGET_SPENT = t.sec.spent % 2 ^ 32 ∧
      t.rd R.SAGE_RELEASES_COUNT = (s.rd R.SAGE_RELEASES_COUNT + q.selected.length) % 2 ^ 64 ∧
      ∃ code, (code = 0 ∨ code = Ev.LOVAGE_FAULT) ∧ Posted s t r e.tag 4 e.sqHead { code := code } ∧
        (code = 0 → e.q 0x20 + 16 ≤ s.complAt r ∨ s.complAt r + 32 ≤ e.q 0x20 →
          mapBytes t.hostMem (e.q 0x20) 16 =
            leBytes 4 q.kind ++ leBytes 4 q.members ++ leBytes 4 s.sec.epoch ++ leBytes 4 ((s.sage.allow.map (·.seq)).getD 0))
    let formD := s1.releaseEntryOk e && s.on R.SAGE_CFG_ENABLE && e.q 0x18 = 64 && req.length = 64 && q.kind = 1 && relShape req &&
      bits q.target 30 2 = 0 && refNamesSlot q.target
    let formP := s1.releaseEntryOk e && s.on R.SAGE_CFG_ENABLE && e.q 0x18 = 128 && req.length = 128 && relShape req && bits q.target 16 16 = 0
    (∀ fails, (leAt req 0 1 = 2 ∨ leAt req 0 1 = 3 → exec (.releaseDecrypt r entry req fails ups) s0 = .next s0) ∧
      (leAt req 0 1 ≠ 2 → exec (.releaseProbe r entry req fails ups) s0 = .next s0) ∧
      (leAt req 0 1 ≠ 2 → leAt req 0 1 ≠ 3 → formD = false → BadForm (.releaseDecrypt r entry req fails ups)) ∧
      (leAt req 0 1 = 2 → formP = false → BadForm (.releaseProbe r entry req fails ups))) ∧
    (∀ (s2 : State) (x : Option Desc), formD = true → s1.relSlot q.target = (s2, x) →
      let c : RelCtx := { e := e, q := q, x := x }
      (∀ fails, c.membersOk = false ∨ e.q 0x28 < c.need → BadForm (.releaseDecrypt r entry req fails ups)) ∧
      (c.membersOk = true → c.need ≤ e.q 0x28 →
        (∀ fails k m, s2.relCause c = some (k, m) → Completes (.releaseDecrypt r entry req fails ups) s0 (Refused k m)) ∧
        (s2.relCause c = none →
          (Completes (.releaseDecrypt r entry req true ups) s0 fun t => Refused Cause.FROZEN 0 t ∧ t.on R.SAGE_STATE_FROZEN = true) ∧
          Completes (.releaseDecrypt r entry req false ups) s0 fun t => Moved t ∧ ∀ d, x = some d → ∀ m ∈ q.selected,
            t.recAt (d.lineage + m) = { s.recAt (d.lineage + m) with relcount := min 255 ((s.recAt (d.lineage + m)).relcount + 1) }))) ∧
    (∀ (s2 : State) (x : Option Desc), leAt req 0 1 = 2 → formP = true → s1.relRegion q.target = (s2, x) →
      let c : RelCtx := { e := e, q := q, x := x }
      (∀ fails, c.membersOk = false ∨ e.q 0x28 < c.need → BadForm (.releaseProbe r entry req fails ups)) ∧
      (c.membersOk = true → c.need ≤ e.q 0x28 →
        (∀ fails k m, s2.relCause c = some (k, m) → Completes (.releaseProbe r entry req fails ups) s0 (Refused k m)) ∧
        (s2.relCause c = none →
          (Completes (.releaseProbe r entry req true ups) s0 fun t => Refused Cause.FROZEN 0 t ∧ t.on R.SAGE_STATE_FROZEN = true) ∧
          (s2.draw 32 = none → Completes (.releaseProbe r entry req false ups) s0 fun t => t.sec.spent = s.sec.spent ∧ t.sage = s.sage ∧
            Posted s t r e.tag 4 e.sqHead { code := Ev.TRNG_FAIL }) ∧
          ∀ (rnd : List Byte) (s3 : State), s2.draw 32 = some (rnd, s3) →
            (∀ s4, s3.agree (scalarOf rnd) q.peerkey = (none, s4) →
              Completes (.releaseProbe r entry req false ups) s0 (Refused Cause.PEER 0)) ∧
            ∀ (d : Desc) (z : List Byte) (s4 : State), x = some d → s3.agree (scalarOf rnd) q.peerkey = (some z, s4) →
              Completes (.releaseProbe r entry req false ups) s0 fun t => Moved t ∧
                (∀ m ∈ q.selected, t.recAt (d.lineage + m) = { s.recAt (d.lineage + m) with released := true }) ∧
                t.sage.tickets.map (·.num) = s.sage.tickets.map (·.num) ++ [s.sage.nextTicket] ∧
                t.sage.nextTicket = s.sage.nextTicket + 1)))

/-- R359, R360, R362, R371, R372: an allowlist that the share's policy authority signed for the epoch in force, with a SEQ above
the last, comes into force and its SEQ is committed; any other, or any while Sage is frozen, is refused with RANGE and changes
no rule, as is a request whose form breaks the rules; a counter that fails freezes Sage. A request of another kind is no command of
the row. -/
def Obligations.AllowlistsJudged : Prop :=
  ∀ (s : State) (r : Fin 64) (entry req : List Byte),
    (∀ fails, leAt req 0 1 ≠ 3 → exec (.releaseAllowlist r entry req fails) s = .next s) ∧
    (s.hostUp = true → s.mayRead r 1 = true → s.memWf = true → leAt req 0 1 = 3 →
    let s1 := (s.readEntry r entry).1
    let e := (s.readEntry r entry).2
    let b := req.drop 64
    let a := parseAllow b
    let form := s1.releaseEntryOk e && s.on R.SAGE_CFG_ENABLE && decide (64 ≤ e.q 0x18) && req.length = e.q 0x18 && relShape req &&
      e.q 0x20 = 0 && e.q 0x28 = 0
    (∀ fails, form = false → Completes (.releaseAllowlist r entry req fails) s fun t => t.sage = s.sage ∧ t.sec = s.sec ∧
      t.dies = s.dies ∧ Posted s t r e.tag e.kind e.sqHead { code := Ev.RANGE, stage := if e.kind = 1 then 0 else 1 }) ∧
    (form = true →
    (∀ fails, s.on R.SAGE_STATE_FROZEN = true ∨ (s1.allowOk b).1 = false →
      Completes (.releaseAllowlist r entry req fails) s fun t => t.sage = s.sage ∧ t.sec = s.sec ∧ t.dies = s.dies ∧
        t.rd R.SAGE_REFUSALS_COUNT = (s.rd R.SAGE_REFUSALS_COUNT + 1) % 2 ^ 64 ∧ Posted s t r e.tag 4 e.sqHead { code := Ev.RANGE }) ∧
    (s.on R.SAGE_STATE_FROZEN = false → (s1.allowOk b).1 = true →
      (Completes (.releaseAllowlist r entry req true) s fun t => t.sage = s.sage ∧ t.sec = s.sec ∧ t.on R.SAGE_STATE_FROZEN = true) ∧
      Completes (.releaseAllowlist r entry req false) s fun t => t.dies = s.dies ∧ t.sage.allow = some a ∧ t.sec.allowSeq = a.seq ∧
        s.sec.allowSeq < a.seq ∧ a.epoch = s.sec.epoch ∧ t.sec.spent = s.sec.spent ∧ t.sage.records = s.sage.records ∧
        t.rd R.SAGE_STATE_KMIN = min 0xFFFFFF (max 3 a.kmin) ∧ t.rd R.SAGE_BUDGET_BUDGET = a.budget ∧
        t.on R.SAGE_STATE_ALLOW = true ∧ Posted s t r e.tag 4 e.sqHead {})))

/-- R172, R355, R367: a sign-probe reply is admitted once against its ticket: its ciphertext lies in the slot named, its records
are those of the ticket's sources with chains of their own, and the ticket is used; a reply that names no ticket, or that may
not be admitted, raises RANGE and changes no record and no ticket. How a reply comes in is the model's choice (log 89). -/
def Obligations.ProbeReplies : Prop :=
  ∀ (s0 : State) (ticket : Word64) (dref : Word32) (h0 h1 : BitVec 16) (desc : List Byte) (ups : List Upset),
    let s := s0.plant ups
    s.hostUp = true → s.on R.SAGE_CFG_ENABLE = true →
    (s.sage.tickets.find? (fun t => t.num = ticket.toNat) = none →
      Completes (.probeReply ticket dref h0 h1 desc ups) s0 fun t => t.sage = s.sage ∧ t.dies = s.dies ∧ t.rd R.EVT_LAST_CODE = Ev.RANGE) ∧
    ∀ k : Ticket, s.sage.tickets.find? (fun t => t.num = ticket.toNat) = some k →
      (s.replyOk k dref.toNat h0.toNat h1.toNat desc = false →
        Completes (.probeReply ticket dref h0 h1 desc ups) s0 fun t => t.sage = s.sage ∧ t.dies = s.dies ∧ t.rd R.EVT_LAST_CODE = Ev.RANGE) ∧
      (let x := parseDesc desc
       let ps := (s.chainOf x.chain).primes
       let attr (u : State) (h : Nat) : Nat := u.rd (R.SPAD_HTAB0_ATTR (hDie h) (hIdx h))
       let residues := groupResiduesOk x ps (s.peek h0.toNat 0 x.handleBytes) && groupResiduesOk x ps (s.peek h1.toNat 0 x.handleBytes)
       s.replyOk k dref.toNat h0.toNat h1.toNat desc = true → s.clean h0.toNat 0 x.handleBytes → s.clean h1.toNat 0 x.handleBytes →
       (residues = false → Completes (.probeReply ticket dref h0 h1 desc ups) s0 fun t => t.sage = s.sage ∧ s.SameStore t ∧
         attr t h0.toNat = attr s h0.toNat ∧ attr t h1.toNat = attr s h1.toNat ∧ t.rd R.EVT_LAST_CODE = Ev.RANGE) ∧
       (residues = true → mapRises 0 s.sage.records = true → (s.assign (List.replicate k.sources.length {})).isSome = true →
       Completes (.probeReply ticket dref h0 h1 desc ups) s0 fun t => ∃ l, 0 < l ∧
         (∀ i y, k.sources[i]? = some y → mapFind s.sage.records (l + i) = none ∧
           t.recAt (l + i) = { cls := y.cls, floor := y.floor, link := y.link, chain := replyChain y }) ∧
         (∀ h ∈ [h0.toNat, h1.toNat], t.rd (R.SPAD_HTAB0_ATTR (hDie h) (hIdx h)) = 2 ^ Attr.CT ∧
           t.rd (R.SAGE_BIND_LINEAGE (hDie h) (hIdx h)) = l) ∧
         s.StoredBut t (refHandle dref.toNat) (64 * refSlot dref.toNat) 64 ∧
         t.sage.tickets = s.sage.tickets.map fun j => if j.num = k.num then { j with used := true } else j))

/-- R360, R361, R363, R372, the gate as a whole: whatever a decryption or probe request asks and whatever errors its reads meet, if
it moves SPENT at all then Sage is not frozen, the commit did not fail, an allowlist of the share's epoch is in force whose
budget the new SPENT does not pass, and each member that left the part has a record of the class and history that the rule
calls for: an AGGREGATE of at least k_min contributors not yet released RELMAX times, or a MASKED one never released, with an
allowlisted chain and no failed job. -/
def Obligations.ReleaseGateHolds : Prop :=
  ∀ (s t : State) (r : Fin 64) (entry req : List Byte) (fails : Bool) (ups : List Upset) (i : Instr),
    i = .releaseDecrypt r entry req fails ups ∨ i = .releaseProbe r entry req fails ups → exec i s = .next t →
    t.sec.spent ≠ s.sec.spent →
    fails = false ∧ s.on R.SAGE_STATE_FROZEN = false ∧ t.sec.spent = s.sec.spent + (parseRel req).selected.length ∧
    ∃ (a : Allow) (sh : Share) (l : Nat), s.sage.allow = some a ∧ s.sage.share = some sh ∧ a.epoch = sh.epoch ∧ t.sec.spent ≤ a.budget ∧
      ∀ m ∈ (parseRel req).selected,
        let x := s.recAt (l + m)
        a.entries.contains x.chain = true ∧ (x.job = 0 ∨ s.sage.failed.contains x.job = false) ∧
        ((parseRel req).kind = 1 → x.cls = Cls.AGGREGATE ∧ max 3 a.kmin ≤ x.floor ∧ x.relcount < a.relmax ∧
          t.recAt (l + m) = { x with relcount := min 255 (x.relcount + 1) }) ∧
        ((parseRel req).kind = 2 → x.cls = Cls.MASKED ∧ x.released = false ∧ a.peerhash = sha256 (parseRel req).peerkey ∧
          t.recAt (l + m) = { x with released := true })

/-! ### The responder and the test access port (R382, R383, R396) -/

/-- R382, R383: the responder negotiates version, capabilities and algorithms in turn and turns away what comes before them; it
gives the digest of the chain in slot 0, portions of that chain and the measurements; what it signs verifies under AK, or is
not given; without random bits it answers with an error and raises TRNG_FAIL. The standard's encodings and error codes are presumed
(log 61). -/
def Sys2Proof.Claims.SpdmNegotiated : Prop :=
  ∀ s : State, s.spdmUp = true →
    (Completes .spdmGetVersion s fun t => t.answer = .spdm (.version [0x12, 0x13]) ∧ t.sec.caps = false ∧ t.sec.algs = false ∧
      t.sec.sessions = [] ∧ t.regs = s.regs ∧ t.sec.flash = s.sec.flash) ∧
    (∀ v : BitVec 8, (v = 0x12 ∨ v = 0x13 → Completes (.spdmGetCapabilities v) s fun t =>
        t.answer = .spdm (.capabilities 4) ∧ t.sec.version = v.toNat ∧ t.sec.caps = true ∧ t.sec.algs = false ∧ t.regs = s.regs) ∧
      (v ≠ 0x12 → v ≠ 0x13 → exec (.spdmGetCapabilities v) s = .next { s with answer := .spdm (.error 0x41) })) ∧
    (s.sec.caps = true → (Completes (.spdmNegotiateAlgorithms true) s fun t => t.answer = .spdm .algorithms ∧ t.sec.algs = true) ∧
      exec (.spdmNegotiateAlgorithms false) s = .next { s with answer := .spdm (.error 1) }) ∧
    (s.sec.algs = false → ∀ i : Instr, i = .spdmGetDigests ∨ (∃ a b c, i = .spdmGetCertificate a b c) ∨ (∃ a b, i = .spdmChallenge a b) ∨
      (∃ a b c d, i = .spdmGetMeasurements a b c d) ∨ (∃ a b c d, i = .spdmKeyExchange a b c d) ∨ (∃ a b, i = .spdmFinish a b) ∨
      (∃ a, i = .spdmHeartbeat a) ∨ (∃ a b, i = .spdmKeyUpdate a b) ∨ (∃ a, i = .spdmEndSession a) →
      exec i s = .next { s with answer := .spdm (.error 4) }) ∧
    (s.sec.algs = true →
      exec .spdmGetDigests s = .next { s with answer := .spdm (.digests [(0, sha256 s.akChain)]) } ∧
      (∀ off len : BitVec 16, off.toNat < s.akChain.length → Completes (.spdmGetCertificate 0 off len) s fun t =>
        ∃ p rem, t.answer = .spdm (.certificate p rem) ∧ off.toNat + p.length + rem = s.akChain.length ∧ p.length ≤ len.toNat ∧
          (s.akChain.drop off.toNat).take p.length = p) ∧
      (∀ slot off len, slot ≠ 0 ∨ s.akChain.length ≤ off.toNat → exec (.spdmGetCertificate slot off len) s = .next { s with answer := .spdm (.error 1) }) ∧
      (∀ nonce, s.on R.SEC_STATE_TRNG_FAIL = false → Completes (.spdmChallenge 0 nonce) s fun t => t.dies = s.dies ∧
        ((∃ mine sig, t.answer = .spdm (.challenge (sha256 s.akChain) mine sig) ∧ mine.length = 32 ∧
            rsaVerify (Config.modulus 1 s.sec.flash.keyNo) sig (Config.spdmBytes 0x83 [fit 32 nonce, sha256 s.akChain, mine]) = Bn.OK) ∨
          (t.answer = .spdm (.error 5) ∧ t.rd R.EVT_LAST_CODE = Ev.LOVAGE_FAULT))) ∧
      (∀ (k : Fin 8) (slot : Fin 8) (nonce : List Byte), exec (.spdmGetMeasurements (BitVec.ofNat 8 (k.val + 1)) false slot nonce) s =
        .next { s with answer := .spdm (.measurements [(k.val + 1, s.meas k)] [] []) }) ∧
      (∀ nonce, s.on R.SEC_STATE_TRNG_FAIL = false → Completes (.spdmGetMeasurements 0xFF true 0 nonce) s fun t => t.dies = s.dies ∧
        ((∃ mine sig, t.answer = .spdm (.measurements ((List.range 8).map fun k => (k + 1, s.meas k)) mine sig) ∧
            rsaVerify (Config.modulus 1 s.sec.flash.keyNo) sig
              (Config.spdmBytes 0xE0 ([fit 32 nonce, mine] ++ (List.range 8).map s.meas)) = Bn.OK) ∨
          (t.answer = .spdm (.error 5) ∧ t.rd R.EVT_LAST_CODE = Ev.LOVAGE_FAULT))) ∧
      (∀ nonce, s.on R.SEC_STATE_TRNG_FAIL = true → Completes (.spdmChallenge 0 nonce) s fun t =>
        t.answer = .spdm (.error 5) ∧ t.rd R.EVT_LAST_CODE = Ev.TRNG_FAIL ∧ t.rd R.SEC_LAST_CODE = Ev.TRNG_FAIL ∧ t.sec = s.sec))

/-- R382: at most four sessions: a key exchange with a point on the curve opens one whose number carries the requester's half and
no open session has; its FINISH completes it, and other verify data closes it; a complete session answers HEARTBEAT, moves its
keys by KEY_UPDATE, and is closed by END_SESSION; no other session changes. -/
def Sys2Proof.Claims.SpdmSessions : Prop :=
  ∀ s : State, s.spdmUp = true → s.sec.algs = true →
    (∀ slot sid random exchange, slot ≠ 0 → exec (.spdmKeyExchange slot sid random exchange) s = .next { s with answer := .spdm (.error 1) }) ∧
    (∀ sid random exchange, 4 ≤ s.sec.sessions.length → exec (.spdmKeyExchange 0 sid random exchange) s = .next { s with answer := .spdm (.error 10) }) ∧
    (∀ (sid : BitVec 16) (random exchange rnd x sig : List Byte) (s1 s2 s3 : State), s.sec.sessions.length < 4 → s.draw 64 = some (rnd, s1) →
      s1.agree (scalarOf (rnd.drop 32)) (fit 64 exchange) = (some x, s2) →
      s2.spdmSign 0xE4 [fit 32 random, fit 64 exchange, rnd.take 32, ecPub (scalarOf (rnd.drop 32))] = (some sig, s3) →
      Completes (.spdmKeyExchange 0 sid random exchange) s fun t => ∃ k, t.sec.sessions = s.sec.sessions ++ [k] ∧ k.done = false ∧
        k.id % 2 ^ 16 = sid.toNat ∧ (∀ o ∈ s.sec.sessions, o.id ≠ k.id) ∧
        t.answer = .spdm (.keyExchange k.id (rnd.take 32) (ecPub (scalarOf (rnd.drop 32))) sig)) ∧
    (∀ (id : Word32) (mac : List Byte), s.session? id.toNat = none → exec (.spdmFinish id mac) s = .next { s with answer := .spdm (.error 2) }) ∧
    ∀ (id : Word32) (k : Session), s.session? id.toNat = some k →
      (k.done = false → ∀ mac,
        (mac = Config.finishData k.secret → Completes (.spdmFinish id mac) s fun t => t.answer = .spdm .finish ∧ t.regs = s.regs ∧
          t.sec.sessions = s.sec.sessions.map fun o => if o.id = id.toNat then { o with done := true } else o) ∧
        (mac ≠ Config.finishData k.secret → Completes (.spdmFinish id mac) s fun t => t.answer = .spdm (.error 6) ∧
          t.sec.sessions = s.sec.sessions.filter fun o => o.id != id.toNat) ∧
        exec (.spdmHeartbeat id) s = .next { s with answer := .spdm (.error 2) }) ∧
      (k.done = true →
        exec (.spdmHeartbeat id) s = .next { s with answer := .spdm .heartbeat } ∧
        (∀ op : Fin 4, op ≠ 0 → Completes (.spdmKeyUpdate id op) s fun t => t.answer = .spdm .keyUpdate ∧ t.regs = s.regs ∧
          t.sec.sessions = s.sec.sessions.map fun o => if o.id = id.toNat then
            { o with reqKeys := o.reqKeys + b2n (op != 3), rspKeys := o.rspKeys + b2n (op = 2) } else o) ∧
        Completes (.spdmEndSession id) s fun t => t.answer = .spdm .endSession ∧ t.regs = s.regs ∧
          t.sec.sessions = s.sec.sessions.filter fun o => o.id != id.toNat)

/-- R382, R383: the responder's negotiation, answers and sessions. -/
def Obligations.SpdmAnswered : Prop := Claims.SpdmNegotiated ∧ Claims.SpdmSessions

/-- R396, R400, R448: an instruction of the test access port shows TCK in PKG_CLK; BYPASS, IDCODE, SAMPLE/PRELOAD and EXTEST answer
and touch nothing that the part computes with (what they shift is the standard's: log 62). A challenge gives a new nonce of 32
bytes; a response that the service key signed sets SERVICE and uses the nonce up; any other counts as a try, and the last try
locks service; a locked port refuses both with RANGE and leaves SERVICE as it was. (That a nonce serves one response and that
the refusals carry RANGE are the model's choices: log 84.) -/
def Obligations.TapServed : Prop :=
  ∀ s : State, s.power.on = true →
    (∀ scan pins preload : List Byte, ∀ i ∈ [Instr.tapBypass scan, .tapIdcode, .tapSamplePreload pins preload, .tapExtest pins],
      Completes i s fun t => t.on R.PKG_CLK_TAP = true ∧ t.dies = s.dies ∧ t.jobs = s.jobs ∧ t.sage = s.sage ∧
        s.RegsKept t [R.PKG_CLK_TAP.addr] ∧
        (i = .tapBypass scan → t.answer = .data (leBytes scan.length (2 * leNat scan))) ∧
        (i = .tapIdcode → t.answer = .data (leBytes 4 Config.idcode)) ∧
        (i = .tapSamplePreload pins preload → t.answer = .data pins ∧ t.sec.tapBits = preload) ∧
        (i = .tapExtest pins → t.answer = .data pins ∧ t.sec.tapBits = s.sec.tapBits)) ∧
    (s.secRuns = true →
      (s.on R.SEC_STATE_SVC_LOCK = true →
        (∀ i : Instr, i = .svcChallenge ∨ (∃ m g, i = .svcResponse m g) →
          Completes i s fun t => t.answer = .none ∧ t.rd R.SEC_LAST_CODE = Ev.RANGE ∧ t.rd R.SEC_LAST_SOURCE = 6 ∧
            t.rd R.EVT_LAST_CODE = Ev.RANGE ∧ t.on R.SEC_STATE_SERVICE = s.on R.SEC_STATE_SERVICE ∧ t.sec.nonce = s.sec.nonce)) ∧
      (s.on R.SEC_STATE_SVC_LOCK = false → s.on R.SEC_STATE_TRNG_FAIL = false →
        Completes .svcChallenge s fun t => ∃ n, t.sec.nonce = some n ∧ n.length = 32 ∧ t.answer = .data n ∧ t.free = s.free + 1) ∧
      ∀ modulus sig : List Byte, s.on R.SEC_STATE_SVC_LOCK = false →
        (∀ n, s.sec.nonce = some n → rsaVerify modulus sig (s.svcMessage n) = Bn.OK → sha256 modulus = s.inst.service →
          Completes (.svcResponse modulus sig) s fun t => t.on R.SEC_STATE_SERVICE = true ∧ t.dies = s.dies ∧ t.sec.nonce = none ∧ t.sec.tries = s.sec.tries) ∧
        ((∀ n, s.sec.nonce = some n → rsaVerify modulus sig (s.svcMessage n) ≠ Bn.OK ∨ sha256 modulus ≠ s.inst.service) →
          Completes (.svcResponse modulus sig) s fun t => t.on R.SEC_STATE_SERVICE = s.on R.SEC_STATE_SERVICE ∧ t.dies = s.dies ∧ t.sec.nonce = none ∧
            t.sec.tries = s.sec.tries + 1 ∧ t.rd R.SEC_LAST_CODE = Ev.RANGE ∧
            (t.on R.SEC_STATE_SVC_LOCK = true ↔ s.rd R.SEC_CAPS_SVC_TRIES ≤ s.sec.tries + 1)))

/-! ### What every step keeps -/

/-- Whatever command a step takes, and on an empty queue too, every memory of the part stays in its canonical form: equal
contents are equal data. -/
def Obligations.MemoriesStayCanonical : Prop := ∀ s t : State, s.memWf = true → step s = .next t → t.memWf = true

/-- Whatever command a step takes, and on an empty queue too, the register file stays in its canonical form. -/
def Obligations.RegistersStayCanonical : Prop := ∀ s t : State, s.regsWf = true → step s = .next t → t.regsWf = true

/-- R14, R245, R310, R358, R371, R441: what reset leaves. Both canonical forms hold; no command waits; every register reads its reset value
(some of them are named, among them those of fields whose reset value is not zero); no ring is enabled, no job is
admitted, no event has been raised, and Sage holds no share. -/
def Obligations.ResetLeaves : Prop :=
  State.reset.memWf = true ∧ State.reset.regsWf = true ∧ State.reset.pending = [] ∧ State.reset.jobs = [] ∧
    State.reset.sage.share = none ∧ State.reset.sage.allow = none ∧ State.reset.sage.records = [] ∧
    (∀ f : Fld, f.fused = false → State.reset.rd f = f.rst % 2 ^ f.w) ∧
    (∀ r : Fin 64, State.reset.rd (R.SQ_CFG_LOG2SZ r) = 4 ∧ State.reset.on (R.SQ_CFG_EN r) = false) ∧
    State.reset.rd R.SAGE_STATE_KMIN = 3 ∧ State.reset.on R.HIF_CFG_ENABLE = false ∧ State.reset.rd R.EVT_LAST_CODE = 0
end

