-- ==== Sys2Proof/Laws/Map.lean ====
section
/-! SUPPORT. The laws of finite maps: what a read gives after a write or a removal, and that writes keep the keys rising
and the form canonical. -/

namespace Sys2Proof.Machine

variable {α : Type}

@[simp] theorem mapFind_nil (k : Nat) : mapFind ([] : NMap α) k = none := rfl

/-- A read after a write to the same key gives the value written; every other key reads as before. -/
theorem mapFind_mapPut (m : NMap α) (k j : Nat) (v : α) :
    mapFind (mapPut m k v) j = if k = j then some v else mapFind m j := by
  induction m with
  | nil => simp [mapPut, mapFind]
  | cons p m ih =>
    obtain ⟨i, u⟩ := p
    unfold mapPut
    by_cases h1 : k < i
    · simp only [h1, if_true, mapFind]
    · by_cases h2 : k = i
      · subst h2
        simp only [Nat.lt_irrefl, if_false, if_true, mapFind]
        split <;> simp_all
      · simp only [h1, h2, if_false, mapFind, ih]
        split
        · next h => subst h; simp [h2]
        · rfl

@[simp] theorem mapFind_mapPut_self (m : NMap α) (k : Nat) (v : α) : mapFind (mapPut m k v) k = some v := by
  simp [mapFind_mapPut]

theorem mapFind_mapPut_ne (m : NMap α) {k j : Nat} (v : α) (h : k ≠ j) : mapFind (mapPut m k v) j = mapFind m j := by
  simp [mapFind_mapPut, h]

@[simp] theorem mapGet_mapPut_self (d : α) (m : NMap α) (k : Nat) (v : α) : mapGet d (mapPut m k v) k = v := by
  simp [mapGet]

theorem mapGet_mapPut_ne (d : α) (m : NMap α) {k j : Nat} (v : α) (h : k ≠ j) :
    mapGet d (mapPut m k v) j = mapGet d m j := by simp [mapGet, mapFind_mapPut_ne m v h]

/-- A lower bound of the keys may be weakened. -/
theorem mapRises_mono {m : NMap α} {a b : Nat} (hab : a ≤ b) (h : mapRises b m = true) : mapRises a m = true := by
  cases m with
  | nil => rfl
  | cons p m =>
    obtain ⟨k, u⟩ := p
    simp only [mapRises, Bool.and_eq_true, decide_eq_true_eq] at h ⊢
    exact ⟨Nat.le_trans hab h.1, h.2⟩

/-- A map whose keys start above a key does not hold it. -/
theorem mapFind_of_rises {m : NMap α} {a k : Nat} (h : mapRises a m = true) (hk : k < a) : mapFind m k = none := by
  induction m generalizing a with
  | nil => rfl
  | cons p m ih =>
    obtain ⟨j, u⟩ := p
    simp only [mapRises, Bool.and_eq_true, decide_eq_true_eq] at h
    have hj : j ≠ k := by omega
    simp only [mapFind, hj, if_false]
    exact ih h.2 (by omega)

theorem mapRises_mapPut {m : NMap α} {a k : Nat} (v : α) (h : mapRises a m = true) (hk : a ≤ k) :
    mapRises a (mapPut m k v) = true := by
  induction m generalizing a with
  | nil => simp [mapPut, mapRises, hk]
  | cons p m ih =>
    obtain ⟨j, u⟩ := p
    simp only [mapRises, Bool.and_eq_true, decide_eq_true_eq] at h
    unfold mapPut
    split
    · simp only [mapRises, Bool.and_eq_true, decide_eq_true_eq]
      exact ⟨hk, by omega, h.2⟩
    · split
      · next h2 => subst h2; simp [mapRises, hk, h.2]
      · simp only [mapRises, Bool.and_eq_true, decide_eq_true_eq]
        exact ⟨h.1, ih h.2 (by omega)⟩

theorem mapRises_mapDel {m : NMap α} {a : Nat} (k : Nat) (h : mapRises a m = true) : mapRises a (mapDel m k) = true := by
  induction m generalizing a with
  | nil => rfl
  | cons p m ih =>
    obtain ⟨j, u⟩ := p
    simp only [mapRises, Bool.and_eq_true, decide_eq_true_eq] at h
    unfold mapDel
    split
    · exact mapRises_mono (by omega) h.2
    · simp only [mapRises, Bool.and_eq_true, decide_eq_true_eq]
      exact ⟨h.1, ih h.2⟩

/-- In a map whose keys rise, a removed key is gone and every other key reads as before. -/
theorem mapFind_mapDel {m : NMap α} {a : Nat} (k j : Nat) (h : mapRises a m = true) :
    mapFind (mapDel m k) j = if k = j then none else mapFind m j := by
  induction m generalizing a with
  | nil => simp [mapDel, mapFind]
  | cons p m ih =>
    obtain ⟨i, u⟩ := p
    simp only [mapRises, Bool.and_eq_true, decide_eq_true_eq] at h
    unfold mapDel
    by_cases h1 : i = k
    · subst h1
      simp only [if_true]
      by_cases h2 : i = j
      · subst h2; simp only [if_true]; exact mapFind_of_rises h.2 (by omega)
      · simp [mapFind, h2]
    · simp only [h1, if_false, mapFind, ih h.2]
      by_cases h2 : i = j
      · subst h2; simp [Ne.symm h1]
      · simp [h2]

/-- No listed value is the one that an unlisted key reads as. -/
def mapNoDefault [DecidableEq α] (d : α) (m : NMap α) : Bool := m.all fun p => decide (p.2 ≠ d)

theorem mapNoDefault_mapPut [DecidableEq α] {d v : α} {m : NMap α} (k : Nat) (hv : v ≠ d)
    (h : mapNoDefault d m = true) : mapNoDefault d (mapPut m k v) = true := by
  induction m with
  | nil => simp [mapPut, mapNoDefault, hv]
  | cons p m ih =>
    obtain ⟨j, u⟩ := p
    simp only [mapNoDefault, List.all_cons, Bool.and_eq_true] at h ih ⊢
    unfold mapPut
    split
    · simp only [List.all_cons, Bool.and_eq_true]; exact ⟨by simpa using hv, h.1, h.2⟩
    · split
      · simp only [List.all_cons, Bool.and_eq_true]; exact ⟨by simpa using hv, h.2⟩
      · simp only [List.all_cons, Bool.and_eq_true]; exact ⟨h.1, ih h.2⟩

theorem mapNoDefault_mapDel [DecidableEq α] {d : α} {m : NMap α} (k : Nat)
    (h : mapNoDefault d m = true) : mapNoDefault d (mapDel m k) = true := by
  induction m with
  | nil => rfl
  | cons p m ih =>
    obtain ⟨j, u⟩ := p
    simp only [mapNoDefault, List.all_cons, Bool.and_eq_true] at h ih ⊢
    unfold mapDel
    split
    · exact h.2
    · simp only [List.all_cons, Bool.and_eq_true]; exact ⟨h.1, ih h.2⟩

theorem mapWf_iff [DecidableEq α] (d : α) (m : NMap α) :
    mapWf d m = true ↔ mapRises 0 m = true ∧ mapNoDefault d m = true := by
  simp [mapWf, mapNoDefault]

theorem mapWf_mapSet [DecidableEq α] {d : α} {m : NMap α} (k : Nat) (v : α) (h : mapWf d m = true) :
    mapWf d (mapSet d m k v) = true := by
  rw [mapWf_iff] at h ⊢
  unfold mapSet
  split
  · exact ⟨mapRises_mapDel k h.1, mapNoDefault_mapDel k h.2⟩
  · next hv => exact ⟨mapRises_mapPut v h.1 (Nat.zero_le k), mapNoDefault_mapPut k hv h.2⟩

/-- A read after a write in the canonical form. -/
theorem mapGet_mapSet [DecidableEq α] {d : α} {m : NMap α} (k j : Nat) (v : α) (h : mapWf d m = true) :
    mapGet d (mapSet d m k v) j = if k = j then v else mapGet d m j := by
  rw [mapWf_iff] at h
  unfold mapSet mapGet
  split
  · next hv =>
    rw [mapFind_mapDel k j h.1]
    split <;> simp [hv]
  · rw [mapFind_mapPut]
    split <;> simp

theorem mapWf_mapPutBytes (bs : List Byte) {m : NMap Byte} (k : Nat) (h : mapWf 0 m = true) :
    mapWf 0 (mapPutBytes m k bs) = true := by
  induction bs generalizing m k with
  | nil => exact h
  | cons b bs ih => exact ih (k + 1) (mapWf_mapSet k b h)

/-- A byte after a run of bytes is written: inside the run the byte written, outside as before. -/
theorem mapGet_mapPutBytes (bs : List Byte) {m : NMap Byte} (k j : Nat) (h : mapWf 0 m = true) :
    mapGet 0 (mapPutBytes m k bs) j = if k ≤ j ∧ j < k + bs.length then bs.getD (j - k) 0 else mapGet 0 m j := by
  induction bs generalizing m k with
  | nil =>
    have h0 : ¬ (k ≤ j ∧ j < k + ([] : List Byte).length) := by simp only [List.length_nil]; omega
    rw [if_neg h0]
    rfl
  | cons b bs ih =>
    rw [mapPutBytes, ih (k + 1) (mapWf_mapSet k b h), mapGet_mapSet k j b h]
    by_cases h1 : k = j
    · subst h1
      have h2 : ¬ (k + 1 ≤ k ∧ k < k + 1 + bs.length) := by omega
      have h3 : k ≤ k ∧ k < k + (b :: bs).length := by simp only [List.length_cons]; omega
      rw [if_neg h2, if_pos rfl, if_pos h3]
      simp
    · rw [if_neg h1]
      by_cases h2 : k + 1 ≤ j ∧ j < k + 1 + bs.length
      · have h3 : k ≤ j ∧ j < k + (b :: bs).length := by simp only [List.length_cons]; omega
        rw [if_pos h2, if_pos h3]
        have h4 : j - k = j - (k + 1) + 1 := by omega
        rw [h4]
        simp
      · have h3 : ¬ (k ≤ j ∧ j < k + (b :: bs).length) := by simp only [List.length_cons]; omega
        rw [if_neg h2, if_neg h3]

theorem mapRises_filter {m : NMap α} {a : Nat} (p : Nat × α → Bool) (h : mapRises a m = true) :
    mapRises a (m.filter p) = true := by
  induction m generalizing a with
  | nil => rfl
  | cons q m ih =>
    obtain ⟨k, u⟩ := q
    simp only [mapRises, Bool.and_eq_true, decide_eq_true_eq] at h
    rw [List.filter_cons]
    split
    · simp only [mapRises, Bool.and_eq_true, decide_eq_true_eq]; exact ⟨h.1, ih h.2⟩
    · exact mapRises_mono (by omega) (ih h.2)

theorem mapWf_filter [DecidableEq α] {d : α} {m : NMap α} (p : Nat × α → Bool) (h : mapWf d m = true) :
    mapWf d (m.filter p) = true := by
  rw [mapWf_iff] at h ⊢
  refine ⟨mapRises_filter p h.1, ?_⟩
  simp only [mapNoDefault, List.all_eq_true] at h ⊢
  exact fun q hq => h.2 q (List.mem_of_mem_filter hq)

end Sys2Proof.Machine
end

