-- ==== Sys2Proof/Laws/State.lean ====
section
/-! SUPPORT. One lemma per field of the state and update: what the basic updates leave alone, and what a register field
reads after a write. -/

namespace Sys2Proof.Machine

/-! ### Register fields -/

/-- A field reads the value just written to it, cut to its width; fields at other places read as before. -/
theorem State.rd_wr (s : State) (f g : Fld) (v : Nat) :
    (s.wr f v).rd g = if f.key = g.key then v % 2 ^ f.w % 2 ^ g.w else s.rd g := by
  unfold State.rd State.raw State.wr
  simp only [mapFind_mapPut]
  by_cases h : f.key = g.key
  · simp only [h, if_true]
  · simp only [h, if_false]

@[simp] theorem State.rd_wr_self (s : State) (f : Fld) (v : Nat) : (s.wr f v).rd f = v % 2 ^ f.w := by
  simp [State.rd_wr]

theorem State.rd_wr_ne (s : State) {f g : Fld} (v : Nat) (h : f.key ≠ g.key) : (s.wr f v).rd g = s.rd g := by
  simp [State.rd_wr, h]

/-- A field never reads more than its width holds. -/
theorem State.rd_lt (s : State) (f : Fld) : s.rd f < 2 ^ f.w := Nat.mod_lt _ (Nat.two_pow_pos _)

theorem State.on_wr (s : State) (f g : Fld) (v : Nat) :
    (s.wr f v).on g = if f.key = g.key then v % 2 ^ f.w % 2 ^ g.w != 0 else s.on g := by
  unfold State.on
  rw [State.rd_wr]
  split <;> rfl

/-- A change of anything but the register file and the fuses leaves every field as it reads. -/
theorem State.rd_congr {s t : State} (h1 : t.regs = s.regs) (h2 : t.fuses = s.fuses) (f : Fld) : t.rd f = s.rd f := by
  simp [State.rd, State.raw, h1, h2]

@[simp] theorem State.rd_updDie (s : State) (d : Nat) (u : Die → Die) (f : Fld) : (s.updDie d u).rd f = s.rd f := rfl
@[simp] theorem State.rd_updJob (s : State) (i : Nat) (u : Job → Job) (f : Fld) : (s.updJob i u).rd f = s.rd f := rfl
@[simp] theorem State.rd_toHost (s : State) (a : Nat) (bs : List Byte) (f : Fld) : (s.toHost a bs).rd f = s.rd f := rfl
@[simp] theorem State.on_updDie (s : State) (d : Nat) (u : Die → Die) (f : Fld) : (s.updDie d u).on f = s.on f := rfl
@[simp] theorem State.on_toHost (s : State) (a : Nat) (bs : List Byte) (f : Fld) : (s.toHost a bs).on f = s.on f := rfl
@[simp] theorem State.die_wr (s : State) (f : Fld) (v d : Nat) : (s.wr f v).die d = s.die d := rfl
@[simp] theorem State.die_inc (s : State) (f : Fld) (n d : Nat) : (s.inc f n).die d = s.die d := rfl
@[simp] theorem State.die_sat (s : State) (f : Fld) (n d : Nat) : (s.sat f n).die d = s.die d := rfl

/-! ### Dies -/

@[simp] theorem State.die_updDie_self (s : State) {d : Nat} (h : d < 8) (u : Die → Die) :
    (s.updDie d u).die d = u (s.die d) := by
  simp [State.die, State.updDie, h]

theorem State.die_updDie_ne (s : State) {d e : Nat} (h : d ≠ e) (u : Die → Die) : (s.updDie d u).die e = s.die e := by
  simp [State.die, State.updDie, Vector.getElem?_setIfInBounds_ne, h]

@[simp] theorem Die.group_updGroup_self (x : Die) {g : Nat} (h : g < 4) (u : Group → Group) :
    (x.updGroup g u).group g = u (x.group g) := by
  simp [Die.group, Die.updGroup, h]

theorem Die.group_updGroup_ne (x : Die) {g k : Nat} (h : g ≠ k) (u : Group → Group) :
    (x.updGroup g u).group k = x.group k := by
  simp [Die.group, Die.updGroup, Vector.getElem?_setIfInBounds_ne, h]

@[simp] theorem Die.core_updCore_self (x : Die) {c : Nat} (h : c < 8) (u : Core → Core) :
    (x.updCore c u).core c = u (x.core c) := by
  simp [Die.core, Die.updCore, h]

theorem Die.core_updCore_ne (x : Die) {c k : Nat} (h : c ≠ k) (u : Core → Core) :
    (x.updCore c u).core k = x.core k := by
  simp [Die.core, Die.updCore, Vector.getElem?_setIfInBounds_ne, h]

@[simp] theorem Die.sunit_updSunit_self (x : Die) {n : Nat} (h : n < 16) (u : SUnit → SUnit) :
    (x.updSunit n u).sunit n = u (x.sunit n) := by
  simp [Die.sunit, Die.updSunit, h]

theorem Die.sunit_updSunit_ne (x : Die) {n k : Nat} (h : n ≠ k) (u : SUnit → SUnit) :
    (x.updSunit n u).sunit k = x.sunit k := by
  simp [Die.sunit, Die.updSunit, Vector.getElem?_setIfInBounds_ne, h]

/-! ### What `wr` leaves alone -/

@[simp] theorem State.wr_fuses (s : State) (f : Fld) (v : Nat) : (s.wr f v).fuses = s.fuses := rfl
@[simp] theorem State.wr_time (s : State) (f : Fld) (v : Nat) : (s.wr f v).time = s.time := rfl
@[simp] theorem State.wr_dies (s : State) (f : Fld) (v : Nat) : (s.wr f v).dies = s.dies := rfl
@[simp] theorem State.wr_hostMem (s : State) (f : Fld) (v : Nat) : (s.wr f v).hostMem = s.hostMem := rfl
@[simp] theorem State.wr_answer (s : State) (f : Fld) (v : Nat) : (s.wr f v).answer = s.answer := rfl
@[simp] theorem State.wr_msix (s : State) (f : Fld) (v : Nat) : (s.wr f v).msix = s.msix := rfl
@[simp] theorem State.wr_irqs (s : State) (f : Fld) (v : Nat) : (s.wr f v).irqs = s.irqs := rfl
@[simp] theorem State.wr_sqTimes (s : State) (f : Fld) (v : Nat) : (s.wr f v).sqTimes = s.sqTimes := rfl
@[simp] theorem State.wr_nextRing (s : State) (f : Fld) (v : Nat) : (s.wr f v).nextRing = s.nextRing := rfl
@[simp] theorem State.wr_shadowSeen (s : State) (f : Fld) (v : Nat) : (s.wr f v).shadowSeen = s.shadowSeen := rfl
@[simp] theorem State.wr_coal (s : State) (f : Fld) (v : Nat) : (s.wr f v).coal = s.coal := rfl
@[simp] theorem State.wr_mbxStage (s : State) (f : Fld) (v : Nat) : (s.wr f v).mbxStage = s.mbxStage := rfl
@[simp] theorem State.wr_mbxSlot (s : State) (f : Fld) (v : Nat) : (s.wr f v).mbxSlot = s.mbxSlot := rfl
@[simp] theorem State.wr_jobs (s : State) (f : Fld) (v : Nat) : (s.wr f v).jobs = s.jobs := rfl
@[simp] theorem State.wr_nextJob (s : State) (f : Fld) (v : Nat) : (s.wr f v).nextJob = s.nextJob := rfl
@[simp] theorem State.wr_images (s : State) (f : Fld) (v : Nat) : (s.wr f v).images = s.images := rfl
@[simp] theorem State.wr_slotDies (s : State) (f : Fld) (v : Nat) : (s.wr f v).slotDies = s.slotDies := rfl
@[simp] theorem State.wr_slotBufs (s : State) (f : Fld) (v : Nat) : (s.wr f v).slotBufs = s.slotBufs := rfl
@[simp] theorem State.wr_landings (s : State) (f : Fld) (v : Nat) : (s.wr f v).landings = s.landings := rfl
@[simp] theorem State.wr_chains (s : State) (f : Fld) (v : Nat) : (s.wr f v).chains = s.chains := rfl
@[simp] theorem State.wr_pendSlots (s : State) (f : Fld) (v : Nat) : (s.wr f v).pendSlots = s.pendSlots := rfl
@[simp] theorem State.wr_badSlots (s : State) (f : Fld) (v : Nat) : (s.wr f v).badSlots = s.badSlots := rfl
@[simp] theorem State.wr_flights (s : State) (f : Fld) (v : Nat) : (s.wr f v).flights = s.flights := rfl
@[simp] theorem State.wr_flightSeq (s : State) (f : Fld) (v : Nat) : (s.wr f v).flightSeq = s.flightSeq := rfl
@[simp] theorem State.wr_mapOut (s : State) (f : Fld) (v : Nat) : (s.wr f v).mapOut = s.mapOut := rfl
@[simp] theorem State.wr_chanBad (s : State) (f : Fld) (v : Nat) : (s.wr f v).chanBad = s.chanBad := rfl
@[simp] theorem State.wr_hubEvWindow (s : State) (f : Fld) (v : Nat) : (s.wr f v).hubEvWindow = s.hubEvWindow := rfl
@[simp] theorem State.wr_hubEvCount (s : State) (f : Fld) (v : Nat) : (s.wr f v).hubEvCount = s.hubEvCount := rfl
@[simp] theorem State.wr_staleDue (s : State) (f : Fld) (v : Nat) : (s.wr f v).staleDue = s.staleDue := rfl
@[simp] theorem State.wr_poll (s : State) (f : Fld) (v : Nat) : (s.wr f v).poll = s.poll := rfl
@[simp] theorem State.wr_sage (s : State) (f : Fld) (v : Nat) : (s.wr f v).sage = s.sage := rfl
@[simp] theorem State.wr_captures (s : State) (f : Fld) (v : Nat) : (s.wr f v).captures = s.captures := rfl
@[simp] theorem State.wr_keyBodies (s : State) (f : Fld) (v : Nat) : (s.wr f v).keyBodies = s.keyBodies := rfl
@[simp] theorem State.wr_probeMask (s : State) (f : Fld) (v : Nat) : (s.wr f v).probeMask = s.probeMask := rfl
@[simp] theorem State.wr_fab (s : State) (f : Fld) (v : Nat) : (s.wr f v).fab = s.fab := rfl
@[simp] theorem State.wr_sec (s : State) (f : Fld) (v : Nat) : (s.wr f v).sec = s.sec := rfl
@[simp] theorem State.wr_power (s : State) (f : Fld) (v : Nat) : (s.wr f v).power = s.power := rfl
@[simp] theorem State.wr_pcie (s : State) (f : Fld) (v : Nat) : (s.wr f v).pcie = s.pcie := rfl
@[simp] theorem State.wr_free (s : State) (f : Fld) (v : Nat) : (s.wr f v).free = s.free := rfl
@[simp] theorem State.wr_pending (s : State) (f : Fld) (v : Nat) : (s.wr f v).pending = s.pending := rfl

/-! ### What `inc` leaves alone -/

@[simp] theorem State.inc_fuses (s : State) (f : Fld) (n : Nat) : (s.inc f n).fuses = s.fuses := rfl
@[simp] theorem State.inc_time (s : State) (f : Fld) (n : Nat) : (s.inc f n).time = s.time := rfl
@[simp] theorem State.inc_dies (s : State) (f : Fld) (n : Nat) : (s.inc f n).dies = s.dies := rfl
@[simp] theorem State.inc_hostMem (s : State) (f : Fld) (n : Nat) : (s.inc f n).hostMem = s.hostMem := rfl
@[simp] theorem State.inc_answer (s : State) (f : Fld) (n : Nat) : (s.inc f n).answer = s.answer := rfl
@[simp] theorem State.inc_msix (s : State) (f : Fld) (n : Nat) : (s.inc f n).msix = s.msix := rfl
@[simp] theorem State.inc_irqs (s : State) (f : Fld) (n : Nat) : (s.inc f n).irqs = s.irqs := rfl
@[simp] theorem State.inc_sqTimes (s : State) (f : Fld) (n : Nat) : (s.inc f n).sqTimes = s.sqTimes := rfl
@[simp] theorem State.inc_nextRing (s : State) (f : Fld) (n : Nat) : (s.inc f n).nextRing = s.nextRing := rfl
@[simp] theorem State.inc_shadowSeen (s : State) (f : Fld) (n : Nat) : (s.inc f n).shadowSeen = s.shadowSeen := rfl
@[simp] theorem State.inc_coal (s : State) (f : Fld) (n : Nat) : (s.inc f n).coal = s.coal := rfl
@[simp] theorem State.inc_mbxStage (s : State) (f : Fld) (n : Nat) : (s.inc f n).mbxStage = s.mbxStage := rfl
@[simp] theorem State.inc_mbxSlot (s : State) (f : Fld) (n : Nat) : (s.inc f n).mbxSlot = s.mbxSlot := rfl
@[simp] theorem State.inc_jobs (s : State) (f : Fld) (n : Nat) : (s.inc f n).jobs = s.jobs := rfl
@[simp] theorem State.inc_nextJob (s : State) (f : Fld) (n : Nat) : (s.inc f n).nextJob = s.nextJob := rfl
@[simp] theorem State.inc_images (s : State) (f : Fld) (n : Nat) : (s.inc f n).images = s.images := rfl
@[simp] theorem State.inc_slotDies (s : State) (f : Fld) (n : Nat) : (s.inc f n).slotDies = s.slotDies := rfl
@[simp] theorem State.inc_slotBufs (s : State) (f : Fld) (n : Nat) : (s.inc f n).slotBufs = s.slotBufs := rfl
@[simp] theorem State.inc_landings (s : State) (f : Fld) (n : Nat) : (s.inc f n).landings = s.landings := rfl
@[simp] theorem State.inc_chains (s : State) (f : Fld) (n : Nat) : (s.inc f n).chains = s.chains := rfl
@[simp] theorem State.inc_pendSlots (s : State) (f : Fld) (n : Nat) : (s.inc f n).pendSlots = s.pendSlots := rfl
@[simp] theorem State.inc_badSlots (s : State) (f : Fld) (n : Nat) : (s.inc f n).badSlots = s.badSlots := rfl
@[simp] theorem State.inc_flights (s : State) (f : Fld) (n : Nat) : (s.inc f n).flights = s.flights := rfl
@[simp] theorem State.inc_flightSeq (s : State) (f : Fld) (n : Nat) : (s.inc f n).flightSeq = s.flightSeq := rfl
@[simp] theorem State.inc_mapOut (s : State) (f : Fld) (n : Nat) : (s.inc f n).mapOut = s.mapOut := rfl
@[simp] theorem State.inc_chanBad (s : State) (f : Fld) (n : Nat) : (s.inc f n).chanBad = s.chanBad := rfl
@[simp] theorem State.inc_hubEvWindow (s : State) (f : Fld) (n : Nat) : (s.inc f n).hubEvWindow = s.hubEvWindow := rfl
@[simp] theorem State.inc_hubEvCount (s : State) (f : Fld) (n : Nat) : (s.inc f n).hubEvCount = s.hubEvCount := rfl
@[simp] theorem State.inc_staleDue (s : State) (f : Fld) (n : Nat) : (s.inc f n).staleDue = s.staleDue := rfl
@[simp] theorem State.inc_poll (s : State) (f : Fld) (n : Nat) : (s.inc f n).poll = s.poll := rfl
@[simp] theorem State.inc_sage (s : State) (f : Fld) (n : Nat) : (s.inc f n).sage = s.sage := rfl
@[simp] theorem State.inc_captures (s : State) (f : Fld) (n : Nat) : (s.inc f n).captures = s.captures := rfl
@[simp] theorem State.inc_keyBodies (s : State) (f : Fld) (n : Nat) : (s.inc f n).keyBodies = s.keyBodies := rfl
@[simp] theorem State.inc_probeMask (s : State) (f : Fld) (n : Nat) : (s.inc f n).probeMask = s.probeMask := rfl
@[simp] theorem State.inc_fab (s : State) (f : Fld) (n : Nat) : (s.inc f n).fab = s.fab := rfl
@[simp] theorem State.inc_sec (s : State) (f : Fld) (n : Nat) : (s.inc f n).sec = s.sec := rfl
@[simp] theorem State.inc_power (s : State) (f : Fld) (n : Nat) : (s.inc f n).power = s.power := rfl
@[simp] theorem State.inc_pcie (s : State) (f : Fld) (n : Nat) : (s.inc f n).pcie = s.pcie := rfl
@[simp] theorem State.inc_free (s : State) (f : Fld) (n : Nat) : (s.inc f n).free = s.free := rfl
@[simp] theorem State.inc_pending (s : State) (f : Fld) (n : Nat) : (s.inc f n).pending = s.pending := rfl

/-! ### What `sat` leaves alone -/

@[simp] theorem State.sat_fuses (s : State) (f : Fld) (n : Nat) : (s.sat f n).fuses = s.fuses := rfl
@[simp] theorem State.sat_time (s : State) (f : Fld) (n : Nat) : (s.sat f n).time = s.time := rfl
@[simp] theorem State.sat_dies (s : State) (f : Fld) (n : Nat) : (s.sat f n).dies = s.dies := rfl
@[simp] theorem State.sat_hostMem (s : State) (f : Fld) (n : Nat) : (s.sat f n).hostMem = s.hostMem := rfl
@[simp] theorem State.sat_answer (s : State) (f : Fld) (n : Nat) : (s.sat f n).answer = s.answer := rfl
@[simp] theorem State.sat_msix (s : State) (f : Fld) (n : Nat) : (s.sat f n).msix = s.msix := rfl
@[simp] theorem State.sat_irqs (s : State) (f : Fld) (n : Nat) : (s.sat f n).irqs = s.irqs := rfl
@[simp] theorem State.sat_sqTimes (s : State) (f : Fld) (n : Nat) : (s.sat f n).sqTimes = s.sqTimes := rfl
@[simp] theorem State.sat_nextRing (s : State) (f : Fld) (n : Nat) : (s.sat f n).nextRing = s.nextRing := rfl
@[simp] theorem State.sat_shadowSeen (s : State) (f : Fld) (n : Nat) : (s.sat f n).shadowSeen = s.shadowSeen := rfl
@[simp] theorem State.sat_coal (s : State) (f : Fld) (n : Nat) : (s.sat f n).coal = s.coal := rfl
@[simp] theorem State.sat_mbxStage (s : State) (f : Fld) (n : Nat) : (s.sat f n).mbxStage = s.mbxStage := rfl
@[simp] theorem State.sat_mbxSlot (s : State) (f : Fld) (n : Nat) : (s.sat f n).mbxSlot = s.mbxSlot := rfl
@[simp] theorem State.sat_jobs (s : State) (f : Fld) (n : Nat) : (s.sat f n).jobs = s.jobs := rfl
@[simp] theorem State.sat_nextJob (s : State) (f : Fld) (n : Nat) : (s.sat f n).nextJob = s.nextJob := rfl
@[simp] theorem State.sat_images (s : State) (f : Fld) (n : Nat) : (s.sat f n).images = s.images := rfl
@[simp] theorem State.sat_slotDies (s : State) (f : Fld) (n : Nat) : (s.sat f n).slotDies = s.slotDies := rfl
@[simp] theorem State.sat_slotBufs (s : State) (f : Fld) (n : Nat) : (s.sat f n).slotBufs = s.slotBufs := rfl
@[simp] theorem State.sat_landings (s : State) (f : Fld) (n : Nat) : (s.sat f n).landings = s.landings := rfl
@[simp] theorem State.sat_chains (s : State) (f : Fld) (n : Nat) : (s.sat f n).chains = s.chains := rfl
@[simp] theorem State.sat_pendSlots (s : State) (f : Fld) (n : Nat) : (s.sat f n).pendSlots = s.pendSlots := rfl
@[simp] theorem State.sat_badSlots (s : State) (f : Fld) (n : Nat) : (s.sat f n).badSlots = s.badSlots := rfl
@[simp] theorem State.sat_flights (s : State) (f : Fld) (n : Nat) : (s.sat f n).flights = s.flights := rfl
@[simp] theorem State.sat_flightSeq (s : State) (f : Fld) (n : Nat) : (s.sat f n).flightSeq = s.flightSeq := rfl
@[simp] theorem State.sat_mapOut (s : State) (f : Fld) (n : Nat) : (s.sat f n).mapOut = s.mapOut := rfl
@[simp] theorem State.sat_chanBad (s : State) (f : Fld) (n : Nat) : (s.sat f n).chanBad = s.chanBad := rfl
@[simp] theorem State.sat_hubEvWindow (s : State) (f : Fld) (n : Nat) : (s.sat f n).hubEvWindow = s.hubEvWindow := rfl
@[simp] theorem State.sat_hubEvCount (s : State) (f : Fld) (n : Nat) : (s.sat f n).hubEvCount = s.hubEvCount := rfl
@[simp] theorem State.sat_staleDue (s : State) (f : Fld) (n : Nat) : (s.sat f n).staleDue = s.staleDue := rfl
@[simp] theorem State.sat_poll (s : State) (f : Fld) (n : Nat) : (s.sat f n).poll = s.poll := rfl
@[simp] theorem State.sat_sage (s : State) (f : Fld) (n : Nat) : (s.sat f n).sage = s.sage := rfl
@[simp] theorem State.sat_captures (s : State) (f : Fld) (n : Nat) : (s.sat f n).captures = s.captures := rfl
@[simp] theorem State.sat_keyBodies (s : State) (f : Fld) (n : Nat) : (s.sat f n).keyBodies = s.keyBodies := rfl
@[simp] theorem State.sat_probeMask (s : State) (f : Fld) (n : Nat) : (s.sat f n).probeMask = s.probeMask := rfl
@[simp] theorem State.sat_fab (s : State) (f : Fld) (n : Nat) : (s.sat f n).fab = s.fab := rfl
@[simp] theorem State.sat_sec (s : State) (f : Fld) (n : Nat) : (s.sat f n).sec = s.sec := rfl
@[simp] theorem State.sat_power (s : State) (f : Fld) (n : Nat) : (s.sat f n).power = s.power := rfl
@[simp] theorem State.sat_pcie (s : State) (f : Fld) (n : Nat) : (s.sat f n).pcie = s.pcie := rfl
@[simp] theorem State.sat_free (s : State) (f : Fld) (n : Nat) : (s.sat f n).free = s.free := rfl
@[simp] theorem State.sat_pending (s : State) (f : Fld) (n : Nat) : (s.sat f n).pending = s.pending := rfl

/-! ### What `updDie` leaves alone -/

@[simp] theorem State.updDie_regs (s : State) (d : Nat) (f : Die → Die) : (s.updDie d f).regs = s.regs := rfl
@[simp] theorem State.updDie_fuses (s : State) (d : Nat) (f : Die → Die) : (s.updDie d f).fuses = s.fuses := rfl
@[simp] theorem State.updDie_time (s : State) (d : Nat) (f : Die → Die) : (s.updDie d f).time = s.time := rfl
@[simp] theorem State.updDie_hostMem (s : State) (d : Nat) (f : Die → Die) : (s.updDie d f).hostMem = s.hostMem := rfl
@[simp] theorem State.updDie_answer (s : State) (d : Nat) (f : Die → Die) : (s.updDie d f).answer = s.answer := rfl
@[simp] theorem State.updDie_msix (s : State) (d : Nat) (f : Die → Die) : (s.updDie d f).msix = s.msix := rfl
@[simp] theorem State.updDie_irqs (s : State) (d : Nat) (f : Die → Die) : (s.updDie d f).irqs = s.irqs := rfl
@[simp] theorem State.updDie_sqTimes (s : State) (d : Nat) (f : Die → Die) : (s.updDie d f).sqTimes = s.sqTimes := rfl
@[simp] theorem State.updDie_nextRing (s : State) (d : Nat) (f : Die → Die) : (s.updDie d f).nextRing = s.nextRing := rfl
@[simp] theorem State.updDie_shadowSeen (s : State) (d : Nat) (f : Die → Die) : (s.updDie d f).shadowSeen = s.shadowSeen := rfl
@[simp] theorem State.updDie_coal (s : State) (d : Nat) (f : Die → Die) : (s.updDie d f).coal = s.coal := rfl
@[simp] theorem State.updDie_mbxStage (s : State) (d : Nat) (f : Die → Die) : (s.updDie d f).mbxStage = s.mbxStage := rfl
@[simp] theorem State.updDie_mbxSlot (s : State) (d : Nat) (f : Die → Die) : (s.updDie d f).mbxSlot = s.mbxSlot := rfl
@[simp] theorem State.updDie_jobs (s : State) (d : Nat) (f : Die → Die) : (s.updDie d f).jobs = s.jobs := rfl
@[simp] theorem State.updDie_nextJob (s : State) (d : Nat) (f : Die → Die) : (s.updDie d f).nextJob = s.nextJob := rfl
@[simp] theorem State.updDie_images (s : State) (d : Nat) (f : Die → Die) : (s.updDie d f).images = s.images := rfl
@[simp] theorem State.updDie_slotDies (s : State) (d : Nat) (f : Die → Die) : (s.updDie d f).slotDies = s.slotDies := rfl
@[simp] theorem State.updDie_slotBufs (s : State) (d : Nat) (f : Die → Die) : (s.updDie d f).slotBufs = s.slotBufs := rfl
@[simp] theorem State.updDie_landings (s : State) (d : Nat) (f : Die → Die) : (s.updDie d f).landings = s.landings := rfl
@[simp] theorem State.updDie_chains (s : State) (d : Nat) (f : Die → Die) : (s.updDie d f).chains = s.chains := rfl
@[simp] theorem State.updDie_pendSlots (s : State) (d : Nat) (f : Die → Die) : (s.updDie d f).pendSlots = s.pendSlots := rfl
@[simp] theorem State.updDie_badSlots (s : State) (d : Nat) (f : Die → Die) : (s.updDie d f).badSlots = s.badSlots := rfl
@[simp] theorem State.updDie_flights (s : State) (d : Nat) (f : Die → Die) : (s.updDie d f).flights = s.flights := rfl
@[simp] theorem State.updDie_flightSeq (s : State) (d : Nat) (f : Die → Die) : (s.updDie d f).flightSeq = s.flightSeq := rfl
@[simp] theorem State.updDie_mapOut (s : State) (d : Nat) (f : Die → Die) : (s.updDie d f).mapOut = s.mapOut := rfl
@[simp] theorem State.updDie_chanBad (s : State) (d : Nat) (f : Die → Die) : (s.updDie d f).chanBad = s.chanBad := rfl
@[simp] theorem State.updDie_hubEvWindow (s : State) (d : Nat) (f : Die → Die) : (s.updDie d f).hubEvWindow = s.hubEvWindow := rfl
@[simp] theorem State.updDie_hubEvCount (s : State) (d : Nat) (f : Die → Die) : (s.updDie d f).hubEvCount = s.hubEvCount := rfl
@[simp] theorem State.updDie_staleDue (s : State) (d : Nat) (f : Die → Die) : (s.updDie d f).staleDue = s.staleDue := rfl
@[simp] theorem State.updDie_poll (s : State) (d : Nat) (f : Die → Die) : (s.updDie d f).poll = s.poll := rfl
@[simp] theorem State.updDie_sage (s : State) (d : Nat) (f : Die → Die) : (s.updDie d f).sage = s.sage := rfl
@[simp] theorem State.updDie_captures (s : State) (d : Nat) (f : Die → Die) : (s.updDie d f).captures = s.captures := rfl
@[simp] theorem State.updDie_keyBodies (s : State) (d : Nat) (f : Die → Die) : (s.updDie d f).keyBodies = s.keyBodies := rfl
@[simp] theorem State.updDie_probeMask (s : State) (d : Nat) (f : Die → Die) : (s.updDie d f).probeMask = s.probeMask := rfl
@[simp] theorem State.updDie_fab (s : State) (d : Nat) (f : Die → Die) : (s.updDie d f).fab = s.fab := rfl
@[simp] theorem State.updDie_sec (s : State) (d : Nat) (f : Die → Die) : (s.updDie d f).sec = s.sec := rfl
@[simp] theorem State.updDie_power (s : State) (d : Nat) (f : Die → Die) : (s.updDie d f).power = s.power := rfl
@[simp] theorem State.updDie_pcie (s : State) (d : Nat) (f : Die → Die) : (s.updDie d f).pcie = s.pcie := rfl
@[simp] theorem State.updDie_free (s : State) (d : Nat) (f : Die → Die) : (s.updDie d f).free = s.free := rfl
@[simp] theorem State.updDie_pending (s : State) (d : Nat) (f : Die → Die) : (s.updDie d f).pending = s.pending := rfl

/-! ### What `updJob` leaves alone -/

@[simp] theorem State.updJob_regs (s : State) (i : Nat) (f : Job → Job) : (s.updJob i f).regs = s.regs := rfl
@[simp] theorem State.updJob_fuses (s : State) (i : Nat) (f : Job → Job) : (s.updJob i f).fuses = s.fuses := rfl
@[simp] theorem State.updJob_time (s : State) (i : Nat) (f : Job → Job) : (s.updJob i f).time = s.time := rfl
@[simp] theorem State.updJob_dies (s : State) (i : Nat) (f : Job → Job) : (s.updJob i f).dies = s.dies := rfl
@[simp] theorem State.updJob_hostMem (s : State) (i : Nat) (f : Job → Job) : (s.updJob i f).hostMem = s.hostMem := rfl
@[simp] theorem State.updJob_answer (s : State) (i : Nat) (f : Job → Job) : (s.updJob i f).answer = s.answer := rfl
@[simp] theorem State.updJob_msix (s : State) (i : Nat) (f : Job → Job) : (s.updJob i f).msix = s.msix := rfl
@[simp] theorem State.updJob_irqs (s : State) (i : Nat) (f : Job → Job) : (s.updJob i f).irqs = s.irqs := rfl
@[simp] theorem State.updJob_sqTimes (s : State) (i : Nat) (f : Job → Job) : (s.updJob i f).sqTimes = s.sqTimes := rfl
@[simp] theorem State.updJob_nextRing (s : State) (i : Nat) (f : Job → Job) : (s.updJob i f).nextRing = s.nextRing := rfl
@[simp] theorem State.updJob_shadowSeen (s : State) (i : Nat) (f : Job → Job) : (s.updJob i f).shadowSeen = s.shadowSeen := rfl
@[simp] theorem State.updJob_coal (s : State) (i : Nat) (f : Job → Job) : (s.updJob i f).coal = s.coal := rfl
@[simp] theorem State.updJob_mbxStage (s : State) (i : Nat) (f : Job → Job) : (s.updJob i f).mbxStage = s.mbxStage := rfl
@[simp] theorem State.updJob_mbxSlot (s : State) (i : Nat) (f : Job → Job) : (s.updJob i f).mbxSlot = s.mbxSlot := rfl
@[simp] theorem State.updJob_nextJob (s : State) (i : Nat) (f : Job → Job) : (s.updJob i f).nextJob = s.nextJob := rfl
@[simp] theorem State.updJob_images (s : State) (i : Nat) (f : Job → Job) : (s.updJob i f).images = s.images := rfl
@[simp] theorem State.updJob_slotDies (s : State) (i : Nat) (f : Job → Job) : (s.updJob i f).slotDies = s.slotDies := rfl
@[simp] theorem State.updJob_slotBufs (s : State) (i : Nat) (f : Job → Job) : (s.updJob i f).slotBufs = s.slotBufs := rfl
@[simp] theorem State.updJob_landings (s : State) (i : Nat) (f : Job → Job) : (s.updJob i f).landings = s.landings := rfl
@[simp] theorem State.updJob_chains (s : State) (i : Nat) (f : Job → Job) : (s.updJob i f).chains = s.chains := rfl
@[simp] theorem State.updJob_pendSlots (s : State) (i : Nat) (f : Job → Job) : (s.updJob i f).pendSlots = s.pendSlots := rfl
@[simp] theorem State.updJob_badSlots (s : State) (i : Nat) (f : Job → Job) : (s.updJob i f).badSlots = s.badSlots := rfl
@[simp] theorem State.updJob_flights (s : State) (i : Nat) (f : Job → Job) : (s.updJob i f).flights = s.flights := rfl
@[simp] theorem State.updJob_flightSeq (s : State) (i : Nat) (f : Job → Job) : (s.updJob i f).flightSeq = s.flightSeq := rfl
@[simp] theorem State.updJob_mapOut (s : State) (i : Nat) (f : Job → Job) : (s.updJob i f).mapOut = s.mapOut := rfl
@[simp] theorem State.updJob_chanBad (s : State) (i : Nat) (f : Job → Job) : (s.updJob i f).chanBad = s.chanBad := rfl
@[simp] theorem State.updJob_hubEvWindow (s : State) (i : Nat) (f : Job → Job) : (s.updJob i f).hubEvWindow = s.hubEvWindow := rfl
@[simp] theorem State.updJob_hubEvCount (s : State) (i : Nat) (f : Job → Job) : (s.updJob i f).hubEvCount = s.hubEvCount := rfl
@[simp] theorem State.updJob_staleDue (s : State) (i : Nat) (f : Job → Job) : (s.updJob i f).staleDue = s.staleDue := rfl
@[simp] theorem State.updJob_poll (s : State) (i : Nat) (f : Job → Job) : (s.updJob i f).poll = s.poll := rfl
@[simp] theorem State.updJob_sage (s : State) (i : Nat) (f : Job → Job) : (s.updJob i f).sage = s.sage := rfl
@[simp] theorem State.updJob_captures (s : State) (i : Nat) (f : Job → Job) : (s.updJob i f).captures = s.captures := rfl
@[simp] theorem State.updJob_keyBodies (s : State) (i : Nat) (f : Job → Job) : (s.updJob i f).keyBodies = s.keyBodies := rfl
@[simp] theorem State.updJob_probeMask (s : State) (i : Nat) (f : Job → Job) : (s.updJob i f).probeMask = s.probeMask := rfl
@[simp] theorem State.updJob_fab (s : State) (i : Nat) (f : Job → Job) : (s.updJob i f).fab = s.fab := rfl
@[simp] theorem State.updJob_sec (s : State) (i : Nat) (f : Job → Job) : (s.updJob i f).sec = s.sec := rfl
@[simp] theorem State.updJob_power (s : State) (i : Nat) (f : Job → Job) : (s.updJob i f).power = s.power := rfl
@[simp] theorem State.updJob_pcie (s : State) (i : Nat) (f : Job → Job) : (s.updJob i f).pcie = s.pcie := rfl
@[simp] theorem State.updJob_free (s : State) (i : Nat) (f : Job → Job) : (s.updJob i f).free = s.free := rfl
@[simp] theorem State.updJob_pending (s : State) (i : Nat) (f : Job → Job) : (s.updJob i f).pending = s.pending := rfl

/-! ### What `toHost` leaves alone -/

@[simp] theorem State.toHost_regs (s : State) (a : Nat) (bs : List Byte) : (s.toHost a bs).regs = s.regs := rfl
@[simp] theorem State.toHost_fuses (s : State) (a : Nat) (bs : List Byte) : (s.toHost a bs).fuses = s.fuses := rfl
@[simp] theorem State.toHost_time (s : State) (a : Nat) (bs : List Byte) : (s.toHost a bs).time = s.time := rfl
@[simp] theorem State.toHost_dies (s : State) (a : Nat) (bs : List Byte) : (s.toHost a bs).dies = s.dies := rfl
@[simp] theorem State.toHost_answer (s : State) (a : Nat) (bs : List Byte) : (s.toHost a bs).answer = s.answer := rfl
@[simp] theorem State.toHost_msix (s : State) (a : Nat) (bs : List Byte) : (s.toHost a bs).msix = s.msix := rfl
@[simp] theorem State.toHost_irqs (s : State) (a : Nat) (bs : List Byte) : (s.toHost a bs).irqs = s.irqs := rfl
@[simp] theorem State.toHost_sqTimes (s : State) (a : Nat) (bs : List Byte) : (s.toHost a bs).sqTimes = s.sqTimes := rfl
@[simp] theorem State.toHost_nextRing (s : State) (a : Nat) (bs : List Byte) : (s.toHost a bs).nextRing = s.nextRing := rfl
@[simp] theorem State.toHost_shadowSeen (s : State) (a : Nat) (bs : List Byte) : (s.toHost a bs).shadowSeen = s.shadowSeen := rfl
@[simp] theorem State.toHost_coal (s : State) (a : Nat) (bs : List Byte) : (s.toHost a bs).coal = s.coal := rfl
@[simp] theorem State.toHost_mbxStage (s : State) (a : Nat) (bs : List Byte) : (s.toHost a bs).mbxStage = s.mbxStage := rfl
@[simp] theorem State.toHost_mbxSlot (s : State) (a : Nat) (bs : List Byte) : (s.toHost a bs).mbxSlot = s.mbxSlot := rfl
@[simp] theorem State.toHost_jobs (s : State) (a : Nat) (bs : List Byte) : (s.toHost a bs).jobs = s.jobs := rfl
@[simp] theorem State.toHost_nextJob (s : State) (a : Nat) (bs : List Byte) : (s.toHost a bs).nextJob = s.nextJob := rfl
@[simp] theorem State.toHost_images (s : State) (a : Nat) (bs : List Byte) : (s.toHost a bs).images = s.images := rfl
@[simp] theorem State.toHost_slotDies (s : State) (a : Nat) (bs : List Byte) : (s.toHost a bs).slotDies = s.slotDies := rfl
@[simp] theorem State.toHost_slotBufs (s : State) (a : Nat) (bs : List Byte) : (s.toHost a bs).slotBufs = s.slotBufs := rfl
@[simp] theorem State.toHost_landings (s : State) (a : Nat) (bs : List Byte) : (s.toHost a bs).landings = s.landings := rfl
@[simp] theorem State.toHost_chains (s : State) (a : Nat) (bs : List Byte) : (s.toHost a bs).chains = s.chains := rfl
@[simp] theorem State.toHost_pendSlots (s : State) (a : Nat) (bs : List Byte) : (s.toHost a bs).pendSlots = s.pendSlots := rfl
@[simp] theorem State.toHost_badSlots (s : State) (a : Nat) (bs : List Byte) : (s.toHost a bs).badSlots = s.badSlots := rfl
@[simp] theorem State.toHost_flights (s : State) (a : Nat) (bs : List Byte) : (s.toHost a bs).flights = s.flights := rfl
@[simp] theorem State.toHost_flightSeq (s : State) (a : Nat) (bs : List Byte) : (s.toHost a bs).flightSeq = s.flightSeq := rfl
@[simp] theorem State.toHost_mapOut (s : State) (a : Nat) (bs : List Byte) : (s.toHost a bs).mapOut = s.mapOut := rfl
@[simp] theorem State.toHost_chanBad (s : State) (a : Nat) (bs : List Byte) : (s.toHost a bs).chanBad = s.chanBad := rfl
@[simp] theorem State.toHost_hubEvWindow (s : State) (a : Nat) (bs : List Byte) : (s.toHost a bs).hubEvWindow = s.hubEvWindow := rfl
@[simp] theorem State.toHost_hubEvCount (s : State) (a : Nat) (bs : List Byte) : (s.toHost a bs).hubEvCount = s.hubEvCount := rfl
@[simp] theorem State.toHost_staleDue (s : State) (a : Nat) (bs : List Byte) : (s.toHost a bs).staleDue = s.staleDue := rfl
@[simp] theorem State.toHost_poll (s : State) (a : Nat) (bs : List Byte) : (s.toHost a bs).poll = s.poll := rfl
@[simp] theorem State.toHost_sage (s : State) (a : Nat) (bs : List Byte) : (s.toHost a bs).sage = s.sage := rfl
@[simp] theorem State.toHost_captures (s : State) (a : Nat) (bs : List Byte) : (s.toHost a bs).captures = s.captures := rfl
@[simp] theorem State.toHost_keyBodies (s : State) (a : Nat) (bs : List Byte) : (s.toHost a bs).keyBodies = s.keyBodies := rfl
@[simp] theorem State.toHost_probeMask (s : State) (a : Nat) (bs : List Byte) : (s.toHost a bs).probeMask = s.probeMask := rfl
@[simp] theorem State.toHost_fab (s : State) (a : Nat) (bs : List Byte) : (s.toHost a bs).fab = s.fab := rfl
@[simp] theorem State.toHost_sec (s : State) (a : Nat) (bs : List Byte) : (s.toHost a bs).sec = s.sec := rfl
@[simp] theorem State.toHost_power (s : State) (a : Nat) (bs : List Byte) : (s.toHost a bs).power = s.power := rfl
@[simp] theorem State.toHost_pcie (s : State) (a : Nat) (bs : List Byte) : (s.toHost a bs).pcie = s.pcie := rfl
@[simp] theorem State.toHost_free (s : State) (a : Nat) (bs : List Byte) : (s.toHost a bs).free = s.free := rfl
@[simp] theorem State.toHost_pending (s : State) (a : Nat) (bs : List Byte) : (s.toHost a bs).pending = s.pending := rfl

end Sys2Proof.Machine
end

