-- ==== Sys2Proof/Laws/Mem.lean ====
section
/-! SUPPORT. The laws of memory: every operation over host memory, the mailbox stores, the scratchpads and the stacks keeps the
canonical form, and a byte read after a store is the byte stored or the byte as before. -/

namespace Sys2Proof.Machine

/-! ### The canonical form, part by part -/

theorem State.memWf_iff (s : State) : s.memWf = true ↔
    mapWf (0 : Byte) s.hostMem = true ∧ mapWf (0 : Byte) s.mbxStage = true ∧ mapWf (0 : Byte) s.mbxSlot = true ∧
      ∀ d, d < 8 → (s.die d).memWf = true := by
  have h : s.dies.all Die.memWf = true ↔ ∀ d, d < 8 → (s.die d).memWf = true := by
    rw [Vector.all_eq_true]
    constructor
    · intro h d hd
      have := h d hd
      simpa [State.die, hd] using this
    · intro h d hd
      have := h d hd
      simpa [State.die, hd] using this
  simp only [State.memWf, Bool.and_eq_true, h, and_assoc]

/-- A change of anything but the memories keeps the form. -/
theorem State.memWf_congr {s t : State} (h1 : t.hostMem = s.hostMem) (h2 : t.mbxStage = s.mbxStage) (h3 : t.mbxSlot = s.mbxSlot)
    (h4 : t.dies = s.dies) : t.memWf = s.memWf := by
  simp [State.memWf, h1, h2, h3, h4]

@[simp] theorem State.memWf_wr (s : State) (f : Fld) (v : Nat) : (s.wr f v).memWf = s.memWf := rfl
@[simp] theorem State.memWf_inc (s : State) (f : Fld) (n : Nat) : (s.inc f n).memWf = s.memWf := rfl
@[simp] theorem State.memWf_sat (s : State) (f : Fld) (n : Nat) : (s.sat f n).memWf = s.memWf := rfl
@[simp] theorem State.memWf_updJob (s : State) (i : Nat) (f : Job → Job) : (s.updJob i f).memWf = s.memWf := rfl

theorem State.memWf_reset : State.reset.memWf = true := by
  rw [State.memWf_iff]
  refine ⟨rfl, rfl, rfl, fun d hd => ?_⟩
  simp only [State.die, State.reset, hd, Vector.getElem?_eq_getElem, Vector.getElem_replicate, Option.getD_some]
  rfl

/-- A die's change keeps the form if it keeps that of the die's memories. -/
theorem State.memWf_updDie {s : State} (d : Nat) {f : Die → Die} (hf : (s.die d).memWf = true → (f (s.die d)).memWf = true)
    (h : s.memWf = true) : (s.updDie d f).memWf = true := by
  rw [State.memWf_iff] at h ⊢
  refine ⟨h.1, h.2.1, h.2.2.1, fun e he => ?_⟩
  by_cases hde : d = e
  · subst hde
    rw [State.die_updDie_self s he]
    exact hf (h.2.2.2 d he)
  · rw [State.die_updDie_ne s hde]
    exact h.2.2.2 e he

theorem Die.memWf_congr {x y : Die} (h1 : y.spad = x.spad) (h2 : y.stack = x.stack) : y.memWf = x.memWf := by
  simp only [Die.memWf, h1, h2]

/-- A change of a die that leaves its memories alone keeps the form. -/
theorem State.memWf_updDie_of_eq {s : State} (d : Nat) {f : Die → Die} (h1 : (f (s.die d)).spad = (s.die d).spad)
    (h2 : (f (s.die d)).stack = (s.die d).stack) (h : s.memWf = true) : (s.updDie d f).memWf = true :=
  State.memWf_updDie d (fun hd => (Die.memWf_congr h1 h2).trans hd) h

theorem State.memWf_foldl {α : Type} (f : State → α → State) (hf : ∀ s a, s.memWf = true → (f s a).memWf = true) (as : List α) {s : State}
    (h : s.memWf = true) : (as.foldl f s).memWf = true := by
  induction as generalizing s with
  | nil => exact h
  | cons a as ih => exact ih (hf s a h)

/-! ### Stores keep the form -/

theorem State.memWf_toHost {s : State} (a : Nat) (bs : List Byte) (h : s.memWf = true) : (s.toHost a bs).memWf = true := by
  rw [State.memWf_iff] at h ⊢
  exact ⟨mapWf_mapPutBytes bs a h.1, h.2.1, h.2.2.1, h.2.2.2⟩

theorem State.memWf_setByteAt {s : State} (p : Place) (b : Byte) (h : s.memWf = true) : (s.setByteAt p b).memWf = true := by
  refine State.memWf_updDie p.die (fun hd => ?_) h
  simp only [Die.memWf, Bool.and_eq_true] at hd ⊢
  split
  · exact ⟨mapWf_mapSet p.key b hd.1, hd.2⟩
  · exact ⟨hd.1, mapWf_mapSet p.key b hd.2⟩

theorem State.memWf_poke (handle : Nat) (bs : List Byte) {s : State} (o : Nat) (h : s.memWf = true) : (s.poke handle o bs).memWf = true := by
  induction bs generalizing s o with
  | nil => exact h
  | cons b bs ih => exact ih (o + 1) (State.memWf_setByteAt _ b h)

theorem State.memWf_setErr {s : State} (p : Place) (e : Nat) (h : s.memWf = true) : (s.setErr p e).memWf = true := by
  refine State.memWf_updDie_of_eq p.die ?_ ?_ h <;> split <;> rfl

theorem State.memWf_clearErrs (handle f : Nat) {s : State} (o n : Nat) (h : s.memWf = true) : (State.clearErrs handle f s o n).memWf = true := by
  induction f generalizing s o n with
  | zero => exact h
  | succ f ih =>
    unfold State.clearErrs
    split
    · exact h
    · exact ih _ _ (State.memWf_setErr _ 0 h)

theorem State.memWf_write (handle o : Nat) (bs : List Byte) {s : State} (h : s.memWf = true) : (s.write handle o bs).memWf = true :=
  State.memWf_poke handle bs o (State.memWf_clearErrs handle _ o bs.length h)

theorem State.memWf_plant (us : List Upset) {s : State} (h : s.memWf = true) : (s.plant us).memWf = true := by
  induction us generalizing s with
  | nil => exact h
  | cons u us ih =>
    cases u with
    | row d b r u => exact ih (State.memWf_setErr _ _ h)
    | sector d c sl sec u => exact ih (State.memWf_setErr _ _ h)
    | ondie d c => exact ih (State.memWf_updDie_of_eq d.val rfl rfl h)

theorem State.memWf_zeroRange (handle : Nat) {s : State} (h : s.memWf = true) : (s.zeroRange handle).memWf = true := by
  refine State.memWf_foldl _ (fun t d ht => State.memWf_updDie d (fun hd => ?_) ht) _ h
  simp only [Die.memWf, Bool.and_eq_true] at hd ⊢
  split
  · exact ⟨mapWf_filter _ hd.1, hd.2⟩
  · exact ⟨hd.1, mapWf_filter _ hd.2⟩

theorem State.memWf_clearBank (d bank : Nat) {s : State} (h : s.memWf = true) : (s.clearBank d bank).memWf = true := by
  refine State.memWf_updDie d (fun hd => ?_) h
  simp only [Die.memWf, Bool.and_eq_true] at hd ⊢
  exact ⟨mapWf_filter _ hd.1, hd.2⟩

/-! ### Messages, events and mailboxes keep the form -/

theorem State.memWf_sendMsix (s : State) (v : Nat) : (s.sendMsix v).memWf = s.memWf := by
  unfold State.sendMsix
  split <;> rfl

theorem State.memWf_toEventRing (cls : Nat) (rec : List Byte) {s : State} (h : s.memWf = true) : (s.toEventRing cls rec).memWf = true := by
  unfold State.toEventRing
  split
  · dsimp only
    split
    · exact h
    · rw [State.memWf_sendMsix]
      exact State.memWf_toHost _ rec h
  · exact h

/-- A choice between two states in the form. -/
theorem State.memWf_ite {c : Prop} [Decidable c] {x y : State} (hx : x.memWf = true) (hy : y.memWf = true) :
    (if c then x else y).memWf = true := by
  split
  · exact hx
  · exact hy

theorem State.memWf_ite_snd {α : Type} {c : Prop} [Decidable c] {x y : α × State} (hx : x.2.memWf = true) (hy : y.2.memWf = true) :
    (if c then x else y).2.memWf = true := by
  split
  · exact hx
  · exact hy

theorem State.memWf_evAllowed (src : Nat) {s : State} (h : s.memWf = true) : (s.evAllowed src).2.memWf = true := by
  unfold State.evAllowed
  extract_lets x
  generalize decide (x.evWindow + 1000000 ≤ x.time) = c1
  generalize decide (s.hubEvWindow + 1000000 ≤ s.time) = c2
  refine State.memWf_ite_snd (State.memWf_ite_snd ?_ (State.memWf_ite_snd ?_ h)) (State.memWf_ite_snd ?_ (State.memWf_ite_snd ?_ h))
  · exact State.memWf_updDie_of_eq src rfl rfl h
  · exact State.memWf_updDie_of_eq src rfl rfl h
  · exact (State.memWf_congr rfl rfl rfl rfl).trans h
  · exact (State.memWf_congr rfl rfl rfl rfl).trans h

theorem State.memWf_raise (e : Event) {s : State} (h : s.memWf = true) : (s.raise e).memWf = true := by
  unfold State.raise
  extract_lets cls s1 s2
  have h2 : s2.memWf = true := by
    simp only [s2, s1]
    split <;> simpa only [State.memWf_wr, State.memWf_sat] using h
  clear_value s2
  have h3 := State.memWf_evAllowed e.src h2
  generalize s2.evAllowed e.src = p at h3 ⊢
  obtain ⟨ok, s3⟩ := p
  dsimp only at h3 ⊢
  split
  · refine State.memWf_toEventRing _ _ ?_
    split
    · exact h3
    · rw [State.memWf_updJob]
      exact h3
  · rw [State.memWf_sat]
    exact h3

theorem State.memWf_mbxTell (s : State) (m mid : Nat) : (s.mbxTell m mid).memWf = s.memWf := by
  unfold State.mbxTell
  split
  · exact State.memWf_sendMsix s _
  · rfl

/-- The mailbox stores with bytes put in. -/
theorem State.memWf_slotBytes (k : Nat) (bs : List Byte) {s : State} (h : s.memWf = true) :
    ({ s with mbxSlot := mapPutBytes s.mbxSlot k bs } : State).memWf = true := by
  rw [State.memWf_iff] at h ⊢
  exact ⟨h.1, h.2.1, mapWf_mapPutBytes bs k h.2.2.1, h.2.2.2⟩

theorem State.memWf_stageBytes (k : Nat) (bs : List Byte) {s : State} (h : s.memWf = true) :
    ({ s with mbxStage := mapPutBytes s.mbxStage k bs } : State).memWf = true := by
  rw [State.memWf_iff] at h ⊢
  exact ⟨h.1, mapWf_mapPutBytes bs k h.2.1, h.2.2.1, h.2.2.2⟩

theorem State.memWf_mbxFill (m : Nat) (msg : List Byte) {s : State} (h : s.memWf = true) : (s.mbxFill m msg).memWf = true := by
  have h1 := State.memWf_slotBytes (64 * m) (fit 64 msg) h
  unfold State.mbxFill
  dsimp only
  split
  · rw [State.memWf_wr, State.memWf_wr]
    exact h1
  · rw [State.memWf_mbxTell, State.memWf_wr, State.memWf_wr]
    exact h1

theorem State.memWf_mbxEmpty (m : Nat) {s : State} (h : s.memWf = true) : (s.mbxEmpty m).memWf = true := by
  have h1 := State.memWf_slotBytes (64 * m) (zeros 64) h
  unfold State.mbxEmpty
  generalize zeros 64 = z at h1 ⊢
  rw [State.memWf_wr, State.memWf_wr]
  exact h1

theorem State.memWf_mbxClear (m : Nat) {s : State} (h : s.memWf = true) : (s.mbxClear m).memWf = true := by
  have h1 := State.memWf_stageBytes (64 * m) (zeros 64) (State.memWf_mbxEmpty m h)
  unfold State.mbxClear
  generalize zeros 64 = z at h1 ⊢
  exact h1

/-! ### Reads keep the form -/

theorem State.memWf_lastErr (s : State) (p : Place) (ue : Bool) (mid : Nat) : (s.lastErr p ue mid).memWf = s.memWf := by
  unfold State.lastErr
  dsimp only
  split <;> simp only [State.memWf_wr]

theorem State.memWf_eccEvent (p : Place) (code : Nat) (w : Who) {s : State} (h : s.memWf = true) : (s.eccEvent p code w).memWf = true := by
  unfold State.eccEvent
  dsimp only
  split
  · rw [State.memWf_wr]
    exact State.memWf_raise _ h
  · exact State.memWf_raise _ h

/-- The write-back of a corrected row keeps the form. -/
theorem State.memWf_rowBack (d k : Nat) (bs : List Byte) {s : State} (h : s.memWf = true) :
    (s.updDie d fun x => { x with spad := mapPutBytes x.spad k bs }).memWf = true := by
  refine State.memWf_updDie d (fun hd => ?_) h
  simp only [Die.memWf, Bool.and_eq_true] at hd ⊢
  exact ⟨mapWf_mapPutBytes bs k hd.1, hd.2⟩

theorem State.memWf_eccCe (p : Place) (w : Who) {s : State} (h : s.memWf = true) : (s.eccCe p w).memWf = true := by
  unfold State.eccCe
  extract_lets +onlyGivenNames durable fixed
  have h0 : fixed.memWf = true := by
    simp only [fixed]
    split
    · exact State.memWf_rowBack _ _ _ h
    · exact h
  clear_value fixed
  extract_lets +onlyGivenNames s1 s2 key now due
  have h1 : s1.memWf = true := (State.memWf_lastErr _ p false w.mid).trans (State.memWf_setErr p 0 h0)
  have h2 : s2.memWf = true := State.memWf_ite h1 h1
  clear_value s2 due
  refine State.memWf_ite ?_ h2
  exact State.memWf_eccEvent p _ w (State.memWf_updDie_of_eq p.die rfl rfl h2)

theorem State.memWf_noteSector (p : Place) {s : State} (h : s.memWf = true) : (s.noteSector p).memWf = true := by
  unfold State.noteSector
  extract_lets seen s1 n
  have h1 : s1.memWf = true := State.memWf_updDie p.die (fun hd => hd) h
  split
  · exact h
  · split
    · exact State.memWf_raise _ h1
    · exact h1

theorem State.memWf_eccUe (p : Place) (w : Who) {s : State} (h : s.memWf = true) : (s.eccUe p w).memWf = true := by
  unfold State.eccUe
  extract_lets s1 s2
  have h1 : s1.memWf = true := by
    simp only [s1]
    rw [State.memWf_lastErr]
    exact h
  have h2 : s2.memWf = true := by
    simp only [s2]
    split <;> simpa only [State.memWf_inc] using h1
  exact State.memWf_noteSector p (State.memWf_eccEvent p _ w h2)

theorem State.memWf_readUnit (handle o n : Nat) (w : Who) {s : State} (h : s.memWf = true) : (s.readUnit handle o n w).st.memWf = true := by
  unfold State.readUnit
  dsimp only
  split
  · exact h
  · exact State.memWf_eccCe _ w h
  · exact State.memWf_eccUe _ w h

theorem State.memWf_readF (w : Who) (handle f : Nat) {s : State} (o n : Nat) (h : s.memWf = true) :
    (State.readF w handle f s o n).st.memWf = true := by
  induction f generalizing s o n with
  | zero => exact h
  | succ f ih =>
    unfold State.readF
    split
    · exact h
    · exact ih _ _ (State.memWf_readUnit handle _ _ w h)

/-- A read keeps the form. -/
theorem State.memWf_read (handle o n : Nat) (w : Who) {s : State} (h : s.memWf = true) : (s.read handle o n w).st.memWf = true :=
  State.memWf_readF w handle _ o n h

/-! ### Places -/

/-- The places of a handle's bytes go by the registers, the fuses and the rails alone. -/
theorem State.place_congr {s t : State} (h1 : t.regs = s.regs) (h2 : t.fuses = s.fuses) (h3 : t.power.on = s.power.on) (handle o : Nat) :
    t.place handle o = s.place handle o := by
  have hr : ∀ f, t.rd f = s.rd f := State.rd_congr h1 h2
  have hc : t.dieChans = s.dieChans := by
    funext d
    simp only [State.dieChans, hr]
  have hl : t.hLoc handle = s.hLoc handle := hr _
  have hp : t.hSpad handle = s.hSpad handle := by
    unfold State.hSpad
    rw [hl]
  have hpc : t.partChans = s.partChans := by
    simp only [State.partChans, State.partDies, hr, h3, hc]
  simp only [State.place, State.partSlots, hp, hl, hpc, hr, hc]

theorem State.spot_congr {s t : State} (h1 : t.regs = s.regs) (h2 : t.fuses = s.fuses) (h3 : t.power.on = s.power.on) (handle o : Nat) :
    t.spot handle o = s.spot handle o := by
  simp only [State.spot, State.place_congr h1 h2 h3]

theorem hDie_lt (handle : Nat) : hDie handle < 8 := Nat.mod_lt _ (by decide)

/-- Every byte of a handle lies on one of the eight dies. -/
theorem State.place_die (s : State) (handle o : Nat) : (s.place handle o).die < 8 := by
  have key : ∀ (chs : List (Nat × Nat)) (first A : Nat), (∀ c ∈ chs, c.1 < 8) → (stackPlace chs first A).die < 8 := by
    intro chs first A h
    simp only [stackPlace, List.getD_eq_getElem?_getD]
    by_cases hl : (interleave chs.length A).1 < chs.length
    · rw [List.getElem?_eq_getElem hl]
      exact h _ (List.getElem_mem hl)
    · rw [List.getElem?_eq_none (by omega)]
      decide
  unfold State.place
  dsimp only
  split
  · exact hDie_lt handle
  · split
    · refine key _ _ _ fun c hc => ?_
      simp only [State.dieChans, List.mem_map] at hc
      obtain ⟨_, _, rfl⟩ := hc
      exact hDie_lt handle
    · refine key _ _ _ fun c hc => ?_
      simp only [State.partChans, State.partDies, State.dieChans, List.mem_flatMap, List.mem_filter, List.mem_map, List.mem_range] at hc
      obtain ⟨d, ⟨hd, _⟩, _, _, rfl⟩ := hc
      exact hd

/-! ### What a byte reads after a store -/

/-- A byte of storage after another is stored: the byte stored at its own place, every other as before. -/
theorem State.byteAt_setByteAt {s : State} (p q : Place) (b : Byte) (hp : p.die < 8) (h : s.memWf = true) :
    (s.setByteAt p b).byteAt q = if p.die = q.die ∧ p.spad = q.spad ∧ p.key = q.key then b else s.byteAt q := by
  have hd := ((State.memWf_iff s).1 h).2.2.2 p.die hp
  simp only [Die.memWf, Bool.and_eq_true] at hd
  unfold State.byteAt State.setByteAt
  by_cases h1 : p.die = q.die
  · rw [← h1, State.die_updDie_self s hp]
    cases p.spad <;> cases q.spad <;>
      simp only [Bool.false_eq_true, Bool.true_eq_false, if_true, if_false, true_and, false_and, and_false,
        mapGet_mapSet _ _ _ hd.1, mapGet_mapSet _ _ _ hd.2]
  · rw [State.die_updDie_ne s h1]
    simp only [h1, false_and, if_false]

/-- Storing bytes in a handle's range changes no register, no fuse and no rail. -/
theorem State.poke_frame (handle : Nat) (bs : List Byte) (s : State) (o : Nat) :
    (s.poke handle o bs).regs = s.regs ∧ (s.poke handle o bs).fuses = s.fuses ∧ (s.poke handle o bs).power = s.power ∧
      (s.poke handle o bs).jobs = s.jobs ∧ (s.poke handle o bs).hostMem = s.hostMem := by
  induction bs generalizing s o with
  | nil => exact ⟨rfl, rfl, rfl, rfl, rfl⟩
  | cons b bs ih => exact ih (s.setByteAt (s.place handle o) b) (o + 1)

/-- A byte whose place no byte of a range has is not changed by storing to the range. -/
theorem State.byteAt_poke_ne (handle : Nat) (bs : List Byte) {s : State} (o : Nat) (q : Place) (h : s.memWf = true)
    (hne : ∀ k, k < bs.length → s.spot handle (o + k) ≠ (q.die, q.spad, q.key)) : (s.poke handle o bs).byteAt q = s.byteAt q := by
  induction bs generalizing s o with
  | nil => rfl
  | cons b bs ih =>
    have hp : ∀ k, (s.setByteAt (s.place handle o) b).spot handle k = s.spot handle k := State.spot_congr rfl rfl rfl handle
    unfold State.poke
    rw [ih (o + 1) (State.memWf_setByteAt _ b h) fun k hk => by
      rw [hp, show o + 1 + k = o + (k + 1) by omega]
      exact hne (k + 1) (by simpa using hk)]
    rw [State.byteAt_setByteAt _ _ _ (State.place_die s handle o) h, if_neg]
    intro ⟨h1, h2, h3⟩
    refine hne 0 (by simp) ?_
    rw [Nat.add_zero, State.spot, h1, h2, h3]

/-- A range that holds each of its bytes at a place of its own reads, after bytes are stored in it, what was stored. -/
theorem State.byteAt_poke (handle : Nat) (bs : List Byte) {s : State} (o k : Nat) (hk : k < bs.length) (h : s.memWf = true)
    (hs : s.spread handle o bs.length) : (s.poke handle o bs).byteAt (s.place handle (o + k)) = bs.getD k 0 := by
  induction bs generalizing s o k with
  | nil => simp at hk
  | cons b bs ih =>
    have hp : ∀ k, (s.setByteAt (s.place handle o) b).spot handle k = s.spot handle k := State.spot_congr rfl rfl rfl handle
    have hpl : ∀ k, (s.setByteAt (s.place handle o) b).place handle k = s.place handle k := State.place_congr rfl rfl rfl handle
    have hw := State.memWf_setByteAt (s.place handle o) b h
    unfold State.poke
    cases k with
    | zero =>
      rw [State.byteAt_poke_ne handle bs (o + 1) _ hw fun k hk => by
        rw [hp]
        intro he
        have := hs (k + 1) 0 (by simpa using hk) (by simp) (by rw [show o + (k + 1) = o + 1 + k by omega]; exact he)
        omega]
      rw [Nat.add_zero, State.byteAt_setByteAt _ _ _ (State.place_die s handle o) h]
      simp
    | succ k =>
      have := ih (s := s.setByteAt (s.place handle o) b) (o + 1) k (by simpa using hk) hw fun i j hi hj he => by
        rw [hp, hp] at he
        have := hs (i + 1) (j + 1) (by simpa using hi) (by simpa using hj)
          (by rw [show o + (i + 1) = o + 1 + i by omega, show o + (j + 1) = o + 1 + j by omega]; exact he)
        omega
      rw [hpl, show o + 1 + k = o + (k + 1) by omega] at this
      simpa using this

end Sys2Proof.Machine
end

