-- ==== Sys2Proof/Laws/Ops.lean ====
section
/-! SUPPORT. What the shared operations do, said once each: events, messages, entries read and completions posted. Proofs cite
these and unfold nothing. -/

namespace Sys2Proof.Machine

/-! ### Bytes in a map -/

@[simp] theorem leBytes_length (n x : Nat) : (leBytes n x).length = n := by
  induction n generalizing x with
  | zero => rfl
  | succ n ih => simp [leBytes, ih]

theorem mapBytes_length (m : NMap Byte) (k n : Nat) : (mapBytes m k n).length = n := by
  induction n generalizing k with
  | zero => rfl
  | succ n ih => simp [mapBytes, ih]

theorem mapBytes_getD (m : NMap Byte) (k n i : Nat) (hi : i < n) : (mapBytes m k n).getD i 0 = mapGet 0 m (k + i) := by
  induction n generalizing k i with
  | zero => omega
  | succ n ih =>
    cases i with
    | zero => simp [mapBytes]
    | succ i =>
      have := ih (k + 1) i (by omega)
      rw [show k + 1 + i = k + (i + 1) by omega] at this
      simpa [mapBytes] using this

/-- A run of bytes reads back. -/
theorem mapBytes_mapPutBytes {m : NMap Byte} (k : Nat) (bs : List Byte) (h : mapWf 0 m = true) :
    mapBytes (mapPutBytes m k bs) k bs.length = bs := by
  refine List.ext_getElem (mapBytes_length _ _ _) fun i h1 h2 => ?_
  have h3 := mapBytes_getD (mapPutBytes m k bs) k bs.length i h2
  rw [List.getD_eq_getElem _ _ h1, mapGet_mapPutBytes bs k (k + i) h, if_pos ⟨by omega, by omega⟩,
    show k + i - k = i by omega, List.getD_eq_getElem _ _ h2] at h3
  exact h3

/-- A run of bytes apart from what is written reads as before. -/
theorem mapBytes_mapPutBytes_ne {m : NMap Byte} (k : Nat) (bs : List Byte) (j n : Nat) (h : mapWf 0 m = true)
    (ha : j + n ≤ k ∨ k + bs.length ≤ j) : mapBytes (mapPutBytes m k bs) j n = mapBytes m j n := by
  refine List.ext_getElem (by rw [mapBytes_length, mapBytes_length]) fun i h1 h2 => ?_
  rw [mapBytes_length] at h1
  have h3 := mapBytes_getD (mapPutBytes m k bs) j n i h1
  have h4 := mapBytes_getD m j n i h1
  rw [mapGet_mapPutBytes bs k (j + i) h, if_neg (by omega), ← h4] at h3
  rwa [List.getD_eq_getElem _ _ (by rwa [mapBytes_length]), List.getD_eq_getElem _ _ (by rwa [mapBytes_length])] at h3

/-! ### Messages and events -/

theorem key_ne_of_addr {f g : Fld} (h : f.key / 64 ≠ g.key / 64) : f.key ≠ g.key := fun h1 => h (by rw [h1])

theorem eventReg_false {a : Nat} (h : eventReg a = false) :
    ¬ (0x40000 ≤ a ∧ a < 0x40050) ∧ a ≠ 0xC0020 ∧ a ≠ 0x10020 ∧ ¬ (0x31000 ≤ a ∧ a < 0x31020) := by
  simp only [eventReg, Bool.or_eq_false_iff, Bool.and_eq_false_iff, decide_eq_false_iff_not] at h
  obtain ⟨⟨⟨h1, h2⟩, h3⟩, h4⟩ := h
  exact ⟨by omega, h2, h3, by omega⟩

/-- A write to an event register leaves every field of other registers as it reads. -/
theorem State.rd_wr_event (s : State) {f g : Fld} (v : Nat) (hg : eventReg (g.key / 64) = true) (hf : eventReg (f.key / 64) = false) :
    (s.wr g v).rd f = s.rd f :=
  State.rd_wr_ne s v fun h => by rw [h, hf] at hg; exact absurd hg (by decide)

/-- R321, R469: a message on one of the 256 vectors changes the list of messages or a pending bit. -/
theorem State.rd_sendMsix (s : State) {v : Nat} (hv : v < 256) {f : Fld} (hf : eventReg (f.key / 64) = false) :
    (s.sendMsix v).rd f = s.rd f := by
  unfold State.sendMsix
  split
  · refine State.rd_wr_event s _ ?_ hf
    have h1 : (R.MSIX_PBA_PEND (v / 64)).key / 64 = 0x31000 + v / 64 * 8 := by
      simp only [R.MSIX_PBA_PEND, Fld.key]
      omega
    rw [h1]
    simp only [eventReg, Bool.or_eq_true, Bool.and_eq_true, decide_eq_true_eq]
    omega
  · rfl

/-- Everything but the registers and the messages is as before. -/
theorem State.sendMsix_frame (s : State) (v : Nat) : s.sendMsix v = { s with regs := (s.sendMsix v).regs, msix := (s.sendMsix v).msix } := by
  unfold State.sendMsix
  split <;> rfl

theorem State.rd_toEventRing (s : State) (cls : Nat) (rec : List Byte) {f : Fld} (hf : eventReg (f.key / 64) = false) :
    (s.toEventRing cls rec).rd f = s.rd f := by
  unfold State.toEventRing
  split
  · dsimp only
    split
    · rw [State.rd_wr_event _ _ (by decide) hf, State.sat, State.rd_wr_event _ _ (by decide) hf]
    · rw [State.rd_sendMsix _ (State.rd_lt s R.HIF_EQ_CFG_VEC) hf, State.rd_wr_event _ _ (by decide) hf]
      rfl
  · rfl

theorem State.toEventRing_frame (s : State) (cls : Nat) (rec : List Byte) : s.toEventRing cls rec =
    { s with regs := (s.toEventRing cls rec).regs, msix := (s.toEventRing cls rec).msix, hostMem := (s.toEventRing cls rec).hostMem } := by
  unfold State.toEventRing
  split
  · dsimp only
    split
    · rfl
    · rw [State.sendMsix_frame]
      rfl
  · rfl

theorem State.rd_evAllowed (s : State) (src : Nat) (f : Fld) : (s.evAllowed src).2.rd f = s.rd f := by
  unfold State.evAllowed
  extract_lets x
  generalize decide (x.evWindow + 1000000 ≤ x.time) = c1
  generalize decide (s.hubEvWindow + 1000000 ≤ s.time) = c2
  split
  · split
    · rfl
    · split <;> rfl
  · split
    · rfl
    · split <;> rfl

/-- The rate limit changes a die's window and count, or the hub's. -/
theorem State.evAllowed_frame (s : State) (src : Nat) : (s.evAllowed src).2 =
    { s with dies := (s.evAllowed src).2.dies, hubEvWindow := (s.evAllowed src).2.hubEvWindow, hubEvCount := (s.evAllowed src).2.hubEvCount } := by
  unfold State.evAllowed
  extract_lets x
  generalize decide (x.evWindow + 1000000 ≤ x.time) = c1
  generalize decide (s.hubEvWindow + 1000000 ≤ s.time) = c2
  split
  · split
    · rfl
    · split <;> rfl
  · split
    · rfl
    · split <;> rfl

theorem State.evAllowed_die (s : State) (src d : Nat) : (s.evAllowed src).2.die d =
    { s.die d with evWindow := ((s.evAllowed src).2.die d).evWindow, evCount := ((s.evAllowed src).2.die d).evCount } := by
  have key : ∀ (u : Die → Die), (∀ y, u y = { y with evWindow := (u y).evWindow, evCount := (u y).evCount }) → src < 8 →
      (s.updDie src u).die d = { s.die d with evWindow := ((s.updDie src u).die d).evWindow, evCount := ((s.updDie src u).die d).evCount } := by
    intro u hu hs
    by_cases h : src = d
    · subst h
      rw [State.die_updDie_self s hs]
      exact hu _
    · rw [State.die_updDie_ne s h]
  unfold State.evAllowed
  extract_lets x
  generalize decide (x.evWindow + 1000000 ≤ x.time) = c1
  generalize decide (s.hubEvWindow + 1000000 ≤ s.time) = c2
  split
  · next hs =>
    split
    · exact key _ (fun y => rfl) hs
    · split
      · exact key _ (fun y => rfl) hs
      · rfl
  · split
    · rfl
    · split <;> rfl

theorem eventReg_alert (k : Nat) : eventReg ((alertFld k).key / 64) = true := by
  unfold alertFld
  split <;> decide

/-- R449–R451: raising an event of one of the eight classes changes no register but those of events. -/
theorem State.rd_raise (s : State) (e : Event) (hc : e.code / 256 - 1 < 8) {f : Fld} (hf : eventReg (f.key / 64) = false) :
    (s.raise e).rd f = s.rd f := by
  have hcount : eventReg ((R.EVT_COUNT_COUNT (e.code / 256 - 1)).key / 64) = true := by
    have h1 : (R.EVT_COUNT_COUNT (e.code / 256 - 1)).key / 64 = 0x40000 + (e.code / 256 - 1) * 8 := by
      simp only [R.EVT_COUNT_COUNT, Fld.key]
      omega
    rw [h1]
    simp only [eventReg, Bool.or_eq_true, Bool.and_eq_true, decide_eq_true_eq]
    omega
  unfold State.raise
  extract_lets cls s1 s2
  have h1 : s1.rd f = s.rd f := by
    simp only [s1]
    rw [State.rd_wr_event _ _ (by decide) hf, State.rd_wr_event _ _ (by decide) hf, State.rd_wr_event _ _ (by decide) hf,
      State.rd_wr_event _ _ (by decide) hf, State.sat, State.rd_wr_event _ _ hcount hf]
  have h2 : s2.rd f = s.rd f := by
    simp only [s2]
    split
    · rw [State.rd_wr_event _ _ (eventReg_alert _) hf, h1]
    · exact h1
  clear_value s2
  have h3 := State.rd_evAllowed s2 e.src f
  generalize s2.evAllowed e.src = p at h3 ⊢
  obtain ⟨ok, s3⟩ := p
  dsimp only at h3 ⊢
  split
  · rw [State.rd_toEventRing _ _ _ hf]
    split
    · rw [h3, h2]
    · rw [State.rd_updJob, h3, h2]
  · rw [State.sat, State.rd_wr_event _ _ (by decide) hf, h3, h2]

/-- What raising an event leaves alone: all but the registers, the messages, host memory, the jobs and the rate limit's state. -/
theorem State.raise_frame (s : State) (e : Event) : s.raise e =
    { s with regs := (s.raise e).regs, msix := (s.raise e).msix, hostMem := (s.raise e).hostMem, jobs := (s.raise e).jobs, dies := (s.raise e).dies, hubEvWindow := (s.raise e).hubEvWindow, hubEvCount := (s.raise e).hubEvCount } := by
  unfold State.raise
  extract_lets cls s1 s2
  have h2 : s2 = { s with regs := s2.regs } := by
    simp only [s2]
    split <;> rfl
  clear_value s2
  have h3 := State.evAllowed_frame s2 e.src
  generalize s2.evAllowed e.src = p at h3 ⊢
  obtain ⟨ok, s3⟩ := p
  dsimp only at h3 ⊢
  rw [h2] at h3
  dsimp only at h3
  split
  · split
    · rw [State.toEventRing_frame]
      dsimp only
      rw [h3]
    · rw [State.toEventRing_frame]
      unfold State.updJob
      dsimp only
      rw [h3]
  · unfold State.sat State.wr
    dsimp only
    rw [h3]

/-- What raising an event leaves of each die. -/
theorem State.raise_die (s : State) (e : Event) (d : Nat) : (s.raise e).die d =
    { s.die d with evWindow := ((s.raise e).die d).evWindow, evCount := ((s.raise e).die d).evCount } := by
  unfold State.raise
  extract_lets cls s1 s2
  have h2 : s2.die d = s.die d := by
    simp only [s2]
    split <;> rfl
  clear_value s2
  have h3 := State.evAllowed_die s2 e.src d
  generalize s2.evAllowed e.src = p at h3 ⊢
  obtain ⟨ok, s3⟩ := p
  dsimp only at h3 ⊢
  rw [h2] at h3
  split
  · split
    · have h4 : ∀ c r, (s3.toEventRing c r).die d = s3.die d := fun c r => by
        rw [State.toEventRing_frame]
        rfl
      rw [h4]
      exact h3
    · have h4 : ∀ c r u, ((s3.updJob e.job u).toEventRing c r).die d = s3.die d := fun c r u => by
        rw [State.toEventRing_frame]
        rfl
      rw [h4]
      exact h3
  · exact h3

/-- Storage is as before. -/
theorem State.raise_sameStore (s : State) (e : Event) : s.SameStore (s.raise e) := fun d _ => by
  rw [State.raise_die s e d]
  exact ⟨rfl, rfl⟩

/-- The EVT_LAST registers, outside what else raising an event writes, stand in an event ring's update. -/
theorem State.rd_last_toEventRing (s : State) (cls : Nat) (rec : List Byte) {f : Fld} (hf : f.key / 64 = 0x40040) :
    (s.toEventRing cls rec).rd f = s.rd f := by
  have hne : ∀ (t : State) (g : Fld) (v : Nat), g.key / 64 ≠ 0x40040 → (t.wr g v).rd f = t.rd f := fun t g v hg =>
    State.rd_wr_ne t v (key_ne_of_addr (by rw [hf]; exact hg))
  have hm : ∀ (t : State) (v : Nat), v < 256 → (t.sendMsix v).rd f = t.rd f := by
    intro t v hv
    unfold State.sendMsix
    split
    · refine hne _ _ _ ?_
      simp only [R.MSIX_PBA_PEND, Fld.key]
      omega
    · rfl
  unfold State.toEventRing
  split
  · dsimp only
    split
    · rw [hne _ _ _ (by decide), State.sat, hne _ _ _ (by decide)]
    · rw [hm _ _ (State.rd_lt s R.HIF_EQ_CFG_VEC), hne _ _ _ (by decide)]
      rfl
  · rfl

/-- R450: after an event EVT_LAST holds its code, source, unit and site. -/
theorem State.raise_last (s : State) (e : Event) :
    (s.raise e).rd R.EVT_LAST_CODE = e.code % 2 ^ 16 ∧ (s.raise e).rd R.EVT_LAST_SRC = e.src % 2 ^ 8 ∧
      (s.raise e).rd R.EVT_LAST_UNIT = e.unit % 2 ^ 8 ∧ (s.raise e).rd R.EVT_LAST_SITE = e.site % 2 ^ 32 := by
  have key : ∀ f : Fld, f.key / 64 = 0x40040 → (s.raise e).rd f = (((((s.sat (R.EVT_COUNT_COUNT (e.code / 256 - 1)) 1).wr R.EVT_LAST_CODE e.code).wr
      R.EVT_LAST_SRC e.src).wr R.EVT_LAST_UNIT e.unit).wr R.EVT_LAST_SITE e.site).rd f := by
    intro f hf
    unfold State.raise
    extract_lets cls s1 s2
    have h2 : s2.rd f = s1.rd f := by
      simp only [s2]
      split
      · refine State.rd_wr_ne _ _ (key_ne_of_addr ?_)
        rw [hf]
        unfold alertFld
        split <;> decide
      · rfl
    clear_value s2
    have h3 := State.rd_evAllowed s2 e.src f
    generalize s2.evAllowed e.src = p at h3 ⊢
    obtain ⟨ok, s3⟩ := p
    dsimp only at h3 ⊢
    split
    · rw [State.rd_last_toEventRing _ _ _ hf]
      split
      · rw [h3, h2]
      · rw [State.rd_updJob, h3, h2]
    · rw [State.sat, State.rd_wr_ne _ _ (key_ne_of_addr (by rw [hf]; decide)), h3, h2]
  refine ⟨?_, ?_, ?_, ?_⟩
  · rw [key _ (by decide), State.rd_wr_ne _ _ (by decide), State.rd_wr_ne _ _ (by decide), State.rd_wr_ne _ _ (by decide), State.rd_wr_self]
    rfl
  · rw [key _ (by decide), State.rd_wr_ne _ _ (by decide), State.rd_wr_ne _ _ (by decide), State.rd_wr_self]
    rfl
  · rw [key _ (by decide), State.rd_wr_ne _ _ (by decide), State.rd_wr_self]
    rfl
  · rw [key _ (by decide), State.rd_wr_self]
    rfl

/-! ### The register file keeps its form -/

theorem State.regsWf_reset : State.reset.regsWf = true := rfl

theorem State.regsWf_wr {s : State} (f : Fld) (v : Nat) (h : s.regsWf = true) : (s.wr f v).regsWf = true :=
  mapRises_mapPut _ h (Nat.zero_le _)

@[simp] theorem State.regsWf_updDie (s : State) (d : Nat) (u : Die → Die) : (s.updDie d u).regsWf = s.regsWf := rfl
@[simp] theorem State.regsWf_updJob (s : State) (i : Nat) (u : Job → Job) : (s.updJob i u).regsWf = s.regsWf := rfl
@[simp] theorem State.regsWf_toHost (s : State) (a : Nat) (bs : List Byte) : (s.toHost a bs).regsWf = s.regsWf := rfl

theorem State.regsWf_sendMsix {s : State} (v : Nat) (h : s.regsWf = true) : (s.sendMsix v).regsWf = true := by
  unfold State.sendMsix
  split
  · exact State.regsWf_wr _ _ h
  · exact h

/-! ### Entries and completions -/

/-- R314: reading an entry moves the ring's head, passes the turn on and drops the entry's doorbell time; nothing else. -/
theorem State.readEntry_spec (s : State) (r : Nat) (bytes : List Byte) :
    (s.readEntry r bytes).2 = ⟨r, bytes, (s.rd (R.SQ_STATE_HEAD r) + 1) % s.sqSize r⟩ ∧
      (s.readEntry r bytes).1 = { s with regs := (s.wr (R.SQ_STATE_HEAD r) ((s.rd (R.SQ_STATE_HEAD r) + 1) % s.sqSize r)).regs, nextRing := (r + 1) % 64, sqTimes := mapSet [] s.sqTimes r ((mapGet [] s.sqTimes r).drop 1) } := ⟨rfl, rfl⟩

theorem State.rd_readEntry_ne (s : State) (r : Nat) (bytes : List Byte) {f : Fld} (hf : f.key ≠ (R.SQ_STATE_HEAD r).key) :
    (s.readEntry r bytes).1.rd f = s.rd f :=
  (State.rd_congr rfl rfl f).trans (State.rd_wr_ne s _ (Ne.symm hf))

@[simp] theorem complBytes_length (ring tag kind sqHead phase : Nat) (k : Compl) : (complBytes ring tag kind sqHead phase k).length = 32 := by
  simp [complBytes, zeros]

/-- R318, R321: what posting a completion leaves alone; its bytes stand in host memory where the ring's tail pointed. -/
theorem State.post_spec (s : State) (ring tag kind sqHead : Nat) (k : Compl) : s.post ring tag kind sqHead k =
    { s with regs := (s.post ring tag kind sqHead k).regs, msix := (s.post ring tag kind sqHead k).msix, coal := (s.post ring tag kind sqHead k).coal, hostMem := mapPutBytes s.hostMem (s.complAt ring) (complBytes ring tag kind sqHead (s.rd (R.CQ_STATE_PHASE (s.rd (R.SQ_CFG_CQ ring)))) k) } := by
  unfold State.post State.postTo
  extract_lets tail phase s1 next s2 urgent
  have h1 : s1 = { s with hostMem := mapPutBytes s.hostMem (s.complAt ring) (complBytes ring tag kind sqHead (s.rd (R.CQ_STATE_PHASE (s.rd (R.SQ_CFG_CQ ring)))) k) } := rfl
  clear_value s1
  have h2 : s2 = { s1 with regs := s2.regs } := rfl
  rw [h1] at h2
  clear_value s2
  dsimp only
  split
  · unfold State.signalCq
    rw [State.sendMsix_frame, h2]
  · rw [h2]

theorem State.post_hostMem (s : State) (ring tag kind sqHead : Nat) (k : Compl) : (s.post ring tag kind sqHead k).hostMem =
    mapPutBytes s.hostMem (s.complAt ring) (complBytes ring tag kind sqHead (s.rd (R.CQ_STATE_PHASE (s.rd (R.SQ_CFG_CQ ring)))) k) := by
  rw [State.post_spec]

/-- R318: posting a completion posts it. -/
theorem State.post_posted (s : State) (ring tag kind sqHead : Nat) (k : Compl) (h : mapWf (0 : Byte) s.hostMem = true) :
    Posted s (s.post ring tag kind sqHead k) ring tag kind sqHead k := by
  unfold Posted PostedOn
  rw [State.post_hostMem]
  have := mapBytes_mapPutBytes (s.complAt ring) (complBytes ring tag kind sqHead (s.rd (R.CQ_STATE_PHASE (s.rd (R.SQ_CFG_CQ ring)))) k) h
  rwa [complBytes_length] at this

theorem State.memWf_post (ring tag kind sqHead : Nat) (k : Compl) {s : State} (h : s.memWf = true) :
    (s.post ring tag kind sqHead k).memWf = true := by
  rw [State.memWf_iff] at h ⊢
  refine ⟨?_, ?_, ?_, ?_⟩
  · rw [State.post_hostMem]
    exact mapWf_mapPutBytes _ _ h.1
  · rw [State.post_spec]
    exact h.2.1
  · rw [State.post_spec]
    exact h.2.2.1
  · intro d hd
    rw [State.post_spec]
    exact h.2.2.2 d hd

theorem State.memWf_readEntry (r : Nat) (bytes : List Byte) {s : State} (h : s.memWf = true) : (s.readEntry r bytes).1.memWf = true :=
  (State.memWf_congr rfl rfl rfl rfl).trans h

/-! ### Errors and reads -/

@[simp] theorem State.plant_nil (s : State) : s.plant [] = s := rfl

theorem State.readUnit_clean {s : State} {handle o n : Nat} (w : Who) (h : s.errAt (s.place handle o) = 0) :
    s.readUnit handle o n w = ⟨s, s.peek handle o n, false⟩ := by
  unfold State.readUnit
  dsimp only
  rw [h]
  rfl

theorem State.peek_append (s : State) (handle o n m : Nat) : s.peek handle o n ++ s.peek handle (o + n) m = s.peek handle o (n + m) := by
  have key : ∀ (g : Nat → Byte), (List.range n).map g ++ (List.range m).map (fun i => g (n + i)) = (List.range (n + m)).map g := by
    intro g
    rw [List.range_add, List.map_append, List.map_map]
    rfl
  have := key fun i => s.byteAt (s.place handle (o + i))
  simp only [← Nat.add_assoc] at this
  exact this

/-- A read of bytes that hold no error changes nothing and gives what storage holds, as far as its fuel goes. -/
theorem State.readF_clean (w : Who) (handle : Nat) (f : Nat) {s : State} (o n : Nat) (h : s.clean handle o n) (hf : n ≤ 64 * f) (h64 : o % 64 = 0) :
    State.readF w handle f s o n = ⟨s, s.peek handle o n, false⟩ := by
  induction f generalizing o n with
  | zero =>
    have : n = 0 := by omega
    subst this
    rfl
  | succ f ih =>
    unfold State.readF
    by_cases hn : n = 0
    · subst hn
      rfl
    · rw [if_neg hn]
      extract_lets width k g r
      have hw : width = 64 ∨ width = 128 := by
        simp only [width, State.hWidth]
        split
        · exact .inr rfl
        · exact .inl rfl
      have hk : 0 < k ∧ k ≤ n ∧ (k = n ∨ 64 ≤ k ∧ k % 64 = 0) := by
        simp only [k]
        rcases hw with hw | hw <;> rw [hw] <;> omega
      have hg : g = ⟨s, s.peek handle o k, false⟩ := State.readUnit_clean w (by simpa using h 0 (by omega))
      have hr : r = ⟨s, s.peek handle (o + k) (n - k), false⟩ := by
        simp only [r, hg]
        rcases hk.2.2 with h1 | h1
        · have : n - k = 0 := by omega
          rw [this]
          cases f <;> rfl
        · refine ih (o + k) (n - k) (fun i hi => ?_) (by omega) (by omega)
          rw [Nat.add_assoc]
          exact h (k + i) (by omega)
      rw [hg, hr]
      simp only [State.peek_append, Bool.or_self, show k + (n - k) = n by omega]

/-- A read from a multiple of 64 of bytes that hold no error changes nothing and gives what storage holds. -/
theorem State.read_clean {s : State} {handle o n : Nat} (w : Who) (h : s.clean handle o n) (h64 : o % 64 = 0) :
    s.read handle o n w = ⟨s, s.peek handle o n, false⟩ := by
  unfold State.read
  exact State.readF_clean w handle (n / 64 + 2) o n h (by omega) h64

end Sys2Proof.Machine
end

