-- ==== Sys2Proof/Tests/Slice0.lean ====
section
/-! SUPPORT. Small tests: ill-formed commands are refused by `wf`; effects of single commands on small states, from the rules; and
for each statement of Certificates/Slice0/Obligations.lean concrete states and operands that meet its hypotheses together
(`witness_…`, named after the statement, with values at the ends of the ranges where the rules give ranges). -/

open Sys2Proof Sys2Proof.Machine

namespace Sys2Proof.Tests

set_option Elab.async false

/-! ### Small states -/

/-- The state with fields written. -/
def put (s : State) (fs : List (Fld × Nat)) : State := fs.foldl (fun t p => t.wr p.1 p.2) s

/-- The part after boot: rails up, RESET_N released, the memories scrubbed and enabled, the host interface on, ring 0 and
completion ring 0 enabled, one entry waiting on ring 0, admission and Sage on. -/
def host : State :=
  put { State.reset with power := { resetn := true, vin52 := true, pwrgood := true }, dies := Vector.replicate 8 {} }
    ([(R.SEC_STATE_STAGE, 4), (R.HIF_CFG_ENABLE, 1), (R.SQ_CFG_EN 0, 1), (R.SQ_CFG_KINDS 0, 0x3F), (R.SQ_STATE_TAIL 0, 1),
     (R.CQ_CFG_EN 0, 1), (R.CQ_BASE_BASE 0, 0x1000), (R.ADM_CFG_ENABLE, 1), (R.SAGE_CFG_ENABLE, 1)] ++
     (List.range 8).flatMap fun d => [(R.SPAD_CFG_ENABLE d, 1), (R.SPAD_STATUS_SCRUB_BUSY d, 0), (R.MEM_CFG_ENABLE d, 1)])

/-- A submission entry: kind, slot, tag and the 64-bit words from 0x08 on (R311). -/
def entryOf (kind slot tag : Nat) (ws : List Nat) : List Byte :=
  fit 64 (leBytes 1 kind ++ [1] ++ leBytes 2 slot ++ leBytes 4 tag ++ ws.flatMap (leBytes 8))

/-- A buffer in stacked memory at a handle. -/
def buf (s : State) (h loc attr len base : Nat) : State := s.putStackEntry (hDie h) (hIdx h) loc attr len base 0xF 0

/-- A buffer in scratchpad at a handle: one bank. -/
def pad (s : State) (h attr len bank : Nat) : State :=
  put s [(R.SPAD_HTAB0_V (hDie h) (hIdx h), 1), (R.SPAD_HTAB0_BOUND (hDie h) (hIdx h), 1), (R.SPAD_HTAB0_LOC (hDie h) (hIdx h), 0),
    (R.SPAD_HTAB0_ATTR (hDie h) (hIdx h), attr), (R.SPAD_HTAB1_LENGTH (hDie h) (hIdx h), len), (R.SPAD_HTAB0_BANK_LO (hDie h) (hIdx h), bank),
    (R.SPAD_HTAB0_BANK_CNT (hDie h) (hIdx h), 1)]

/-- A job on die 0. -/
def aJob : Job :=
  { id := 1, ring := 0, tag := 7, sqHead := 1, slot := 0, digest := [], dieMap := [0], tDoor := 0, finish := 0, deadline := 0, seed := [],
    inputs := [], handles := [], watchAddr := 0, watchLen := 0, recAddr := 0x8000, phase := .running }

/-- The host state with one job running on die 0. -/
def busy : State := { host with jobs := [aJob], nextJob := 2 }

/-- The bytes of a range hold no error, as a test. -/
def cleanB (s : State) (h o n : Nat) : Bool := (List.range n).all fun k => s.errAt (s.place h (o + k)) = 0

/-- What a write covers only in part holds no error, as a test. -/
def cutB (s : State) (h o n : Nat) : Bool := (s.edges h o n).all fun a => s.errAt (s.place h a) = 0

/-- The bytes of a range lie at different places, as a test. -/
def spreadB (s : State) (h o n : Nat) : Bool := decide ((List.range n).map fun k => s.spot h (o + k)).Nodup

theorem ready_clean {s : State} {h o n : Nat} (w : cleanB s h o n = true) : s.clean h o n := by
  intro k hk
  simpa [cleanB] using (List.all_eq_true.mp w) k (List.mem_range.mpr hk)

theorem ready_cut {s : State} {h o n : Nat} (w : cutB s h o n = true) : s.cutClean h o n := by
  intro a ha
  simpa using (List.all_eq_true.mp w) a ha

theorem ready_spread {s : State} {h o n : Nat} (w : spreadB s h o n = true) : s.spread h o n := by
  have nd : ((List.range n).map fun k => s.spot h (o + k)).Nodup := of_decide_eq_true w
  intro j k hj hk e
  have hj' : j < ((List.range n).map fun k => s.spot h (o + k)).length := by simpa using hj
  have hk' : k < ((List.range n).map fun k => s.spot h (o + k)).length := by simpa using hk
  exact (List.getElem_inj (h₀ := hj') (h₁ := hk') nd).mp (by simpa using e)

/-- The next state that a command answers; the state itself where it stops. -/
def after (i : Instr) (s : State) : State := nextOr s (exec i s)

/-! ### Well-formed and ill-formed commands -/

theorem test_job_ill_formed : (Instr.job 0 [] [] []).wf = false := by decide
theorem test_load_ill_formed : (Instr.load 0 (zeros 63) []).wf = false := by decide
theorem test_ingest_ill_formed : (Instr.ingest 0 (zeros 65) [] [] []).wf = false := by decide
theorem test_release_decrypt_ill_formed : (Instr.releaseDecrypt 0 [] [] false []).wf = false := by decide
theorem test_release_probe_ill_formed : (Instr.releaseProbe 0 [] [] false []).wf = false := by decide
theorem test_release_allowlist_ill_formed : (Instr.releaseAllowlist 0 [] [] false).wf = false := by decide
theorem test_buffer_create_ill_formed : (Instr.bufferCreate 0 []).wf = false := by decide
theorem test_buffer_free_ill_formed : (Instr.bufferFree 0 []).wf = false := by decide
theorem test_buffer_write_ill_formed : (Instr.bufferWrite 0 [] [] []).wf = false := by decide
theorem test_buffer_read_ill_formed : (Instr.bufferRead 0 [] []).wf = false := by decide
theorem test_abort_ill_formed : (Instr.abort 0 []).wf = false := by decide
theorem test_entry_fetch_timeout_ill_formed : (Instr.entryFetchTimeout 0 []).wf = false := by decide
theorem test_admit_late_ill_formed : (Instr.admitLate 0 [] []).wf = false := by decide
theorem test_aperture_write_ill_formed : (Instr.apertureWrite 0 0 [] []).wf = false ∧ (Instr.apertureWrite 0 0x3FFFFFFF [0, 0] []).wf = false := by
  decide
theorem test_job_well_formed : (Instr.job 0 (entryOf 1 0 7 []) [] []).wf = true := by decide
theorem test_no_word_spells_a_command : decodeTableWord 8 0x5A = none := by decide

/-! ### The queue, the host interface and the mailbox -/

theorem test_step_runs_the_front : (match step { host with pending := [.eqDoorbell 0] } with | .next t => t.pending == [] | _ => false) = true := by
  decide +kernel

theorem witness_host_ready : host.hostUp = true ∧ host.mayRead 0 2 = true ∧ host.memWf = true ∧ host.regsWf = true := by decide +kernel

/-- RingsServed: a tail at the ring's last place is accepted, one at its size and one that takes an entry back are not; a ring
with a shadow that is polled and one that is not. -/
theorem witness_tails :
    let s := put host [(R.SQ_SHADOW_ADDR 0, 0x2000)]
    host.hostUp = true ∧ host.tailOk 0 15 = true ∧ host.tailOk 0 16 = false ∧ host.tailOk 0 0 = false ∧ s.tailOk 0 15 = true ∧ s.tailOk 0 0 = false ∧
      s.rd (R.SQ_SHADOW_ADDR 0) ≠ 0 ∧ s.on (R.SQ_CFG_EN 0) = true ∧ bitOf s.poll 0 = false ∧ s.rd (R.SQ_STATE_TAIL 0) ≠ 0 ∧
      bitOf ({ s with poll := 1 } : State).poll 0 = true ∧ mapWf [] s.sqTimes = true ∧ mapWf (0 : Byte) s.hostMem = true := by decide +kernel

theorem test_doorbell_sets_poll :
    mapBytes (after (.sqDoorbell 0 2) (put host [(R.SQ_SHADOW_ADDR 0, 0x2000)])).hostMem 0x2008 8 = leBytes 8 1 := by decide +kernel

/-- RingsServed: heads of a completion ring and of the event ring that hold 15 entries. -/
theorem witness_heads :
    headOk (host.cqSize 0) 0 15 15 = true ∧ headOk (host.cqSize 0) 0 15 16 = false ∧ headOk (host.cqSize 0) 3 2 3 = true ∧ headOk 16 0 0 1 = false := by
  decide +kernel

/-- RingsServed: the ring timers at their first moment. -/
theorem witness_ring_timers :
    let s : State := { put host [(R.SQ_SHADOW_ADDR 0, 0x2000), (R.CQ_CFG_COAL_US 0, 50)] with
      poll := 1, time := 50000, coal := [(0, 1, 0)], shadowSeen := [(0, 0)] }
    s.hostUp = true ∧ bitOf s.poll 0 = true ∧ mapGet 0 s.shadowSeen 0 + 50000 ≤ s.time ∧ mapFind s.coal 0 = some (1, 0) ∧
      mapRises 0 s.coal = true ∧ 0 + s.rd (R.CQ_CFG_COAL_US 0) * 1000 ≤ s.time ∧ s.rd (R.SQ_STATE_TAIL 0) = 1 ∧ s.on (R.SQ_CFG_EN 0) = true ∧
      s.rd (R.SQ_SHADOW_ADDR 0) ≠ 0 ∧ mapWf [] s.sqTimes = true ∧ s.tailOk 0 15 = true ∧ s.on (R.MSIX_CTL_MASK 0) = true := by decide +kernel

/-- A HOST buffer of 2,048 bytes at handle 0, in window 0. -/
def windowed : State := put (buf host 0 2 (2 ^ Attr.HOST) 2048 0) [(R.HIF_APWIN_HANDLE 0, 0), (R.HIF_APWIN_EN 0, 1)]

/-- ApertureServed: the last byte of the range, and one past it; the last sector whole and, where it cannot be corrected, in part. -/
theorem witness_aperture :
    let bad := windowed.updDie 0 fun x => { x with stackErr := [((windowed.place 0 2047).unit, 2)] }
    windowed.hostUp = true ∧ windowed.apertureAt 0 2047 1 = some (0, 2047) ∧ windowed.apertureAt 0 2048 1 = none ∧
      cleanB windowed 0 2047 1 = true ∧ windowed.accessWaits 0 2047 1 = false ∧ windowed.narrowUe 0 2047 1 = false ∧
      cutB windowed 0 2047 1 = true ∧ spreadB windowed 0 1984 64 = true ∧ windowed.apertureAt 0 1984 64 = some (0, 1984) ∧ windowed.memWf = true ∧
      bad.narrowUe 0 2047 1 = true ∧ cutB bad 0 2047 1 = false ∧ bad.narrowUe 0 1984 64 = false := by decide +kernel

theorem test_aperture_write_reads_back : (after (.apertureRead 0 5 2 []) (after (.apertureWrite 0 5 [0xAB, 0xCD] []) windowed)).answer =
    .data [0xAB, 0xCD] := by decide +kernel

/-- BuffersServed: a create entry for 2,048 bytes in stacked memory of die 7. -/
theorem witness_buffer_create :
    let s1 := (host.readEntry 0 (entryOf 5 0 9 [0, 7 + 2 * 16 + 2 ^ (16 + Attr.HOST), 2048])).1
    let e := (host.readEntry 0 (entryOf 5 0 9 [0, 7 + 2 * 16 + 2 ^ (16 + Attr.HOST), 2048])).2
    s1.createOk e = true ∧ s1.freeIndex 7 = some 0 ∧ s1.placeRange 2 7 2048 = some 0 := by decide +kernel

theorem test_buffer_create_answers_its_handle :
    (mapBytes (after (.bufferCreate 0 (entryOf 5 0 9 [0, 7 + 2 * 16 + 2 ^ (16 + Attr.HOST), 2048])) host).hostMem 0x1010 2) = [0x00, 0x07] := by
  decide +kernel

/-- BuffersServed: free, write and read entries for the whole range of handle 0. -/
theorem witness_buffer_free_write_read :
    let free := host.readEntry 0 (entryOf 5 0 9 [1, 0])
    let write := host.readEntry 0 (entryOf 5 0 9 [2, 0, 0, 0x4000, 2048])
    let read := host.readEntry 0 (entryOf 5 0 9 [3, 0, 1984, 0x4000, 64])
    (buf free.1 0 2 (2 ^ Attr.HOST) 2048 0).freeOk free.2 = true ∧
      (buf write.1 0 2 (2 ^ Attr.HOST) 2048 0).bufferRange write.2 2 = some (0, 0, 2048) ∧ (buf write.1 0 2 (2 ^ Attr.HOST) 2048 0).writeForbidden 0 = false ∧
      (buf read.1 0 2 (2 ^ Attr.HOST) 2048 0).bufferRange read.2 3 = some (0, 1984, 64) ∧ (buf read.1 0 2 (2 ^ Attr.HOST) 2048 0).readForbidden 0 = false ∧
      0x4000 + 64 ≥ 0x1000 + 32 ∧ cutB (buf write.1 0 2 (2 ^ Attr.HOST) 2048 0) 0 0 2048 = true ∧ cleanB (buf read.1 0 2 (2 ^ Attr.HOST) 2048 0) 0 1984 64 = true ∧
      spreadB (buf write.1 0 2 (2 ^ Attr.HOST) 2048 0) 0 1984 64 = true ∧ host.hostUp = true ∧ host.mayRead 0 1 = true ∧ host.memWf = true := by decide +kernel

/-- Channel 0 from the security processor to a host MID, channel 31 with a message in it. -/
def mailed : State :=
  put host [(R.MBX_BIND_SENDER 0, 1), (R.MBX_BIND_RECEIVER 0, 0x100), (R.MBX_BIND_EN 0, 1), (R.MBX_BIND_SENDER 31, 0x100),
    (R.MBX_BIND_RECEIVER 31, 2), (R.MBX_BIND_EN 31, 1), (R.MBX_STATUS_FULL, 2 ^ 31), (R.MBX_DB_DB, 2 ^ 31)]

/-- MailboxDelivers and MailboxFull, on the first and the last channel. -/
theorem witness_mailbox :
    mailed.mbxLive 0 = true ∧ mailed.rd (R.MBX_BIND_SENDER 0) = 1 ∧ bitOf (mailed.rd R.MBX_STATUS_FULL) 0 = false ∧ mailed.mbxLive 31 = true ∧
      mailed.rd (R.MBX_BIND_SENDER 31) = 0x100 ∧ bitOf (mailed.rd R.MBX_STATUS_FULL) 31 = true ∧ mailed.rd (R.MBX_BIND_RECEIVER 31) = 2 ∧
      bitOf (mailed.rd R.MBX_DB_DB) 31 = true ∧ isHostMid (mailed.rd (R.MBX_BIND_RECEIVER 0)) = true ∧ mailed.memWf = true ∧ mailed.hostUp = true ∧
      bitOf (mailed.rd R.MBX_MASK_MASK) 0 = false ∧ bitOf ((put mailed [(R.MBX_MASK_MASK, 1)]).rd R.MBX_MASK_MASK) 0 = true ∧
      mailed.power.pwrgood = true ∧ mailed.power.on = true := by decide +kernel

theorem test_mailbox_delivers : mbxBytes (after (.mbxSend 1 0) { mailed with mbxStage := mapPutBytes [] 0 [0xEE] }).mbxSlot 0 = 0xEE :: zeros 63 := by
  decide +kernel
theorem test_mailbox_refuses : bitOf ((after (.mbxSend 0x100 31) mailed).rd R.MBX_STATUS_REFUSED) 31 = true := by decide +kernel
theorem test_mailbox_stage_keeps_slot : (after (.regWrite 0x100 0x21F80 8 5) mailed).mbxSlot = mailed.mbxSlot ∧
    mapBytes (after (.regWrite 0x100 0x21F80 8 5) mailed).mbxStage (64 * 31) 1 = [5] := by decide +kernel

/-- HostResets, with a job to end. -/
theorem witness_host_reset : busy.power.on = true ∧ (busy.jobs.map (·.id)).Nodup := by decide +kernel
theorem test_function_level_reset_ends_jobs : (after .functionLevelReset busy).jobs.any Job.live = false := by decide +kernel

/-! ### Replay, register writes, the test window and stacked memory -/

/-- A part with the capture of job 5. -/
def captured : State :=
  { put host [(R.RPL_CFG_RESERVE_GIB, 1)] with
    captures := [{ job := 5, digest := [], seed := [], inputs := [], objs := [], idigs := [], odigest := [], size := 64 }] }

/-- ReplayControlled: an initiator that may write and one that may not, a captured job and an unknown one, a reserve that fits
and one that does not, locked or not. -/
theorem witness_replay :
    captured.power.on = true ∧ captured.hostUp = true ∧ replayMid 0x100 = true ∧ replayMid 0x101 = false ∧ captured.on R.RPL_CFG_LOCK = false ∧
      captured.jobs.any Job.live = false ∧ captured.reserveFits 0 = true ∧ captured.reserveFits 1023 = false ∧ busy.jobs.any Job.live = true ∧
      (put captured [(R.RPL_CFG_LOCK, 1)]).on R.RPL_CFG_LOCK = true := by decide +kernel

theorem test_replay_arms_a_captured_job : (after (.rplArmWrite 0x100 (5 + 2 ^ 63)) captured).on R.RPL_STATUS_ARMED = true ∧
    (after (.rplArmWrite 0x100 (6 + 2 ^ 63)) captured).on R.RPL_STATUS_NOTFOUND = true := by decide +kernel

/-- RegistersWritten: a core of the security processor writes, and the lock open and closed. -/
theorem witness_register_write :
    host.power.on = true ∧ host.hostUp = true ∧ host.present 7 = true ∧ host.on (R.SPAD_CFG_LOCK 7) = false ∧
      (put host [(R.SPAD_CFG_LOCK 7, 1)]).on (R.SPAD_CFG_LOCK 7) = true := by decide +kernel

theorem test_register_write_window : (after (.regWrite 2 0x131F8 8 0x0000000300011234) host).rd (R.HIF_APWIN_OFF_2M 63) = 3 := by decide +kernel
theorem test_register_write_floor : (after (.regWrite 1 0x1090030 4 9) host).rd (R.SPAD_RTMO_LIMIT_US 0) = 10 := by decide +kernel

/-- A handle of bank 63 of die 0, whose bank is dirty and being scrubbed. -/
def scrubbed : State :=
  { pad host 3 0 2048 63 with dies := host.dies.set 0 { spad := mapPutBytes [] (63 * 65536 * 128) [1, 2], scrubbing := 2 ^ 63, dirty := 2 ^ 63 } }

/-- BanksScrubbed: the last bank, in use by no job, being scrubbed. -/
theorem witness_banks :
    scrubbed.present 0 = true ∧ scrubbed.bankNamed 0 63 = false ∧ bitOf (scrubbed.rd (R.SPAD_PWR_ON 0)) 63 = true ∧
      bitOf (scrubbed.die 0).scrubbing 63 = true ∧ scrubbed.spanning 0 63 = [3] ∧
      bitOf ((put scrubbed [(R.SPAD_PWR_ON 0, 0)]).rd (R.SPAD_PWR_ON 0)) 63 = false := by decide +kernel

theorem test_bank_scrub_zeroes : mapGet 0 ((after (.bankScrubDone 0 63) scrubbed).die 0).spad (63 * 65536 * 128) = 0 ∧
    mapGet 0 (scrubbed.die 0).spad (63 * 65536 * 128) = 1 := by decide +kernel

/-- TestWindowServed: a free bank, with an error-free row, from the security processor; a bound bank is refused. -/
theorem witness_test_window :
    host.twinOk 1 0 63 = true ∧ host.twinOk 0x200 0 0 = true ∧ host.memWf = true ∧ mapGet 0 (host.die 0).spadErr (63 * 65536 + 65535) = 0 ∧
      host.errAt ⟨0, true, 63 * 65536 + 65535, (63 * 65536 + 65535) * 128⟩ = 0 ∧ scrubbed.twinOk 1 0 63 = false := by decide +kernel

/-- StackedServed, the patrol scrub and the reports: one correctable and one uncorrectable sector of the last channel. -/
theorem witness_patrol :
    let s (e : Nat) : State := { host with dies := host.dies.set 7 { stackErr := [(32 * 2 ^ 26 - 1, e)] } }
    host.inServ 7 = true ∧ host.stackShut 7 1 = false ∧ ((s 1).die 7).stackErr = [(32 * 2 ^ 26 - 1, 1)] ∧ ((s 2).die 7).stackErr = [(32 * 2 ^ 26 - 1, 2)] ∧
      bitOf (host.rd (R.MEM_CHMAP_INSERV 7)) ((32 * 2 ^ 26 - 1) / 2 ^ 26) = true := by decide +kernel

theorem test_patrol_corrects :
    ((after (.patrolScrub 7 []) { host with dies := host.dies.set 7 { stackErr := [(32 * 2 ^ 26 - 1, 1)] } }).die 7).stackErr = [] := by decide +kernel

/-- StackedServed, the generators: the last 4,096 slots of every channel, on a free and on a bound die; running. -/
theorem witness_generators :
    let v : Word64 := BitVec.ofNat 64 ((2 ^ 32 - 1) + 2 ^ 34 + 2 ^ 40 + 3839 * 2 ^ 52)
    let s := (put host [(R.MEM_TG_CTL_START 7, 1)]).updDie 7 fun x => { x with tg := some (1, 3, 3839 * 4096, 4096) }
    host.present 7 = true ∧ isMgmt 3 = true ∧ host.on (R.MEM_TG_CTL_START 7) = false ∧ bitOf v.toNat 34 = true ∧ host.dieBound 7 = false ∧
      host.slotsInUse 7 (bits v.toNat 0 32) (bits v.toNat 52 12 * 4096) (bits v.toNat 40 12 * 4096) = false ∧
      bits v.toNat 52 12 * 4096 + bits v.toNat 40 12 * 4096 ≤ slotsPerChannel ∧ (s.die 7).tg = some (1, 3, 3839 * 4096, 4096) ∧ s.memWf = true ∧
      3839 * 4096 + 4096 ≤ slotsPerChannel ∧ busy.present 0 = true ∧ busy.on (R.MEM_TG_CTL_START 0) = false ∧ busy.dieBound 0 = true := by decide +kernel

theorem test_generators_defer : (after (.memTgStart 3 0 (BitVec.ofNat 64 (1 + 2 ^ 34 + 2 ^ 40))) busy).answer = .earliest (busy.earliestGap 0) ∧
    (after (.memTgStart 3 0 (BitVec.ofNat 64 (1 + 2 ^ 34 + 2 ^ 40))) busy).on (R.MEM_TG_RESULT_DEFERRED 0) = true := by decide +kernel

/-- StackedServed, margining: stack 1 of die 7, by the security processor and by an authenticated debug port. -/
theorem witness_margining :
    let s := put host [(R.SEC_STATE_SERVICE, 1), (R.MEM_MARGIN_CTL_START 7, 1)]
    host.present 7 = true ∧ host.on (R.MEM_MARGIN_CTL_START 7) = false ∧ bitOf (host.rd (R.MEM_CHMAP_INSERV 7)) 16 = true ∧
      host.dieBound 7 = false ∧ s.on R.SEC_STATE_SERVICE = true ∧ s.on (R.MEM_MARGIN_CTL_START 7) = true := by decide +kernel

theorem test_margining_takes_the_port_in_service :
    (after (.marginStart 0x200 7 1) (put host [(R.SEC_STATE_SERVICE, 1)])).on (R.MEM_MARGIN_CTL_START 7) = true ∧
      (after (.marginStart 0x200 7 1) host).on (R.MEM_MARGIN_CTL_REFUSED 7) = true := by decide +kernel

/-! ### Pace, the power manager and the package -/

/-- A part 10 s on: die 0 calibrated at the start of it and slow for 100 µs, every unit of die 0 checked. -/
def paced : State :=
  { put host ((R.PACE_CAL_PACE 0, 1300) :: (R.PACE_SENSE_VCORE 0, 800) :: chkAll.map fun u => ((chkOf u).entryOk 0, 1)) with
    time := 10000000000
    dies := host.dies.set 0 { time := 10000000000, pace := { lastCal := some 0, rate := 1000, lowAt := some 9999900000 } } }

/-- PaceServed, the calibration: a gap of die 0 with every check done, one calibration due, at the lowest pace and below it. -/
theorem witness_calibration :
    paced.inGap 0 0 = true ∧ (chkAll.all fun u => !paced.checkPending 0 u) = true ∧ paced.calDue 0 (paced.die 0).time = true ∧ paceFloor = 1200 ∧
      paced.rd (R.PACE_SENSE_VCORE 0) = 800 ∧ toSigned 8 (paced.rd (R.PACE_SENSE_TJ 0)) ≤ 105 := by decide +kernel

theorem test_calibration_out_of_service :
    bitOf ((after (.calibration 0 1199 9 true) paced).rd R.CAPS_DIE_INSERV) 0 = false ∧
      bitOf ((after (.calibration 0 1200 9 true) paced).rd R.CAPS_DIE_INSERV) 0 = true := by decide +kernel

/-- PaceServed, the requests: on an idle die and on a bound one. -/
theorem witness_pace_requests :
    host.present 0 = true ∧ isMgmt 1 = true ∧ (host.paceOf 0).pend = 0 ∧ host.dieBound 0 = false ∧ busy.dieBound 0 = true ∧ (busy.paceOf 0).pend = 0 := by
  decide +kernel

/-- PaceServed, the samples: a counted calibration; 100 µs below 1,260; a stop with nothing that holds it. -/
theorem witness_pace_reports :
    let s : State := { put host [(R.ADM_STATE_STOP, 1), (R.ADM_STATE_CAUSE, 2)] with time := 1000000, power := { host.power with clearAt := some 0 } }
    (paced.paceOf 0).lastCal.isSome = true ∧ paced.on (R.PACE_NOW_LOW 0) = false ∧ (paced.paceOf 0).lowAt = some 9999900000 ∧
      9999900000 + 100000 ≤ (paced.die 0).time ∧ paced.rd (R.EVT_COUNT_COUNT 6) < 2 ^ 64 - 1 ∧ s.on R.ADM_STATE_STOP = true ∧
      s.on R.ADM_CFG_ENABLE = true ∧ s.riskCause = none ∧ s.paceFine = true ∧ heldFor s.power.clearAt s.time 1000000 = true := by decide +kernel

theorem test_pace_sample_ratio : (after (.paceSample 0 969) paced).rd (R.PACE_NOW_PACE 0) = 1259 ∧
    (after (.paceSample 0 970) paced).on (R.PACE_NOW_LOW 0) = false := by decide +kernel
theorem test_pace_cap_held : (after (.paceCapWrite 7 2 1199) host).rd (R.PACE_CAP_CAP 7) = 1200 := by decide +kernel

/-- InputMeasured: the ends of the plausible range, and two readings 2.01 V apart for 1 ms. -/
theorem witness_input :
    let s : State := { host with time := 1000000, power := { host.power with diffAt := some 0 } }
    (after (.throttleSample [] [] 700 3000 3000) host).power.vinBad = false ∧ (after (.throttleSample [] [] 700 7000 7000) host).power.vinBad = false ∧
      (after (.throttleSample [] [] 700 2999 2999) host).power.vinBad = true ∧ (after (.throttleSample [] [] 700 7001 7001) host).power.vinBad = true ∧
      (after (.throttleSample [] [] 700 5400 5199) s).power.vinBad = true ∧ (after (.throttleSample [] [] 700 5400 5200) s).power.vinBad = false ∧
      (after (.throttleSample [] [] 700 5400 5199) host).power.vinBad = false ∧ s.power.on = true := by decide +kernel

/-- PaceServed, the junctions: the ends of the plausible range and one step past them, 20 and 21 degrees from the last reading, and the
voltages that a need of 680 to 801 takes. -/
theorem witness_junction :
    let at' (s : State) (tj need : Nat) : State := after (.throttleSample [Int.ofNat tj] [need] 700 5200 5200) s
    let s : State := at' host 50 680
    host.power.on = true ∧ host.present 0 = true ∧ (s.paceOf 0).prev = some 50 ∧ (s.paceOf 0).held = 0 ∧
      (after (.throttleSample [-40] [700] 700 5200 5200) host).on (R.PACE_SENSE_IMPL 0) = false ∧
      (after (.throttleSample [-41] [700] 700 5200 5200) host).on (R.PACE_SENSE_IMPL 0) = true ∧
      (at' host 150 700).on (R.PACE_SENSE_IMPL 0) = false ∧ (at' host 151 700).on (R.PACE_SENSE_IMPL 0) = true ∧
      (at' s 70 700).on (R.PACE_SENSE_IMPL 0) = false ∧ (at' s 71 700).on (R.PACE_SENSE_IMPL 0) = true ∧
      [0, 680, 681, 795, 796, 800, 801].map (fun n => (at' host 50 n).rd (R.PACE_SENSE_VCORE 0)) = [680, 680, 685, 795, 800, 800, 800] := by decide +kernel

/-- StackLevels: plausible and implausible first reports at the ends of the range, and one 21 °C from the last. -/
theorem witness_stack_reports :
    let s : State := { host with dies := host.dies.set 0 { stackRep := [(0, 50)], stackRun := [(0, 1)] } }
    host.present 0 = true ∧ bitOf (host.rd (R.MEM_CAPS_STACKS 0)) 0 = true ∧ bitOf (host.rd (R.MEM_CAPS_STACKS 0)) 1 = true ∧
      (after (.stackTempPoll 0 1 126) host).on (R.MEM_THERM_IMPL1 0) = true ∧ (after (.stackTempPoll 0 1 126) host).on (R.MEM_THERM_IMPL0 0) = false ∧ mapWf 0 (s.die 0).stackRun = true ∧ mapFind (s.die 0).stackRep 0 = some 50 ∧
      (after (.stackTempPoll 0 0 125) host).on (R.MEM_THERM_IMPL0 0) = false ∧ (after (.stackTempPoll 0 0 126) host).on (R.MEM_THERM_IMPL0 0) = true ∧
      (after (.stackTempPoll 0 0 70) s).on (R.MEM_THERM_IMPL0 0) = false ∧ (after (.stackTempPoll 0 0 71) s).on (R.MEM_THERM_IMPL0 0) = true := by
  decide +kernel

/-- UnitsChecked: Tarragon of die 0 awake and asleep, in a gap and on a bound die. -/
theorem witness_units :
    host.present 0 = true ∧
    host.on ((chkOf 5).present 0) = true ∧ bitOf (host.paceOf 0).asleep 5 = false ∧ host.checkPending 0 5 = true ∧ host.inGap 0 7 = true ∧
      host.dieBound 0 = false ∧ busy.dieBound 0 = true ∧ bitOf ((after (.unitSleep 0 5) host).paceOf 0).asleep 5 = true := by decide +kernel

theorem test_unit_out_takes_the_die : bitOf ((after (.entryCheck 0 4 false) host).rd R.CAPS_DIE_INSERV) 0 = false ∧
    bitOf ((after (.entryCheck 0 5 false) host).rd R.CAPS_DIE_INSERV) 0 = true := by decide +kernel

/-- A job due at 1 µs. -/
def due : State := { host with jobs := [{ aJob with deadline := 1000 }], nextJob := 2, time := 1001 }

/-- DeadlinesMissed: past the deadline and at it, a job whose work is done, and the entry that aborts it. -/
theorem witness_deadlines :
    let e := (due.readEntry 0 (entryOf 6 0 9 [0, 7])).2
    due.job? 1 = some { aJob with deadline := 1000 } ∧ aJob.live = true ∧ aJob.cq = due.rd (R.SQ_CFG_CQ 0) ∧ aJob.cq < 64 ∧ due.memWf = true ∧ (due.jobs.map (·.id)).Nodup ∧
      due.workDone aJob = true ∧ due.hostUp = true ∧ due.mayRead 0 1 = true ∧
      (due.readEntry 0 (entryOf 6 0 9 [0, 7])).1.entryOk e = true ∧ e.kind = 6 ∧ e.q 8 = 0 ∧ e.q 0x10 = 7 ∧ e.q 0x18 = 0 ∧ e.q 0x30 = 0 ∧
      due.jobs.find? (fun k => k.live && k.ring = 0 && k.tag = 7) = some { aJob with deadline := 1000 } ∧
      1 ≤ due.rd (R.CQ_CFG_LOG2SZ (due.rd (R.SQ_CFG_CQ 0))) ∧ due.rd (R.CQ_STATE_TAIL 0) < due.cqSize 0 := by decide +kernel

theorem test_deadline_missed_marks : ((after (.deadlineMissed 1) due).job? 1).map (·.missed) = some true ∧
    after (.deadlineMissed 1) { due with time := 1000 } = { due with time := 1000 } := by decide +kernel

/-- SupplyFails: a power die of a TLB-8D before its first fault, after it, and one of a TLB-4D. -/
theorem witness_power_dies :
    host.power.on = true ∧ host.power.pwrgood = true ∧ bitOf (host.rd R.CAPS_PD_PRESENT) 5 = true ∧ host.rd R.PKG_CAPS_PD_COUNT = 6 ∧
      host.rd R.PKG_PD_FAULT = 0 ∧ bitOf ((put host [(R.PKG_PD_FAULT, 1)]).rd R.PKG_PD_FAULT) 5 = false ∧
      (put host [(R.PKG_PD_FAULT, 1)]).rd R.PKG_PD_FAULT ≠ 0 ∧ (put host [(R.PKG_CAPS_PD_COUNT, 3)]).rd R.PKG_CAPS_PD_COUNT ≠ 6 := by decide +kernel

theorem test_second_power_die_fault : (after (.pdFault 5) (put host [(R.PKG_PD_FAULT, 1)])).power.latch = (4, 5, 0) ∧
    (after (.pdFault 5) host).power.on = true := by decide +kernel

/-- InputBandsAndClocks: out of both bands, with port 7 up. -/
theorem witness_bands : host.power.band ≠ 1 ∧ host.power.band ≠ 2 ∧ (put host [(R.FAB_PORT_UP 7, 1)]).on (R.FAB_PORT_UP 7) = true := by decide +kernel

/-- PowerSequence: the states in which each row applies, VIN at the ends of its range, and each step at its bound. -/
theorem witness_power_sequence :
    let cold : State := { State.reset with power := { vin52 := true, pwrgood := false, on := false } }
    let rising : State := { cold with power := { vin52 := true, pwrgood := true, on := false, rising := true } }
    let s (p t : Nat) : State := { put host [(R.PKG_STATE_PHASE, p)] with time := t }
    cold.power.pwrgood = false ∧ cold.power.vin52 = true ∧ cold.power.latch.1 = 0 ∧ (after (.pwrgoodRise 4300 4400) cold).power.rising = true ∧
      (after (.pwrgoodRise 4300 5800) cold).power.rising = true ∧ rising.power.rising = true ∧ rising.startStep = [4] ∧
      (State.reset.power.pwrgood = true ∧ State.reset.power.resetn = false ∧ State.reset.power.on = true) ∧ host.power.pwrgood = true ∧
      (6 ∈ (s 2 20000000).startStep ∧ (s 2 20000000).power.releaseAt + (s 2 20000000).stepBound 6 ≤ 20000000) ∧
      (7 ∈ (s 2 60000000).startStep ∧ (s 2 60000000).power.releaseAt + (s 2 60000000).stepBound 7 ≤ 60000000) ∧
      (8 ∈ (s 3 250000000).startStep ∧ (s 3 250000000).power.releaseAt + (s 3 250000000).stepBound 8 ≤ 250000000) := by decide +kernel

theorem test_startup_timeout_keeps_step : (after (.startupStepTimeout 7) { put host [(R.PKG_STATE_PHASE, 2)] with time := 60000000 }).rd R.PKG_STATE_STEP = 7 ∧
    (after (.startupStepTimeout 7) { put host [(R.PKG_STATE_PHASE, 2)] with time := 59999999 }).rd R.PKG_STATE_PHASE = 2 := by decide +kernel

/-- RandomBitsStop. -/
theorem witness_random_bits : host.on R.SEC_STATE_TRNG_FAIL = false := by decide +kernel

/-- SmbusServed: a management core runs; an alert that holds ALERT_N low; the limit's range is not empty; the rails off. -/
theorem witness_smbus :
    host.alertLow = false ∧ host.power.on = true ∧ ({ host with power := { host.power with on := false } } : State).power.on = false ∧
    2 ≤ host.rd R.SEC_STATE_STAGE ∧ host.rd R.SEC_STATE_STAGE ≤ 4 ∧ host.rd R.PWR_CAPS_P_FLOOR ≤ host.rd R.PWR_CAPS_P_MAX ∧
      (put host [(R.PKG_ALERT_PD, 1)]).alertLow = true := by decide +kernel

theorem test_smbus_limit : (after (.smbLimitWrite 2399) host).rd R.PWR_LIMIT_LIMIT = 2400 ∧ (after (.smbLimitWrite 2400) host).rd R.PWR_LIMIT_LIMIT = 2400 ∧
    (after (.smbLimitWrite 3001) host).rd R.PWR_LIMIT_LIMIT = 3000 := by decide +kernel

/-! ### Queues and channels -/

/-- The state with die 0 changed. -/
def with0 (s : State) (f : Die → Die) : State := s.updDie 0 f

/-- A stream program of one transfer of 2,048 bytes (R202). -/
def progOf (handle queue dir : Nat) : List Byte :=
  fit 64 (leBytes 8 (handle + queue * 2 ^ 16 + dir * 2 ^ 24 + 32 * 2 ^ 32) ++ leBytes 8 0 ++ (List.range 4).flatMap fun _ => leBytes 8 1)

/-- An entry. -/
def entry1 : QEntry := { bytes := fit 2048 [0xA5] }

/-- A job on die 0, with queue 5 of capacity 1 from stream unit 0 to stream unit 15, queue 6 from Basil, and channel 31 of
die 0 from queue 7 to queue 8 of the same die. -/
def flow : State :=
  put busy [(R.QCH_CFG_ENABLE 0, 1), (R.QCH_QCFG_CAP 0 5, 1), (R.QCH_QCFG_WRITER 0 5, 0x10), (R.QCH_QCFG_READER 0 5, 0x1F), (R.QCH_QCFG_CAP 0 6, 1),
    (R.QCH_QCFG_WRITER 0 6, 0), (R.QCH_QCFG_READER 0 6, 0x10), (R.QCH_QCFG_CAP 0 7, 1), (R.QCH_QCFG_READER 0 7, 0x30), (R.QCH_QCFG_CAP 0 8, 1),
    (R.QCH_CHTAB0_EN 0 31, 1), (R.QCH_CHTAB0_SQ 0 31, 7), (R.QCH_CHTAB0_NRECV 0 31, 1), (R.QCH_CHRECV_RECV0 0 31 0, 8)]

/-- The same, with stream unit 0 about to push an entry to queue 5. -/
def pushing : State := with0 flow fun x => x.updSunit 0 fun u => { u with prog := some (0, progOf 0 5 0), made := 1, ents := [entry1] }

/-- The same, with an entry in queue 5 that stream unit 15 is about to take. -/
def popping : State :=
  with0 flow fun x => { x.updSunit 15 fun u => { u with prog := some (0, progOf 0 5 1) } with queues := [(5, [entry1])] }

/-- QueuesMove, the push: room for one entry, and the reader's end closed. -/
theorem witness_push :
    let closed := put pushing [(R.QCH_QSTAT_RCLOSED 0 5, 1)]
    pushing.memWf = true ∧ pushing.on (R.QCH_CFG_ENABLE 0) = true ∧ (pushing.offered 0 5).map (·.1) = some entry1 ∧ mapWf [] (pushing.die 0).queues = true ∧
      pushing.on (R.QCH_QSTAT_RCLOSED 0 5) = false ∧ (pushing.queue 0 5).length + 1 = pushing.rd (R.QCH_QCFG_CAP 0 5) ∧
      (closed.offered 0 5).map (·.1) = some entry1 ∧ closed.on (R.QCH_QSTAT_RCLOSED 0 5) = true := by decide +kernel

theorem test_push : (after (.queuePush 0 5) pushing).queue 0 5 = [entry1] ∧ (after (.queuePush 0 5) (after (.queuePush 0 5) pushing)) = after (.queuePush 0 5) pushing := by
  decide +kernel

/-- QueuesMove, the pop: an entry for a stream unit and one for operand 0 of Parsley. -/
theorem witness_pop :
    let s := with0 (put flow [(R.QCH_QCFG_READER 0 5, 2), (R.PARS_CFG_ENABLE 0, 1)]) fun x =>
      { x.updGroup 2 fun g => { g with fifo := [⟨1, false, 0x23 + 5 * 2 ^ 8 + 2 ^ 43, fit 64 ([0xFF, 0xFF, 0xFF, 0xFF, 0xFF, 0xFF, 0xFF, 0xFF, 0xFF, 0xFF, 0xFF, 0xFF,
        0xFF, 0xFF, 0xFF, 0xFF] ++ zeros 8 ++ leBytes 4 4), [], [], [], [], 0, 0, 0⟩] } with queues := [(5, [entry1])] }
    popping.queue 0 5 = [entry1] ∧ mapWf [] (popping.die 0).queues = true ∧ popping.bindOf 0 5 = none ∧ popping.rd (R.QCH_QCFG_READER 0 5) = 0x1F ∧
      (((popping.die 0).sunit 15).rec?.map (·.queue)) = some 5 ∧ ((popping.die 0).sunit 15).wants = true ∧ s.queue 0 5 = [entry1] ∧
      s.rd (R.QCH_QCFG_READER 0 5) = 2 ∧ s.takes 0 2 5 = some 0 ∧ s.bindOf 0 5 = none ∧ 0 < ((s.die 0).group 2).inb.length := by decide +kernel

theorem test_pop : ((after (.queuePop 0 5) popping).die 0).sunit 15 = { ((popping.die 0).sunit 15) with ents := [entry1] } ∧
    (after (.queuePop 0 5) popping).queue 0 5 = [] := by decide +kernel

/-- QueuesMove, the closing: a group's writer end, a stream unit's reader end, and the sender of a channel whose receiver has closed. -/
theorem witness_close :
    let s := with0 (put flow [(R.QCH_QSTAT_RCLOSED 0 8, 1)]) fun x => x.updCore 0 fun k => { k with ended := true }
    s.rd (R.QCH_QCFG_CAP 0 6) ≠ 0 ∧ s.rd (R.QCH_QCFG_WRITER 0 6) = 0 ∧ ((s.die 0).core (s.ownerOf 0 0)).ended = true ∧ ((s.die 0).group 0).fifo = [] ∧
      ((s.die 0).group 0).cur = none ∧ s.rd (R.QCH_QCFG_READER 0 6) = 0x10 + 0 ∧ ((s.die 0).sunit 0).waiting = [] ∧ ((s.die 0).sunit 0).prog = none ∧
      s.rd (R.QCH_QCFG_READER 0 7) = 0x30 ∧ s.chanOf 0 7 = some 31 ∧ s.rd (R.QCH_CHTAB0_KIND 0 31) = 0 ∧ s.receivers 0 31 = [(0, 8)] ∧
      s.on (R.QCH_QSTAT_RCLOSED 0 8) = true := by decide +kernel

/-- A group's operation that is left with one descriptor to commit, to slot 3 of handle 1; `toks` the entries not yet pushed. -/
def committing (toks : List QEntry) : State :=
  let r : Running := { op := ⟨9, false, 0x28, [], [], [], [], [], 0x77, 0, 0⟩, code := 0, void := false,
                       commits := [⟨1 + 3 * 2 ^ 16, ({ type := 1, polys := 2, level := 1, h0 := 2, h1 := 3, lineage := 5 } : Desc).toBytes, 0, false, 0, 0⟩],
                       aux := [], poisoned := false, committed := false }
  with0 (buf busy 1 2 (2 ^ Attr.DESC) 2048 0) fun x => x.updGroup 2 fun g => { g with cur := some r, outb := [toks, []] }

/-- OutputCommitted: with every entry pushed, and with one left. -/
theorem witness_commit :
    let s := committing []
    ((s.die 0).group 2).outb = [[], []] ∧ s.drained 0 [2, 3] = true ∧ s.slotOk (1 + 3 * 2 ^ 16) = true ∧ s.memWf = true ∧
      (((s.die 0).group 2).cur.map fun r => r.commits.map (·.desc.length)) = some [64] ∧ s.rd (R.SPAD_HTAB2_SBASE 0 1) % 256 = 0 ∧
      (((committing [entry1]).die 0).group 2).outb.getD 0 [] ≠ [] := by decide +kernel

/-- FOLDC's two descriptors, to slots 3 and 4 of handle 1; `toks` the entries of the second not yet pushed. -/
def folding (toks : List QEntry) : State :=
  let d (h : Nat) : List Byte := ({ type := 1, polys := 2, level := 1, h0 := h, h1 := h + 1, lineage := 5 } : Desc).toBytes
  let r : Running := { op := ⟨9, false, 0x33, [], [], [], [], [], 0x77, 0, 0⟩, code := 0, void := false,
                       commits := [⟨1 + 3 * 2 ^ 16, d 2, 0, false, 0, 0⟩, ⟨1 + 4 * 2 ^ 16, d 4, 1, false, 0, 0⟩],
                       aux := [], poisoned := false, committed := false }
  with0 (buf busy 1 2 (2 ^ Attr.DESC) 2048 0) fun x => x.updGroup 2 fun g => { g with cur := some r, outb := [[], toks] }

/-- OutputCommitted, FOLDC: with every entry pushed, and with one left of the second. -/
theorem witness_fold_commit :
    let s := folding []
    let ks := (((s.die 0).group 2).cur.map (·.commits)).getD []
    (ks.map fun k => (k.ref, k.out, k.desc.length)) = [(1 + 3 * 2 ^ 16, 0, 64), (1 + 4 * 2 ^ 16, 1, 64)] ∧
      (((s.die 0).group 2).cur.map fun r => (r.op.opc, r.sealing)) = some (0x33, none) ∧ ((s.die 0).group 2).outb = [[], []] ∧
      (ks.all fun k => s.drained 0 (parseDesc k.desc).handles && s.slotOk k.ref) = true ∧ s.memWf = true ∧
      s.rd (R.SPAD_HTAB2_SBASE 0 1) % 256 = 0 ∧ spreadB s 1 192 128 = true ∧ ((folding [entry1]).die 0).group 2 ≠ (s.die 0).group 2 := by decide +kernel

theorem test_fold_commits_both :
    let t := after (.outputCommit 0 2) (folding [])
    (parseDesc (t.peek 1 192 64)).h0 = 2 ∧ (parseDesc (t.peek 1 256 64)).h0 = 4 ∧
      after (.outputCommit 0 2) (folding [entry1]) = folding [entry1] := by decide +kernel

theorem test_commit_binds : (after (.outputCommit 0 2) (committing [])).rd (R.SAGE_BIND_LINEAGE 0 3) = 5 ∧
    (parseDesc ((after (.outputCommit 0 2) (committing [])).peek 1 192 64)).lineage = 5 := by decide +kernel

/-- Die 0 with an entry in queue 7. -/
def sending : State := with0 flow fun x => { x with queues := [(7, [entry1])] }

/-- ChannelsCarry, on the die: a receiver with room, and a full one. -/
theorem witness_forward :
    let full := with0 sending fun x => { x with queues := [(7, [entry1]), (8, [entry1])] }
    let closed := put sending [(R.QCH_QSTAT_RCLOSED 0 7, 1)]
    sending.on (R.QCH_CHTAB0_EN 0 31) = true ∧ sending.on (R.QCH_QSTAT_RCLOSED 0 7) = false ∧ ((List.range 8).all fun x => mapWf [] (sending.die x).queues) = true ∧
      closed.on (R.QCH_QSTAT_RCLOSED 0 7) = true ∧ closed.queue 0 7 = [entry1] ∧ after (.channelForward 0 31) closed = closed ∧
      sending.rd (R.QCH_CHTAB0_KIND 0 31) = 0 ∧ sending.queue 0 7 = [entry1] ∧
      (sending.receivers 0 31).Nodup ∧ sending.receivers 0 31 = [(0, 8)] ∧ mapWf [] (sending.die 0).queues = true ∧ sending.canPush 0 8 = true ∧
      full.canPush 0 8 = false ∧ full.queue 0 7 = [entry1] := by decide +kernel

theorem test_forward : (after (.channelForward 0 31) sending).queue 0 8 = [entry1] ∧ (after (.channelForward 0 31) sending).queue 0 7 = [] := by decide +kernel

/-- The same channel over the fabric, with a member on endpoint 9 and its credit. -/
def fabricSending (credit : Nat) : State :=
  { put sending [(R.QCH_CHTAB0_KIND 0 31, 1)] with fab := { sending.fab with mems := [{ die := 0, ch := 31, epid := 9, credit := credit }] } }

/-- ChannelsCarry, to peers: one entry of credit, and none. -/
theorem witness_fabric_send :
    let s := fabricSending 1
    s.on (R.QCH_CHTAB0_EN 0 31) = true ∧ s.on (R.QCH_QSTAT_RCLOSED 0 7) = false ∧ mapWf [] (s.die 0).queues = true ∧
      (put s [(R.QCH_QSTAT_RCLOSED 0 7, 1)]).on (R.QCH_QSTAT_RCLOSED 0 7) = true ∧ s.rd (R.QCH_CHTAB0_KIND 0 31) ≠ 0 ∧ (s.members 0 31).map (·.credit) = [1] ∧ s.queue 0 7 = [entry1] ∧
      s.bindOf 0 7 = none ∧ (s.conn 9).spent = false ∧ ((fabricSending 0).members 0 31).map (·.credit) = [0] := by decide +kernel

theorem test_fabric_send : ((after (.fabricEntrySend 0 31) (fabricSending 1)).members 0 31).map (·.credit) = [0] ∧
    after (.fabricEntrySend 0 31) (fabricSending 0) = fabricSending 0 := by decide +kernel

/-- A macro operation at Parsley's head that has been restarted n times. -/
def restarted (n : Nat) : State :=
  with0 busy fun x => x.updGroup 2 fun g => { g with fifo := [⟨1, false, 0x23, [], [], [], [], [], 0x77, 0, 0⟩], retries := n }

/-- FetchesAndStalls, the errors: after two restarts and after three. -/
theorem witness_fetch_errors :
    (((restarted 2).die 0).group 2).retries = 2 ∧ (((restarted 2).die 0).group 2).cur = none ∧ (restarted 2).jobOn 0 = some aJob ∧
      (restarted 2).present 0 = true ∧ 3 ≤ (((restarted 3).die 0).group 2).retries ∧ ((restarted 3).jobs.map (·.id)).Nodup := by decide +kernel

/-- FetchesAndStalls, the lost reads: an operation whose DIN0 is slot 3 of a handle of die 1, one nanosecond past the limit. -/
theorem witness_lost_read :
    let s (t : Nat) : State := with0 busy fun x => { x.updGroup 2 fun g => { g with
      fifo := [⟨1, false, 0x23, fit 64 (leBytes 4 (0x101 + 3 * 2 ^ 16) ++ leBytes 12 (2 ^ 96 - 1)), [], [], [], [], 0x77, 0, 0⟩], retries := 2 } with time := t }
    let limit := 1000 * (s 0).rd (R.SPAD_RTMO_LIMIT_US 0)
    (s 0).remoteSince 0 2 = some 0 ∧ 0 + limit < ((s (limit + 1)).die 0).time ∧
      (after (.remoteReadTimeout 0 2) (s (limit + 1))).rd (R.PARS_RESTARTS_COUNT 0) = 1 ∧
      (after (.remoteReadTimeout 0 2) (s limit)).rd (R.PARS_RESTARTS_COUNT 0) = 0 := by decide +kernel

/-- FetchesAndStalls, the bridges: a resend that succeeds, a lost write to a handle of die 1 and a lost entry of a channel. -/
theorem witness_bridge :
    let s := buf sending 0x101 2 0 2048 0
    s.present 0 = true ∧ s.jobOn 0 = some aJob ∧ (s.jobs.map (·.id)).Nodup ∧ s.rd (R.EVT_COUNT_COUNT 2) < 2 ^ 64 - 1 ∧ s.handleOk 0x101 = true ∧
      s.hLoc 0x101 ≠ 0 ∧ s.on (R.QCH_CHTAB0_EN 0 31) = true ∧ s.queue 0 (s.rd (R.QCH_CHTAB0_SQ 0 31)) ≠ [] ∧
      (after (.bridgeResend 0 2 (.write 0x101)) s).jobs = s.jobs ∧ (after (.bridgeResend 0 3 (.write 0x101)) s).hTorn 0x101 = true := by decide +kernel

theorem test_fourth_restart_ends_the_job : ((after (.fetchErrorRestart 0 2) (restarted 3)).job? 1).map (·.phase) = some .ended ∧
    ((after (.fetchErrorRestart 0 2) (restarted 2)).job? 1).map (·.phase) = some .running := by decide +kernel

/-- FetchesAndStalls, the stalls: stream unit 15 on an empty queue, unit 0 on a full one, and a unit that does not wait, at the limit
and past it. -/
theorem witness_stalls :
    let empty := with0 popping fun x => { x with queues := [] }
    let full := with0 pushing fun x => { x with queues := [(5, [entry1])] }
    let limit := 1000 * empty.stallLimit 0 0x1F 5 0
    let s (t : Nat) := with0 empty fun x => { x with time := t }
    empty.waitSince 0 0x1F 5 0 = some 0 ∧ full.waitSince 0 0x10 5 1 = some 0 ∧ empty.waitSince 0 0x10 5 0 = none ∧ empty.jobOn 0 = some aJob ∧
      (empty.jobs.map (·.id)).Nodup ∧ 0 < limit ∧ ((s limit).die 0).time ≤ 0 + limit ∧ 0 + limit < ((s (limit + 1)).die 0).time ∧
      (after (.stallTimeout 0 0x1F 5 0) (s limit)).jobs = empty.jobs ∧
      (after (.stallTimeout 0 0x1F 5 0) (s (limit + 1))).on (R.QCH_QSTAT_STALLED 0 5) = true := by decide +kernel

/-! ### Macro operations -/

/-- The bytes of a chain of one limb: N = 4, the prime 17 and its root 2 (R26). -/
def chain17 : List Byte := leBytes 8 (2 * 2 ^ 8 + 2 ^ 16 + 2 ^ 32) ++ zeros 56 ++ leBytes 4 17 ++ leBytes 4 2

/-- VMUL of two entries of n words into queue 7, in a transaction field. -/
def vmul (txn n : Nat) : Issued :=
  ⟨1, false, 0x23 + 5 * 2 ^ 8 + 6 * 2 ^ 15 + 7 * 2 ^ 29 + 2 ^ 43 + 2 ^ 44 + 2 ^ 46 + txn * 2 ^ 125,
    fit 64 (leBytes 16 (2 ^ 128 - 1) ++ leBytes 4 0xFFFF ++ leBytes 4 0 ++ leBytes 4 n), [], [], [], [0, 0, 0, 0, 0, 0], 0x77, 0, 0⟩

/-- A job on die 0 with an operation at Parsley's head that has popped words for its first two operands. -/
def atParsley (op : Issued) (a b : List Nat) (txns : NMap Txn) : State :=
  with0 { put flow [(R.PARS_CFG_ENABLE 0, 1), (R.PARS_STATUS_ENTRY_OK0 0, 1)] with chains := [(0, chain17)] } fun x =>
    { x.updGroup 2 fun g => { g with fifo := [op], inb := [[{ bytes := fit 2048 (bytesOf a) }], [{ bytes := fit 2048 (bytesOf b) }], []] } with
      txns := txns }

/-- The context of the operation at Parsley's head on die 0. -/
def ctx0 (s : State) (op : Issued) : Ctx := (s.ctxOf 0 2 op).getD { s := s, d := 0, g := 2, op := op, src0 := .absent, src1 := .absent, txn := none }

/-- A transaction that is open, void or not. -/
def txn0 (void : Bool) : NMap Txn :=
  [(0, { desc0 := zeros 64, desc1 := zeros 64, ins := [], constOnly := false, voided := void, flags := 0, g := 0 })]

theorem ready_of (s : State) (op : Issued) (h1 : s.headMacro 0 2 = some op) (h2 : (s.ctxOf 0 2 op).isSome = true)
    (h3 : (ctx0 s op).gathered ((ctx0 s op).shapeOf (vecSpec 0x23 2)) = true ∧ op.opc = 0x23 ∧ ((s.die 0).group 2).redo = none ∧
      s.tileBusy 0 2 op = false ∧ (ctx0 s op).stackWaits = false) : MacroReady s 0 (vecSpec 0x23 2) op (ctx0 s op) where
  head := h1
  code := h3.2.1
  fresh := h3.2.2.1
  free := h3.2.2.2.1
  cool := h3.2.2.2.2
  ctx := by
    obtain ⟨c, hc⟩ := Option.isSome_iff_exists.mp h2
    simp [vecSpec, ctx0, hc]
  gathered := h3.1
  keyed := by simp [vecSpec]
  ready := rfl

/-- MacroRuns: a VMUL that runs. -/
theorem witness_macro_runs :
    let s := atParsley (vmul 0 2) [3, 16] [5, 16] []
    let c := ctx0 s (vmul 0 2)
    let w := c.workOf (vecSpec 0x23 2) (c.verdict (vecSpec 0x23 2)).2
    MacroReady s 0 (vecSpec 0x23 2) (vmul 0 2) c ∧ c.txn.isNone = true ∧ (c.verdict (vecSpec 0x23 2)).1 = none ∧ w.torn = false ∧
      ((w.st.spendKey 0 (vecSpec 0x23 2)).formOuts { c with s := w.st } (vecSpec 0x23 2) false (c.flagsIn ||| w.flags)).2.2 = true := by
  refine ⟨ready_of _ _ ?_ ?_ ?_, ?_⟩ <;> decide +kernel

theorem test_vmul : (((after (.vmul 0 []) (atParsley (vmul 0 2) [3, 16] [5, 16] [])).die 0).group 2).outb =
    [[{ bytes := fit 2048 (leBytes 4 15 ++ leBytes 4 1) }], []] ∧
    (((after (.vmul 0 []) (atParsley (vmul 0 2) [3, 16] [5, 16] [])).die 0).group 2).fifo = [] := by decide +kernel

/-- MacroRuns: an operation that waits for its second operand's entry, and one that is not at the head. -/
theorem witness_macro_waits :
    let s := with0 (atParsley (vmul 0 2) [] [] []) fun x => x.updGroup 2 fun g => { g with inb := [[entry1], [], []] }
    s.headMacro 0 2 = some (vmul 0 2) ∧ (vmul 0 2).opc = (vecSpec 0x23 2).opc ∧ ((s.die 0).group 2).redo = none ∧ (s.ctxOf 0 2 (vmul 0 2)).isSome = true ∧ (ctx0 s (vmul 0 2)).gathered ((ctx0 s (vmul 0 2)).shapeOf (vecSpec 0x23 2)) = false ∧
      s.headMacro 0 1 = none := by decide +kernel

/-- MacroFaults: a VMUL of no words outside a transaction, in one, and in one that is void. -/
theorem witness_macro_faults :
    let s (txn : Nat) (void : Bool) := atParsley (vmul txn 0) [] [] (txn0 void)
    let c (txn : Nat) (void : Bool) := ctx0 (s txn void) (vmul txn 0)
    (MacroReady (s 0 false) 0 (vecSpec 0x23 2) (vmul 0 0) (c 0 false) ∧ ((c 0 false).verdict (vecSpec 0x23 2)).1 = some Ev.RANGE ∧
      (c 0 false).isFatal (vecSpec 0x23 2) = true) ∧
    (MacroReady (s 2 false) 0 (vecSpec 0x23 2) (vmul 2 0) (c 2 false) ∧ ((c 2 false).txn.map (·.voided)) = some false ∧
      ((c 2 false).verdict (vecSpec 0x23 2)).1 = some Ev.RANGE ∧ (c 2 false).isFatal (vecSpec 0x23 2) = false ∧
      (((c 2 false).blamed (vecSpec 0x23 2) Ev.RANGE ((c 2 false).verdict (vecSpec 0x23 2)).2).formOuts (c 2 false) (vecSpec 0x23 2) true
        ((c 2 false).faultFlags Ev.RANGE)).2.2 = true) ∧
    (MacroReady (s 2 true) 0 (vecSpec 0x23 2) (vmul 2 0) (c 2 true) ∧ ((c 2 true).txn.map (·.voided)) = some true ∧
      (((c 2 true).opened.spendKey 0 (vecSpec 0x23 2)).formOuts (c 2 true) (vecSpec 0x23 2) true (c 2 true).flagsIn).2.2 = true) := by
  refine ⟨⟨ready_of _ _ ?_ ?_ ?_, ?_⟩, ⟨ready_of _ _ ?_ ?_ ?_, ?_⟩, ⟨ready_of _ _ ?_ ?_ ?_, ?_⟩⟩ <;> decide +kernel

theorem test_macro_fault_ends_the_job : ((after (.vmul 0 []) (atParsley (vmul 0 0) [] [] [])).job? 1).map (·.phase) = some .ended ∧
    ((after (.vmul 0 []) (atParsley (vmul 2 0) [] [] (txn0 false))).job? 1).map (·.phase) = some .running := by decide +kernel

/-- ResidueResults: the words of the VMUL above, and two ciphertexts of one limb and one member. -/
theorem witness_residues :
    let s := atParsley (vmul 0 2) [3, 16] [5, 16] []
    let c := ctx0 s (vmul 0 2)
    let ch := s.chainOf c.op.vChain
    let x : Desc := { type := 1, logn := 2, chain := 0, level := 1, polys := 2 }
    let y := { c with src0 := .slot x.toBytes, src1 := .slot x.toBytes }
    c.op.arg 1 = 2 ∧ c.op.kind 1 = 0 ∧ c.op.kind 2 = 0 ∧ ch.prime (ch.ext c.vLevel (c.op.vFirst + c.vLimb 1)) = 17 ∧ c.op.opc = 0x23 ∧
      (y.x0.map fun z => (z.polys, z.level, z.M, z.N)) = some (2, 1, 1, 4) ∧ (y.x1.map (·.polys)) = some 2 ∧ y.chain.prime 0 = 17 := by decide +kernel

/-- The nine seed vectors of R87 for the prime 17 and its root 2, N = 4. -/
def seeds17 : List (List Nat) := [[1, 4], [1, 16], [1, 2], [1, 4], [1, 16], [1, 16], [13, 15], [1, 13], [13, 4]]

/-- TransformsExact: ω = 9, n′ = 13. -/
theorem witness_transform : SeedsAre 17 2 9 13 2 2 seeds17 ∧ n1Of 2 = 2 ∧ n2Of 2 = 2 ∧ 2 ^ 4 % 17 = 17 - 1 ∧ 2 * 9 % 17 = 1 ∧ 4 * 13 % 17 = 1 :=
  ⟨⟨by decide, by decide, by decide, by decide, by decide, by decide, by decide, by decide, by decide⟩, by decide⟩

theorem test_transform : limbTransform true 17 2 2 seeds17 (limbTransform false 17 2 2 seeds17 [1, 2, 3, 16]) = [1, 2, 3, 16] := by decide
theorem test_transform_value : (limbTransform false 17 2 2 seeds17 [1, 2, 3, 16]).getD 1 0 = evalAt 17 2 4 (fun i => [1, 2, 3, 16].getD i 0) 2 := by decide

/-- PermutationsAndSamples: the Galois element 5 of N = 4, a sample of dimension 4, and three digits of 4 bits. -/
theorem test_permutation : autLimb 17 2 2 5 [10, 11, 12, 30] = [11, 10, 13, 12] ∧ 5 % 2 = 1 := by decide
theorem test_sample_round_trip : extractAt 17 4 0 (fun k => (ringifyPoly 17 4 0 ⟨[0, 1, 2, 16], 5⟩).getD k 0) (fun k => (ringifyPoly 17 4 1 ⟨[0, 1, 2, 16], 5⟩).getD k 0) =
    ⟨[0, 1, 2, 16], 5⟩ := by decide
theorem test_digits : balanced 4 3 0x7A8 = [-8, -5, -8] := by decide

/-! ### Fine operations, control cores and the key spool -/

/-- A fine operation with its selectors, IMM and the rest of its word. -/
def fineOp (opc dst s0 s1 imm rest : Nat) (k1 : List Nat) : Issued :=
  ⟨1, true, opc + dst * 2 ^ 8 + s0 * 2 ^ 16 + s1 * 2 ^ 24 + imm * 2 ^ 49 + rest, [], [], k1, [7], [0, 0, 0, 0, 0, 0], 0x77, 0, 0⟩

/-- A job on die 0 with a fine operation at a group's head; tile registers 0 and 47 in use, the first a permutation row. -/
def fineAt (g : Nat) (op : Issued) : State :=
  with0 { put flow [(R.PARS_CFG_ENABLE 0, 1), (R.BASIL_CFG_ENABLE 0, 1), (R.MINT_CFG_ENABLE0 0, 1), (R.PARS_STATUS_ENTRY_OK0 0, 1),
      (R.BASIL_STATUS_ENTRY_OK 0, 1), (R.MINT_STATUS_ENTRY_OK0 0, 1), (R.PARS_CFG_OPEN_EN 0, 1), (R.BASIL_INUSE_INUSE 0, 2 ^ 47 + 1)] with
    chains := [(0, chain17)] } fun x =>
    { x.updGroup g fun y => { y with fifo := [op] } with
      tiles := [(0, (List.range 512).map fun i => BitVec.ofNat 32 (511 - i)), (47, List.replicate 512 3)], queues := [(5, [entry1])] }

theorem ready_one (s : State) (g opc : Nat) (form : FineForm) (op : Issued) (hs : s.sel 0 (op.fSrc 0) = .scalar) (h1 : ¬2 ≤ form.srcs)
    (h : s.headFine 0 g opc = some op ∧ s.fineWordOk 0 op form = true ∧ s.fineBarred 0 g op = false ∧ s.fineStale 0 g op = false ∧
      s.dstReady 0 op = true) :
    FineReady s 0 g opc form op (List.replicate 512 (op.k1.headD 0)) [] s false :=
  ⟨h.1, h.2.1, h.2.2.1, h.2.2.2.1, fun _ => h.2.2.2.2, s, false, by unfold State.takeSrc; rw [hs]; rfl, by simp [h1]⟩

theorem ready_two (s : State) (g opc t : Nat) (form : FineForm) (op : Issued) (hs : s.sel 0 (op.fSrc 0) = .scalar) (ht : s.sel 0 (op.fSrc 1) = .tile t)
    (h2 : 2 ≤ form.srcs) (h : s.headFine 0 g opc = some op ∧ s.fineWordOk 0 op form = true ∧ s.fineBarred 0 g op = false ∧
      s.fineStale 0 g op = false ∧ s.dstReady 0 op = true) :
    FineReady s 0 g opc form op (List.replicate 512 (op.k1.headD 0)) (s.tileWords 0 t) s false :=
  ⟨h.1, h.2.1, h.2.2.1, h.2.2.2.1, fun _ => h.2.2.2.2, s, false, by unfold State.takeSrc; rw [hs]; rfl, by rw [if_pos h2]; exact ⟨false, by unfold State.takeSrc; rw [ht], rfl⟩⟩

/-- FineVectors: VMAC into tile register 47, FADD into queue 6, FCVT, FPERMV by tile register 0, TSET. -/
theorem witness_fine_vectors :
    let vmac := fineOp 0x24 (0x80 + 47) 0xC0 0x80 0 0 [5]
    let fadd := fineOp 0x38 6 0xC0 0x80 0 (2 ^ 45) [5]
    let fcvt := fineOp 0x3E 6 0xC0 0xFF 0 (2 ^ 45) [5]
    let perm := fineOp 0x12 6 0xC0 0x80 0 0 [5]
    let tset := fineOp 0x52 0x80 0xC0 0xFF 0 0 [5]
    FineReady (fineAt 2 vmac) 0 2 0x24 { dst := true, srcs := 2, modOnly := true, keepsDst := true } vmac (List.replicate 512 5)
        ((fineAt 2 vmac).tileWords 0 0) (fineAt 2 vmac) false ∧
      FineReady (fineAt 2 fadd) 0 2 0x38 { dst := true, srcs := 2, openOnly := true } fadd (List.replicate 512 5) ((fineAt 2 fadd).tileWords 0 0)
        (fineAt 2 fadd) false ∧
      FineReady (fineAt 2 fcvt) 0 2 0x3E { dst := true, srcs := 1, openOnly := true } fcvt (List.replicate 512 5) [] (fineAt 2 fcvt) false ∧
      FineReady (fineAt 1 perm) 0 1 0x12 { dst := true, srcs := 2 } perm (List.replicate 512 5) ((fineAt 1 perm).tileWords 0 0) (fineAt 1 perm) false ∧
      FineReady (fineAt 2 tset) 0 2 0x52 { dst := true, srcs := 1, mode := false, scalarOnly := true } tset (List.replicate 512 5) [] (fineAt 2 tset) false := by
  refine ⟨ready_two _ _ _ 0 _ _ ?_ ?_ ?_ ?_, ready_two _ _ _ 0 _ _ ?_ ?_ ?_ ?_, ready_one _ _ _ _ _ ?_ ?_ ?_, ready_two _ _ _ 0 _ _ ?_ ?_ ?_ ?_,
    ready_one _ _ _ _ _ ?_ ?_ ?_⟩ <;> decide +kernel

/-- FineVectors, the rest: the fields that the statement asks of these words and of the permutation row. -/
theorem witness_fine_fields :
    let s := fineAt 2 (fineOp 0x38 6 0xC0 0x80 0 (2 ^ 45) [5])
    s.on (R.PARS_CFG_OPEN_EN 0) = true ∧ s.on (R.PARS_CAPS_FP32 0) = true ∧ s.on (R.PARS_CAPS_BF16 0) = true ∧ fmtOk 0 0 = true ∧
      mapWf [] (s.die 0).queues = true ∧ ((s.tileWords 0 0).all fun w => bits w 18 12 = 0 && decide (bits w 0 18 < 512)) = true ∧
      s.sel 0 0x80 = .tile 0 ∧ (5 : Nat) < 17 := by decide +kernel

theorem test_fine_vmac : ((after (.fineVmac 0) (fineAt 2 (fineOp 0x24 (0x80 + 47) 0xC0 0x80 0 0 [5]))).tileWords 0 47).take 3 =
    [(5 * 511 + 3) % 17, (5 * 510 + 3) % 17, (5 * 509 + 3) % 17] := by decide +kernel
theorem test_tset : (after (.tset 0 2) (fineAt 2 (fineOp 0x52 0x80 0xC0 0xFF 0 0 [5]))).tileWords 0 0 = List.replicate 512 5 := by decide +kernel

/-- FineLoadsAndMoves: FLDS of row 511, FXCH, FROW, QMOVE of the one entry that fits, QDROP of one of two, and a word that is
not legal. -/
theorem witness_fine_moves :
    let flds := fineOp 0x08 0xFF 0xC0 0xFF 511 0 [5]
    let fxch := fineOp 0x09 0xFF 0xFF 0xFF 0 0 []
    let frow := fineOp 0x0A 6 0xC0 0xFF 0 0 [5]
    let move := fineOp 0x50 6 5 0xFF 1 0 []
    let drop := fineOp 0x51 0xFF 5 0xFF 2 0 []
    let bad := fineOp 0x20 6 0xC0 0x80 0 (2 ^ 58) [5]
    (FineReady (fineAt 0 flds) 0 0 0x08 { dst := false, srcs := 1, imm := true, mode := false } flds (List.replicate 512 5) [] (fineAt 0 flds) false ∧
      FineReady (fineAt 0 frow) 0 0 0x0A { dst := true, srcs := 1 } frow (List.replicate 512 5) [] (fineAt 0 frow) false) ∧
    ((fineAt 0 fxch).headFine 0 0 0x09 = some fxch ∧ (fineAt 0 fxch).fineWordOk 0 fxch { dst := false, srcs := 0, mode := false } = true ∧
      (fineAt 0 fxch).fineStale 0 0 fxch = false ∧ (fineAt 0 fxch).fineBarred 0 0 fxch = false) ∧
    ((fineAt 2 move).headFine 0 2 0x50 = some move ∧
      (fineAt 2 move).fineWordOk 0 move { dst := true, srcs := 1, imm := true, mode := false, queueOnly := true } = true ∧
      (fineAt 2 move).fineBarred 0 2 move = false ∧ (fineAt 2 move).fineStale 0 2 move = false ∧ 0 < move.fImm ∧
      ((fineAt 2 move).queue 0 5).length = 1 ∧ entry1.ct = false ∧ (fineAt 2 move).on (R.QCH_CFG_ENABLE 0) = true ∧
      (fineAt 2 move).on (R.QCH_QSTAT_RCLOSED 0 6) = false ∧ ((fineAt 2 move).queue 0 6).length + 1 = (fineAt 2 move).rd (R.QCH_QCFG_CAP 0 6)) ∧
    ((fineAt 2 drop).headFine 0 2 0x51 = some drop ∧
      (fineAt 2 drop).fineWordOk 0 drop { dst := false, srcs := 1, imm := true, mode := false, queueOnly := true } = true ∧
      (fineAt 2 drop).fineBarred 0 2 drop = false ∧ (fineAt 2 drop).fineStale 0 2 drop = false ∧
      (fineAt 2 drop).queue 0 5 ≠ [] ∧ ((fineAt 2 drop).queue 0 5).length < drop.fImm) ∧
    ((fineAt 2 bad).headFine 0 2 0x20 = some bad ∧ (fineAt 2 bad).fineWordOk 0 bad { dst := true, srcs := 2, modOnly := true } = false ∧
      (fineAt 2 bad).jobOn 0 = some aJob) := by
  refine ⟨⟨ready_one _ _ _ _ _ ?_ ?_ ?_, ready_one _ _ _ _ _ ?_ ?_ ?_⟩, ?_, ?_, ?_, ?_⟩ <;> decide +kernel

/-- FineLoadsAndMoves: an FROW after an exchange was asked for, with the mode kept and with it changed. -/
def rowed (mode : Nat) (x : Bool) : State :=
  with0 (fineAt 0 (fineOp 0x0A 6 0xC0 0xFF 0 0 [5])) fun y =>
    { y with lastMode := some (mode, 0), exchange := x, statActive := [(0, List.replicate 512 2)], statIdle := [(0, List.replicate 512 3)] }
theorem witness_fine_rows : (fineOp 0x0A 6 0xC0 0xFF 0 0 [5]).fOpen = false ∧ mapWf [] ((rowed 0 false).die 0).statIdle = true ∧
    ((rowed 0 true).die 0).streamRow 0 = List.replicate 512 3 ∧ ((rowed 0 false).die 0).streamRow 0 = List.replicate 512 2 ∧
    ((rowed 1 true).die 0).lastMode = some (1, 0) ∧ (rowed 1 true).headFine 0 0 0x0A = some (fineOp 0x0A 6 0xC0 0xFF 0 0 [5]) := by decide +kernel

theorem test_qmove : (after (.qmove 0 2) (fineAt 2 (fineOp 0x50 6 5 0xFF 1 0 []))).queue 0 6 = [entry1] := by decide +kernel

/-- An image of one die with segments 0 and 1 of core 0. -/
def twoSegments : List Byte :=
  fit 0x38 (leBytes 6 0 ++ leBytes 2 2) ++ leBytes 8 1 ++ zeros 64 ++ (leBytes 8 (5 + 8 * 2 ^ 32) ++ leBytes 8 0xA0) ++
    (leBytes 8 (5 + 8 * 2 ^ 32) ++ leBytes 8 0xA8) ++ leBytes 8 0x1111 ++ leBytes 8 0x2222

/-- Core 0 of die 0 running in a job; x5 is v; it owns Basil, at the fine level. -/
def running (v : Nat) : State :=
  with0 { put flow [(R.CHIVE_RUN_RUN 0, 1), (R.STRM_CFG_ENABLE 0, 1), (R.STRM_GROUP_LVL_B 0, 1), (R.STRM_GROUP_OWN_M 0, 1), (R.SU_PROGBASE_HANDLE 0, 0)] with
    images := [(0, twoSegments)] } fun x =>
    x.updCore 0 fun k => { k with x := k.x.set 5 (BitVec.ofNat 64 v) }

/-- What a core did before a command: nothing. -/
def still : Progress := ⟨0x40000, [], [], 0⟩

/-- CoresIssue: a group that core 0 owns and one that it does not, with a FIFO of 15; a kept ticket; stream units 0 and 3. -/
theorem witness_cores_issue :
    let s := (running 0).updGroup 0 0 fun g => { g with fifo := List.replicate 15 (fineOp 0x20 6 0xC0 0x80 0 0 []), nextTicket := 2 ^ 16 - 1, hist := [(3, 2 ^ 16)] }
    let s1 := s.progress 0 0 still
    let k := (s1.die 0).core 0
    s.coreInJob 0 0 = true ∧ s1.ownerOf 0 0 = 0 ∧ s1.ownerOf 0 1 ≠ 0 ∧ s.on (R.STRM_CFG_ENABLE 0) = true ∧ s1.settled 0 0 = true ∧
      ((s.die 0).group 0).fifo.length < 16 ∧ ((s.die 0).group 0).nextTicket < 2 ^ 16 ∧ k.reg 5 = 0 ∧ s1.levelOf 0 0 ≠ 0 ∧
      k.reg 5 % 16 = 0 ∧ s1.inOrder 0 0 (k.captureMacro 0 (2 ^ 16 - 1) 0) = true ∧ (s.jobs.map (·.id)).Nodup ∧ s.jobOn 0 = some aJob ∧ ((s1.die 0).group 0).statusOf 3 = some (2 ^ 16) ∧
      s.rd (R.SU_PROGBASE_HANDLE 0) ≠ nullHandle ∧ ((s.die 0).sunit 3).waiting = [] ∧ s1.startInOrder 0 0 0 = true ∧ ((s.die 0).sunit 3).prog = none ∧
      ((s.die 0).sunit 3).failed < 2 ^ 64 := by decide +kernel

/-- CoresIssue, SUFEED: unit 0's feed program over 2,048 bytes of handle 1: the last offset that fits, one past it, and one that is not
aligned. -/
theorem witness_feeds :
    let s := with0 (buf (running 0) 1 2 0 2048 0) fun x => x.updSunit 0 fun u =>
      { u with prog := some (9, fit 64 (leBytes 8 (1 + 5 * 2 ^ 16 + 2 ^ 25 + 2 ^ 32) ++ leBytes 8 0 ++ leBytes 8 8)) }
    s.arrivalFault 0 0 1984 = none ∧ s.arrivalFault 0 0 2048 = some (9, Ev.RANGE, 1) ∧ s.arrivalFault 0 0 1985 = some (9, Ev.ALIGN, 1) ∧
      ((s.die 0).sunit 0).feeds = [] ∧ s.jobOn 0 = some aJob ∧ s.coreInJob 0 0 = true := by decide +kernel

theorem test_opf_returns_its_ticket : (((after (.opf 0 0 still 0 6 5 7) (running 0x20)).die 0).core 0).reg 6 = 1 ∧
    (((after (.opf 0 0 still 0 6 5 7) (running 0x20)).die 0).group 0).fifo.length = 1 := by decide +kernel
theorem test_opm_not_owner : (((after (.opm 0 0 still 1 6 5) (running 0)).die 0).core 0).reg 6 = 2 ^ 63 + 1 := by decide +kernel

/-- x6 after an instruction of a core whose x6 is 3 and x7 is −1 (R208: RV64IMAC). -/
def ranBy (w : Nat) : Option Nat :=
  let k : Core := { x := ((Vector.replicate 32 0).set 6 3).set 7 (BitVec.ofInt 64 (-1)) }
  match (if w % 4 = 3 then rvDecode32 w else rvDecode16 w).map (k.execute 77 5 (if w % 4 = 3 then 4 else 2)) with
  | some (.next k) => some (k.reg 6)
  | _ => none

/-- R208: ADDI x6, x7, −1; DIVU x6, x6, x0; MULH x6, x7, x7; C.ADDI x6, 1; RDTIME x6; and an OP-IMM word whose shift is reserved. -/
theorem test_core_words :
    [0xFFF38313, 0x02035333, 0x02739333, 0x0305, 0xC0102373, 0x80031313].map ranBy = [some (2 ^ 64 - 2), some (2 ^ 64 - 1), some 0, some 4, some 77, none] := by
  decide +kernel

/-- R209: a core's own word at its pc: SW x7, 0(x0), which an idle step runs. -/
theorem test_core_steps :
    let s := (running 0).updCore 0 0 fun k => { k with bank0 := leBytes 4 0x00702023, x := k.x.set 7 9 }
    mapBytes (((s.coreStep 0 0).die 0).core 0).dmem 0 4 = [9, 0, 0, 0] ∧ (((s.coreStep 0 0).die 0).core 0).pc = 0x40004 := by decide +kernel

/-- CoresSynchronise: a core that issues LBAR, one that waits at a barrier, at a boundary, ends its segment and its job, and one
that a service user halts. -/
theorem witness_cores_synchronise :
    let a7 (v : Nat) := (running 0).updCore 0 0 fun k => { k with x := k.x.set 17 (BitVec.ofNat 64 v) }
    let wait := (running 0).updCore 0 0 fun k => { k with atBarrier := some 1 }
    let bound := (running 0).updCore 0 0 fun k => { k with atBoundary := true, segReady := true }
    let serv := put (running 0) [(R.SEC_STATE_SERVICE, 1)]
    (running 0).coreInJob 0 0 = true ∧ ((running 0).progress 0 0 still).settled 0 0 = true ∧ wait.barrierReady 0 1 = true ∧ (wait.jobOn 0).isSome = true ∧
      ((running 0).segments 0 0)[1]? = some (leBytes 8 0x2222) ∧ bitOf ((running 0).rd (R.CHIVE_RUN_RUN 0)) 0 = true ∧
      (((running 0).die 0).core 0).segReady = false ∧ (running 0).activeBank 0 0 = 0 ∧
      ((((a7 1).progress 0 0 still).die 0).core 0).reg 17 = 1 ∧ ((((a7 0).progress 0 0 still).die 0).core 0).reg 17 = 0 ∧
      ((bound.die 0).core 0).atBoundary = true ∧ ((bound.die 0).core 0).segReady = true ∧ serv.on R.SEC_STATE_SERVICE = true ∧ serv.inServ 0 = true ∧
      (((serv.updCore 0 0 fun k => { k with debugHalt := true }).die 0).core 0).debugHalt = true ∧ ((serv.die 0).core 0).debugHalt = false ∧
      ((bound.jobOn 0).isSome = true ∧ bitOf ((running 0).rd (R.CHIVE_RUN_RUN 0)) 7 = false) := by decide +kernel

/-- CoresSynchronise: a barrier whose LBAR names rd 5, with an entry left in a fine-level group's queue and with none. -/
theorem test_barrier_value_and_leftover :
    let s := (running 0).updCore 0 0 fun k => { k with atBarrier := some (1 + 256 * 5) }
    let left := with0 s fun x => { x with queues := [(6, [entry1])] }
    (((after (.layerBarrier 0 1) s).die 0).core 0).reg 5 = 1 ∧ ((after (.layerBarrier 0 1) s).die 0).leftover = false ∧
      left.barrierReady 0 1 = true ∧ left.leavesEntries 0 [0] = true ∧ ((after (.layerBarrier 0 1) left).die 0).leftover = true := by decide +kernel

theorem test_segment_prefetch : (((after (.segmentPrefetch 0 0 1) (running 0)).die 0).core 0).bank1 = leBytes 8 0x2222 ∧
    (after (.segmentPrefetch 0 0 0) (running 0)).rd R.EVT_LAST_CODE = Ev.IMEM_ACTIVE := by decide +kernel
theorem test_layer_barrier : (after (.layerBarrier 0 1) ((running 0).updCore 0 0 fun k => { k with atBarrier := some 1 })).rd (R.STRM_LAYER_COUNT 0) = 1 := by
  decide +kernel

/-- An entry of a key order: region 2, context 0, level 1, three digits. -/
def keyRec : List Byte := leBytes 8 (7 + 2 * 2 ^ 32 + 2 ^ 56) ++ leBytes 8 3

/-- An image of one die with a key order of two such entries. -/
def twoKeys : List Byte :=
  fit 0x38 (leBytes 6 0 ++ leBytes 2 1) ++ leBytes 8 1 ++ zeros 64 ++ (leBytes 8 (9 + 32 * 2 ^ 32) ++ leBytes 8 0x90) ++ keyRec ++ keyRec

/-- A job whose key order has those entries, in handle 1; the chain has N = 512; Dill's context 0 serves nothing, or the first entry of
which it has fetched n rows of both halves. -/
def keyed (active : Bool) (n : Nat) : State :=
  let s0 := buf (buf { put busy [(R.DILL_KOBASE_HANDLE0 0, 1)] with images := [(0, twoKeys)], chains := [(0, leBytes 8 (9 * 2 ^ 8 + 2 ^ 16 + 2 ^ 32) ++ zeros 72)] }
    1 2 0 2048 0) 2 2 (2 ^ Attr.KEY) 65536 4096
  with0 (s0.poke 1 0 (keyRec ++ keyRec)) fun x =>
    { x with dill := x.dill.set 0 { active := active, snap := if active then [zeros 64] else [], fetched := n, buffered := n } }

/-- KeysStreamed: before the snapshot and after it; with rows of the entry left and with none, when those of the next entry follow; and on
a stack that issues no access. -/
theorem witness_keys :
    let e : KeyRef := ⟨7, 2, 0, 0, 1, 3⟩
    let shut (s : State) := put s [(R.MEM_THERM_LEVEL0 0, 3), (R.MEM_THERM_LEVEL1 0, 3)]
    let r := (keyed true 0).entryRows 0 0 e
    let all := 2 * r.2.2.length
    let next := r.2.2.take 3
    let later := (keyed true all).laterRows 0 0
    (keyed false 0).keyEntry 0 0 = some e ∧ (keyed false 0).handleOk 2 = true ∧ ((keyed false 0).dillCtx 0 0).active = false ∧
      cleanB (keyed false 0) 2 0 192 = true ∧ (keyed false 0).accessWaits 2 0 192 = false ∧ (shut (keyed false 0)).accessWaits 2 0 192 = true ∧
      ((keyed true 0).dillCtx 0 0).active = true ∧ next.length = 3 ∧ 0 + 2 * 3 ≤ 256 ∧
      (next.all fun x => cleanB (keyed true 0) 2 (rowOff r.1 r.2.1 x) 2048 && !(keyed true 0).accessWaits 2 (rowOff r.1 r.2.1 x) 2048) = true ∧
      all ≤ 250 ∧ (r.2.2.drop (all / 2)).take 3 = [] ∧ (later.map fun p => (p.1, p.2.1, p.2.2.2.2.length)) = some (1, e, 3) := by decide +kernel

theorem test_row_fetch : ((after (.dillRowFetch 0 0 []) (keyed true 0)).dillCtx 0 0).buffered = 6 := by decide +kernel
theorem test_row_fetch_ahead :
    ((after (.dillRowFetch 0 0 []) (keyed true (2 * ((keyed true 0).entryRows 0 0 ⟨7, 2, 0, 0, 1, 3⟩).2.2.length))).dillCtx 0 0).ahead.map (·.entry) =
      [1, 1, 1] := by decide +kernel

/-! ### Stream units, core accesses, tensors and the fabric -/

/-- A running core with handle 1 (2,048 bytes, written and read by cores) and handle 2 on die 1, handle 3 a table of descriptors,
handle 4 another 2,048 bytes of tensors; x5 is the address of handle 1's byte 8 and x6 is 7. -/
def windows : State :=
  let s := buf (buf (buf (buf (running (2 ^ 48 + 2 ^ 32 + 8)) 1 2 (2 ^ Attr.CRD + 2 ^ Attr.CWR) 2048 0) 0x102 2 (2 ^ Attr.CRD + 2 ^ Attr.CWR) 2048 0)
    3 2 (2 ^ Attr.DESC + 2 ^ Attr.CWR) 2048 4096) 4 2 0 2048 8192
  s.updCore 0 0 fun k => { k with x := k.x.set 6 7 }

/-- StreamUnits: a program at the front of unit 15's list that passes, one that is not aligned; a read, a write within the die and one
to die 1; a fed offset that does not fit, and an entry that may not land. -/
theorem witness_streams :
    let s (b : List Byte) := with0 ((put windows [(R.SU_PROGBASE_HANDLE 0, 4)]).poke 4 64 b) fun x => x.updSunit 15 fun u => { u with waiting := [1] }
    let good := progOf 1 5 0
    let odd := putAt good 8 (leBytes 8 4)
    let short (dir : Nat) := putAt (progOf 1 5 dir) 4 (leBytes 4 1)
    let run (dir : Nat) (es : List QEntry) := with0 windows fun x => x.updSunit 15 fun u => { u with prog := some (1, short dir), ents := es }
    let p (dir : Nat) := parseProg (short dir)
    (s good).jobOn 0 = some aJob ∧ (s good).handleOk 4 = true ∧ 64 * 1 + 64 ≤ (s good).hLen 4 ∧
      ((List.range 64).all fun k => (s good).errAt ((s good).place 4 (64 + k)) = 0) = true ∧ (s good).peek 4 64 64 = good ∧
      (s good).progFault 0 good = none ∧ (s odd).progFault 0 odd = some Ev.ALIGN ∧
      (((run 0 []).die 0).sunit 15).nextOff (p 0) = some 0 ∧ (p 0).feed = false ∧ (((run 0 []).die 0).sunit 15).mayRead (p 0) = true ∧
      (run 0 []).hTorn 1 = false ∧ ((List.range 64).all fun k => (run 0 []).errAt ((run 0 []).place 1 k) = 0) = true ∧
      (p 1).dir ≠ 0 ∧ (p 1).xbytes ≤ (((run 1 [entry1]).die 0).sunit 15).held ∧ (p 1).total = 1 ∧
      (run 1 [entry1]).mayLand 1 ((((run 1 [entry1]).die 0).sunit 15).used? 64) = true ∧ entry1.void = false ∧
      ((List.range 64).map fun k => (run 1 []).spot 1 k).Nodup ∧ (run 1 [entry1]).memWf = true ∧ (run 1 [entry1]).mayWriteOut 0 15 (p 1) = true ∧
      (run 1 [entry1]).accessWaits 1 0 64 = false ∧ ((List.range 64).all fun k => ((run 1 []).place 1 k).die = 0) = true ∧
      (run 1 []).mayLand 1 [{ entry1 with token := true }] = false := by decide +kernel
theorem witness_streams_out :
    let far := putAt (progOf 0x102 5 1) 4 (leBytes 4 1)
    let s := with0 windows fun x => x.updSunit 15 fun u => { u with prog := some (1, far), ents := [entry1] }
    let fed := fit 64 (leBytes 8 (1 + 5 * 2 ^ 16 + 2 ^ 25 + 2 ^ 32) ++ leBytes 8 0 ++ leBytes 8 8)
    let f := with0 windows fun x => x.updSunit 15 fun u => { u with prog := some (1, fed), feeds := [2048] }
    s.mayWriteOut 0 15 (parseProg far) = true ∧ ((List.range 64).all fun k => (s.place 0x102 k).die != 0) = true ∧
      ((s.die 0).sunit 15).nextOff (parseProg far) = some 0 ∧ s.memWf = true ∧ s.accessWaits 0x102 0 64 = false ∧
      ((after (.streamTransfer 0 15 []) s).flights.map fun g => (g.handle, g.chan, g.bytes.length)) = [(0x102, 16, 64)] ∧
      (parseProg fed).feed = true ∧ ((f.die 0).sunit 15).nextOff (parseProg fed) = some 2048 ∧ ((f.die 0).sunit 15).mayRead (parseProg fed) = true ∧
      f.feedFault (parseProg fed) 2048 = some Ev.RANGE := by decide +kernel

/-- CoreAccesses: each access at the last bytes that it may touch, one byte further, and FENCE with and without a store in flight. -/
theorem witness_core_accesses :
    let s1 := windows.progress 0 0 still
    let fly : State := { windows with flights := [⟨coreMid 0 0, 0, 0x102, 0, [1], false, 0, 0⟩] }
    windows.coreInJob 0 0 = true ∧ regionOf (2 ^ 48 + 2 ^ 32 + 2040) = .window 1 2040 ∧ s1.mayLoad 1 2040 8 = true ∧ s1.mayLoad 1 2041 8 = false ∧
      s1.tracked 0 0 1 2040 8 = false ∧ ((List.range 8).all fun k => s1.errAt (s1.place 1 (2040 + k)) = 0) = true ∧
      regionOf 0x1003F8 = .status 127 0 ∧ s1.mayStore 1 2040 8 = true ∧ s1.hAttr 1 Attr.DESC = false ∧ s1.outstanding 0 0 < 16 ∧
      s1.narrowUe 1 2040 8 = false ∧ (s1.place 1 2040).die = 0 ∧ ((List.range 8).map fun k => s1.spot 1 (2040 + k)).Nodup ∧
      regionOf (2 ^ 48 + 0x102 * 2 ^ 32) = .window 0x102 0 ∧ s1.mayStore 0x102 0 8 = true ∧ (s1.place 0x102 0).die = 1 ∧
      regionOf (0x101 * 2 ^ 48 + 2 ^ 32) = .sealedWin 1 0 ∧ s1.sealPend (hDie 1) < 32 ∧ s1.settled 0 0 = true ∧
      (fly.progress 0 0 still).settled 0 0 = false ∧ windows.memWf = true ∧ s1.mustWait 0 0 1 2040 8 = false ∧ s1.mustWait 0 0 0x102 0 8 = false ∧
      cleanB s1 1 2040 8 = true ∧ spreadB s1 1 2040 8 = true ∧ (windows.progress 0 0 still).settled 0 0 = true ∧ windows.fab.posts = [] ∧
      s1.mayStore 1 2041 8 = false ∧ regionOf (2 ^ 48 + 3 * 2 ^ 32 + 0x30) = .window 3 0x30 ∧ s1.mayStore 3 0x30 8 = true ∧ s1.hAttr 3 Attr.DESC = true ∧
      (0x3FFF8 : Nat) + 8 ≤ 2 ^ 18 ∧ mapWf (0 : Byte) ((s1.die 0).core 0).dmem = true ∧ regionOf 0x3FFF9 = .outside ∧ regionOf 0x102038 = .port 0x38 := by decide +kernel
theorem test_data_memory : (((after (.windowLoad 0 0 still 9 0x3FFF8 .w8 true []) (after (.windowStore 0 0 still 6 0x3FFF8 .w8 []) windows)).die 0).core 0).reg 9 = 7 := by
  decide +kernel
/-- CoreAccesses: a word of handle 1 that cannot be corrected, below its last byte. -/
theorem witness_narrow_ue :
    let s := windows.updDie 0 fun x => { x with stackErr := [((windows.place 1 2040).unit, 2)] }
    (s.progress 0 0 still).narrowUe 1 2040 8 = true ∧ (s.progress 0 0 still).mayStore 1 2040 8 = true ∧ s.jobOn 0 = some aJob := by decide +kernel

theorem test_store_then_load :
    let t := after (.windowStore 0 0 still 6 (BitVec.ofNat 64 (2 ^ 48 + 2 ^ 32 + 2040)) .w8 []) windows
    t.peek 1 2040 8 = [7, 0, 0, 0, 0, 0, 0, 0] ∧
      (((after (.windowLoad 0 0 still 9 (BitVec.ofNat 64 (2 ^ 48 + 2 ^ 32 + 2040)) .w1 true []) t).die 0).core 0).reg 9 = 7 := by decide +kernel
theorem test_load_past_the_end_traps :
    ((after (.windowLoad 0 0 still 9 (BitVec.ofNat 64 (2 ^ 48 + 2 ^ 32 + 2041)) .w8 true []) windows).job? 1).map (·.phase) = some .ended := by decide +kernel

/-- ScopedAtomics: the word at handle 1's byte 8. -/
theorem witness_atomics :
    let s1 := windows.progress 0 0 still
    let k := (s1.die 0).core 0
    regionOf (k.reg 5) = .window 1 8 ∧ 8 % 8 = 0 ∧ s1.mayLoad 1 8 8 = true ∧ s1.mayStore 1 8 8 = true ∧ s1.hAttr 1 Attr.DESC = false ∧
      s1.tracked 0 0 1 8 8 = false ∧ windows.flights = [] ∧ windows.fab.posts = [] ∧
      cleanB s1 1 8 8 = true ∧ spreadB s1 1 8 8 = true ∧ s1.mustWait 0 0 1 8 8 = false ∧ windows.memWf = true ∧ windows.jobOn 0 = some aJob ∧
      (windows.jobs.map (·.id)).Nodup ∧ (windows.updCore 0 0 fun k => { k with x := k.x.set 5 9 }).coreInJob 0 0 = true ∧ regionOf 9 = .outside := by decide +kernel

theorem test_atomic_max_is_signed :
    let s := windows.poke 1 8 (List.replicate 8 0xFF)
    (after (.samoMax 0 0 still 9 5 6 0 true []) s).peek 1 8 8 = [7, 0, 0, 0, 0, 0, 0, 0] ∧
      (after (.samoMaxu 0 0 still 9 5 6 0 true []) s).peek 1 8 8 = List.replicate 8 0xFF := by decide +kernel

/-- A tensor of 16 FP32 elements at an offset of handle 4 (R248), or a copy request that names slot `src` of handle 3. -/
def tensorOf (type off src : Nat) : List Byte :=
  fit 64 (leBytes 8 (type + 2 ^ 8 + 4 * 2 ^ 32) ++ leBytes 8 off ++ leBytes 4 16 ++ leBytes 4 1 ++ leBytes 4 1 ++ leBytes 4 1 ++ leBytes 4 4 ++ zeros 12 ++ zeros 8 ++
    leBytes 4 (if type = 0x11 then 3 + src * 2 ^ 16 else 0))

/-- The core with a slot of handle 3 staged but for its last word. -/
def staged (b : List Byte) (slot : Nat) : State := windows.updCore 0 0 fun k => { k with staging := b.take 56, stageRef := some (slotRef 3 (64 * slot)) }

/-- The address of a slot's last word. -/
def lastWord (slot : Nat) : Nat := 2 ^ 48 + 3 * 2 ^ 32 + 64 * slot + 0x38

/-- No access waits where no stack is shut. -/
theorem ready_never_waits {s : State} (w : ((List.range 16).any fun i => s.stackShut (i / 2) (i % 2)) = false) (h o n : Nat) :
    s.accessWaits h o n = false := by
  simp [State.accessWaits, w]

/-- TensorsAndCopies: slot 31, created, refused and of another TYPE; a copy from slot 0, queued, held and refused; and one that the copy
unit runs, where no stack is shut. -/
theorem witness_tensors :
    let t := tensorOf 0x10 0 0
    let bad := tensorOf 0x10 2048 0
    let c := tensorOf 0x11 1024 0
    let v (b : List Byte) := leAt b 56 8
    let st (b : List Byte) := ((staged b 31).poke 3 0 t).progress 0 0 still
    let job : CopyJob := { ref := slotRef 3 (64 * 31), mid := coreMid 0 0, dst := c, src := t }
    let run := with0 (windows.poke 3 0 t) fun x => { x with copies := [job] }
    ((st t).slotCommit 0 0 (lastWord 31) (v t)) = some (slotRef 3 (64 * 31), t) ∧ (st t).slotFree (slotRef 3 (64 * 31)) = true ∧ t.length = 64 ∧
      (st t).tensorFault t = none ∧ (st bad).slotCommit 0 0 (lastWord 31) (v bad) = some (slotRef 3 (64 * 31), bad) ∧
      (st bad).tensorFault bad = some Ev.RANGE ∧ (st c).slotCommit 0 0 (lastWord 31) (v c) = some (slotRef 3 (64 * 31), c) ∧
      (st c).copyFault c ((st c).copySource (parseT c).src) = none ∧
      (st (tensorOf 0x11 32 0)).copyFault (tensorOf 0x11 32 0) ((st c).copySource (parseT c).src) = some Ev.OVERLAP ∧
      spreadB (st t) 3 (64 * 31) 64 = true ∧ windows.coreInJob 0 0 = true ∧ windows.memWf = true ∧
      (let other := (staged (tensorOf 0x12 0 0) 31).progress 0 0 still
       (other.slotCommit 0 0 (lastWord 31) 0).map (fun p => leAt p.2 0 1) = some 0x12) ∧
      (st c).outstanding 0 0 < 15 ∧ (st c).trackedTensor 0 0 (parseT c) = false ∧ (st c).trackedTensor 0 0 (parseT ((st c).copySource (parseT c).src)) = false ∧
      (let fly : State := { (st c) with flights := [⟨coreMid 0 0, 0, 4, 1024, [1], false, 0, 0⟩] }
       fly.trackedTensor 0 0 (parseT c) = true) ∧
      job.done = 0 ∧ job.fault = 0 ∧ ((List.range 16).any fun i => run.stackShut (i / 2) (i % 2)) = false ∧ (run.die 0).copies = [job] ∧ (parseT c).bits = 32 ∧ (parseT c).count = 16 ∧
      (parseT t).count = 16 ∧ run.hTorn 4 = false ∧ run.memWf = true ∧
      ((List.range 64).all fun k => run.errAt (run.place 4 k) = 0) = true ∧
      (((List.range 64).map fun k => (run.spot 4 (1024 + k)).2.2) ++ (List.range 64).map fun k => (run.spot 3 (64 * 31 + k)).2.2).Nodup := by decide +kernel

/-- RemoteRequests: a plain write of 64 bytes of handle 1 to endpoint 9, an atomic, and a write of 32 bytes, which no record may
ask. -/
theorem witness_remote :
    let rec' (op len srch : Nat) : List Byte := fit 64 (leBytes 8 (9 + op * 2 ^ 48) ++ leBytes 8 (srch + len * 2 ^ 32) ++ zeros 32 ++ leBytes 8 0x3FFF0)
    let ok (b : List Byte) : Bool := ((windows.progress 0 0 still).retire 0 0 0 0).remoteOk b
    ok (rec' 0 64 1) = true ∧ ok (rec' 1 64 1) = true ∧ ok (rec' 2 0 0) = true ∧ ok (rec' 0 32 1) = false ∧ (parseRemote (rec' 0 32 1)).op = 0 ∧
      (parseRemote (rec' 0 32 1)).res + 16 = 2 ^ 18 ∧ windows.fab.posts = [] ∧ mapWf (0 : Byte) ((windows.die 0).core 0).dmem = true ∧
      ((List.range 64).all fun k => windows.errAt (windows.place 1 k) = 0) = true ∧ windows.coreInJob 0 0 = true := by decide +kernel
/-- RemoteRequests: a core with 16 requests posted. -/
theorem witness_remote_full :
    let s : State := { windows with fab := { windows.fab with posts := List.replicate 16 { die := 0, core := 0, rec' := zeros 64, sent := true } } }
    (s.fab.posts.filter fun q => q.die = 0 && q.core = 0).length = 16 ∧ after (.remoteWrite 0 0 still 0) s = s := by decide +kernel

/-- A part of endpoint 5 with port 7 up, a peer of endpoint 9 in entry 0 of the peer table, and its session key. -/
def linked : State :=
  { put busy [(R.FAB_CFG_ENABLE, 1), (R.FAB_EPID_EPID, 5), (R.FAB_PORT_UP 7, 1), (R.FAB_PEERTAB_V 0, 1), (R.FAB_PEERTAB_EPID 0, 9), (R.FAB_PEERTAB_KEYSLOT 0, 0)] with
    fab := { busy.fab with keys := [(0, zeros 32)] } }

/-- A frame of the peer to port 7 with a header and payload (R328, R332). -/
def frameOf (h : Hdr) (pay : List Byte) : List Byte :=
  let h1 := { h with src := 9, dst := 5, len := pay.length }
  let f := macOf 5 7 ++ macOf 9 0 ++ beBytes 2 (linked.rd R.FAB_CFG_ETYPE) ++ h1.toBytes ++ pay ++ frameTag (zeros 32) h1 (h1.toBytes ++ pay)
  f ++ fcs f

/-- A frame passes the checks. -/
def passes (s : State) (f : List Byte) (type : Nat) : Bool :=
  match s.rxFrame 7 f type with
  | .frame _ _ => true
  | .done _ => false

/-- The check value of the CRC that IEEE 802.3 uses: 0xCBF43926 for the digits 1 to 9. -/
theorem test_frame_check_sequence : fcs [0x31, 0x32, 0x33, 0x34, 0x35, 0x36, 0x37, 0x38, 0x39] = [0x26, 0x39, 0xF4, 0xCB] := by decide +kernel

/-- The linked part with handle 1 for remote stores, a receive binding of queue 6 with one entry of credit, a fabric channel to
the peer, and a write and an atomic of core 0 posted and sent. -/
def linkedJob : State :=
  let post (op num : Nat) : Post := { die := 0, core := 0, rec' := fit 64 (leBytes 8 (9 + 3 * 2 ^ 32 + op * 2 ^ 48) ++ zeros 40 ++ leBytes 8 0x3FFF0), sent := true, num := num }
  let s := buf linked 1 2 (2 ^ Attr.CRD + 2 ^ Attr.CWR) 2048 0
  { put s [(R.FAB_RXTAB_V 0, 1), (R.FAB_RXTAB_SRC 0, 9), (R.FAB_RXTAB_ACH 0, 3), (R.FAB_RXTAB_RQ 0, 6), (R.QCH_CFG_ENABLE 0, 1), (R.QCH_QCFG_CAP 0 6, 4),
      (R.QCH_CHTAB0_ACH 0 31, 3), (R.QCH_CHTAB1_RQ 0 31, 7), (R.QCH_CHTAB0_SQ 0 31, 5)] with
    fab := { s.fab with
      binds := [(0, { job := 1, die := 0, credit := 1 })], mems := [{ die := 0, ch := 31, epid := 9 }], posts := [post 0 4, post 2 4] } }

/-- FramesReceived, what the frames meet: a binding, a handle, posted requests and a channel's member. -/
theorem witness_frames_meet :
    let s := linkedJob
    let entry : Hdr := { type := Ft.ENTRY, ach := 3, rq := 6, nent := 1, src := 9 }
    s.rxBinding entry = some 0 ∧ (mapFind s.fab.binds 0).map (·.credit) = some 1 ∧ (s.conn 9).rxCum = 0 ∧ (s.conn 9).early = [] ∧
      s.on (R.QCH_QSTAT_RCLOSED 0 6) = false ∧ s.remoteRefusal 0x10 1 1984 64 false = 0 ∧ s.remoteRefusal 0x10 1 2048 64 false ≠ 0 ∧ s.remoteRefusal 0x50 1 1984 64 false ≠ 0 ∧ s.narrowUe 1 1984 64 = false ∧
      ((List.range 64).map fun k => s.spot 1 (1984 + k)).Nodup ∧ s.sealPend 0 < 32 ∧ s.remoteRefusal 0x10 1 2040 8 true = 0 ∧ s.remoteRefusal 0x10 1 2048 8 true ≠ 0 ∧ s.accessWaits 1 1984 64 = false ∧ s.accessWaits 1 2040 8 = false ∧
      ((List.range 8).all fun k => s.errAt (s.place 1 (2040 + k)) = 0) = true ∧ s.memWf = true ∧
      ((s.accept { type := Ft.WACK, src := 9 }).postOf 9 (coreMid 0 0) 4 false 3).map (·.num) = some 4 ∧
      ((s.accept { type := Ft.AREPLY, src := 9 }).postOf 9 (coreMid 0 0) 4 true 0).map (·.num) = some 4 ∧ s.fab.posts.all (·.sent) = true ∧
      s.rd (R.QCH_CHTAB0_ACH 0 31) = 3 := by decide +kernel

/-- FramesReceived: frames of every type pass the checks. -/
theorem witness_frame_entry : passes linkedJob (frameOf { type := Ft.ENTRY, ach := 3, rq := 6, nent := 1 } (zeros 2056)) Ft.ENTRY = true := by decide +kernel
theorem witness_frame_write : passes linkedJob (frameOf { type := Ft.WRITE, ach := 3, handle := 1, off := 1984 } (zeros 64)) Ft.WRITE = true := by decide +kernel
theorem witness_frame_sealed : passes linkedJob (frameOf { type := Ft.WRITE, isSealed := 1, ach := 3, handle := 1, off := 1984 } (zeros 64)) Ft.WRITE = true := by
  decide +kernel
theorem witness_frame_atomic : passes linkedJob (frameOf { type := Ft.ATOMIC, aw64 := 1, handle := 1, off := 2040, aux := 5 } []) Ft.ATOMIC = true := by decide +kernel
theorem witness_frame_wack : passes linkedJob (frameOf { type := Ft.WACK, ach := 3, smid := 0x10, aux := 4 * 2 ^ 32 } []) Ft.WACK = true := by decide +kernel
theorem witness_frame_areply : passes linkedJob (frameOf { type := Ft.AREPLY, smid := 0x10, wseq := 4, aux := 7 } []) Ft.AREPLY = true := by decide +kernel
theorem witness_frame_credit : passes linkedJob (frameOf { type := Ft.CREDIT, ach := 3, rq := 7, aux := 2 } []) Ft.CREDIT = true := by decide +kernel
theorem witness_frame_close : passes linkedJob (frameOf { type := Ft.CLOSE, ach := 3, aux := 1 } []) Ft.CLOSE = true := by decide +kernel

theorem test_credit_arrives :
    (after (.rxCredit 7 (frameOf { type := Ft.CREDIT, ach := 3, rq := 7, aux := 2 } [])) linkedJob).fab.mems.map (·.credit) = [2] := by decide +kernel

/-- FramesReceived: a sealed write where the die holds 32. -/
theorem witness_frames_held :
    let w : HeldWrite := { epid := 9, port := 7, smid := 0x10, ach := 3, wseq := 1, handle := 1, off := 0, bytes := zeros 64 }
    let s : State := { linkedJob with fab := { linkedJob.fab with held := List.replicate 32 w } }
    32 ≤ s.sealPend (s.place 1 1984).die := by decide +kernel

/-- FramesChecked: a port that is up and one that is not, a frame whose last byte is wrong, and one with a reserved header bit set. -/
def reservedFrame : List Byte :=
  let g := (putAt (frameOf { type := Ft.CREDIT } []) 14 [((frameOf { type := Ft.CREDIT } []).getD 14 0) ||| 0x80])
  let b := g.take (g.length - 4)
  b ++ fcs b
theorem test_reserved_bit :
    (after (.rxCredit 7 reservedFrame) linked).rd (R.FAB_DROP_COUNT 1) = 1 ∧ (after (.rxCredit 7 reservedFrame) linked).rd R.EVT_LAST_CODE = Ev.RANGE := by
  decide +kernel
theorem witness_frames_checked :
    reservedFrame.drop (reservedFrame.length - 4) = fcs (reservedFrame.take (reservedFrame.length - 4)) ∧ reservedFrame.length ≤ 9216 ∧
      linked.ethOk 7 reservedFrame = true ∧ frameFormOk ((reservedFrame.take (reservedFrame.length - 4)).drop linked.ethLen) = false ∧
      mapFind linked.fab.dropAt 1 = none ∧
    let f := (frameOf { type := Ft.CREDIT } []).dropLast ++ [0x55]
    linked.portsUp.contains 7 = true ∧ linked.portsUp.contains 0 = false ∧ f.drop (f.length - 4) ≠ fcs (f.take (f.length - 4)) := by decide +kernel

/-- TransportTimers: an ACK that passes, and a part with each thing that the timers wait for, at its first moment. -/
theorem witness_transport :
    let c : Conn := { epid := 9, txPsn := 4, ackCnt := 1, unacked := [⟨3, zeros 48, 7, 0, 7⟩, ⟨2, zeros 48, 8, 0, 7⟩], landed := [(lanedKey 0x10 0, (5, []))] }
    let w (n : Nat) : HeldWrite := { epid := 9, port := 7, smid := 0x10, ach := 0, wseq := n, handle := 1, off := 0, bytes := zeros 64 }
    let s0 := linkedJob.putConn c
    let s : State := { put s0 [(R.FAB_RTO_RTO_US, 50), (R.FAB_RTO_RETRIES, 7)] with
      time := 50000, fab := { s0.fab with held := [w 5, w 6] }, flights := [⟨0x10, 0, 1, 8, [1, 2], true, 3, 0⟩] }
    (match s.rxHead 7 (frameOf { type := Ft.ACK, aux := 3 } []) Ft.ACK with | .frame _ _ => true | .done _ => false) = true ∧ (s.conn 9).spent = false ∧
      (s.conn 9).ackCnt ≠ 0 ∧ (s.conn 9).ackAt + 2000 ≤ s.time ∧ ((s.conn 9).unacked.map fun f => (f.psn, f.sends)) = [(3, 7), (2, 8)] ∧
      0 + s.rd R.FAB_RTO_RTO_US * 1000 = s.time ∧ s.rd R.FAB_RTO_RETRIES = 7 ∧ s.handleOk 1 = true ∧ s.spread 1 8 2 ∧ s.memWf = true ∧
      (s.flights.filter (·.isSealed)).length = 1 ∧ (mapGet (0, []) (s.conn 9).landed (lanedKey 0x10 0)).1 = 5 ∧ s.remoteRefusal 0x10 1 0 64 false = 0 ∧
      s.narrowUe 1 0 64 = false := by
  refine ⟨?_, ?_, ?_, ?_, ?_, ?_, ?_, ?_, ?_, ?_, ?_, ?_, ?_, ?_⟩
  · decide +kernel
  · decide +kernel
  · decide +kernel
  · decide +kernel
  · decide +kernel
  · decide +kernel
  · decide +kernel
  · decide +kernel
  · intro j k hj hk h
    have hj' : j = 0 ∨ j = 1 := by omega
    have hk' : k = 0 ∨ k = 1 := by omega
    rcases hj' with rfl | rfl <;> rcases hk' with rfl | rfl <;> first | rfl | exact absurd h (by decide +kernel)
  · decide +kernel
  · decide +kernel
  · decide +kernel
  · decide +kernel
  · decide +kernel

/-- SessionsAndPorts, what can be evaluated: an own INIT at its 20th sending and before, at its time; a lane of a whole port and
one of a degraded port; a port that may come up. Whether a peer's chain is trusted and a signature verifies lies with values
that the manual leaves to the part (log 59, 60). -/
theorem witness_sessions_and_ports :
    let s (n : Nat) : State := { linked.putKeyx 9 (some { epid := 9, initiator := true, secret := 1, init := [], sends := n, at_ := 0 }) with time := 5000000 }
    ((s 19).keyx? 9).map (·.sends) = some 19 ∧ ((s 20).keyx? 9).map (·.sends) = some 20 ∧ ((s 20).keyx? 9).map (·.at_) = some 0 ∧
      bitOf (linked.rd R.FAB_CAPS_PORTS) 7 = true ∧ bitOf ((put linked [(R.FAB_PORT_LANE_OK 7, 0xFF)]).rd (R.FAB_PORT_LANE_OK 7)) 7 = true ∧
      linked.on (R.FAB_PORT_DEGRADED 7) = false ∧ halfOk 0xFF 0 = true ∧ halfOk 0xF7 0 = false ∧ linked.on (R.FAB_PORT_UP 0) = false ∧
      linked.rd R.SEC_STATE_STAGE ≠ 0 := by decide +kernel

theorem test_lane_fault_degrades :
    (after (.laneFault 7 7) (put linked [(R.FAB_PORT_LANE_OK 7, 0xFF)])).on (R.FAB_PORT_DEGRADED 7) = true ∧
      bitOf ((after (.laneFault 7 7) (put linked [(R.FAB_PORT_LANE_OK 7, 0xF7)])).rd R.FAB_CAPS_PORTS) 7 = false := by decide +kernel

/-! ### Jobs and images -/

/-- An image of one die without sections, with a critical path of 100 steps. -/
def bareImage : List Byte := fit 0x30 (leBytes 8 (1 * 2 ^ 32)) ++ leBytes 8 100 ++ leBytes 8 1 ++ zeros 64

/-- The host's part with that image in slot 0, on die 0. -/
def loaded : State :=
  { put host [(R.MEM_SPLIT_PW_MIB, 512), (R.ADM_STATE_STOP, 0)] with images := [(0, bareImage)], slotDies := [(0, [0])], slotBufs := [(0, [])], sqTimes := [(0, [0])] }

/-- A JOB entry with a budget, and its argument block. -/
def jobEntry (budget len : Nat) : List Byte := entryOf 1 0 7 [budget, 0x4000, len, 0x5000, 0x6000, 0, 0]
def jobArgs : List Byte := zeros 32 ++ fit 32 [1] ++ zeros 64

/-- JobsDecided: a JOB of no inputs; before 90 µs and at 90 µs and at 50 µs; a budget that is just enough and one nanosecond less; a block too short; STOP. -/
theorem witness_jobs_decided :
    let r (b : Nat) := loaded.readEntry 0 (jobEntry b 128)
    let s1 := (r 0).1
    let e := (r 0).2
    let a : JobArgs := { digest := zeros 32, seed := fit 32 [1], inputs := [] }
    let fin := s1.finishOf [0] 0 100
    loaded.hostUp = true ∧ loaded.mayRead 0 2 = true ∧ loaded.doorTime 0 = 0 ∧ s1.jobEntryOk e = true ∧ parseArgs jobArgs (e.q 0x18) = some a ∧
      parseArgs (jobArgs.take 64) 64 = none ∧ s1.imageOk e a = true ∧ s1.imageOk e { a with digest := fit 32 [9] } = false ∧ allZero a.seed = false ∧
      loaded.on R.RPL_ARM_EN = false ∧ ((s1.checkInputs bareImage none []).2.1, (s1.checkInputs bareImage none []).2.2) = (true, []) ∧
      (s1.checkInputs bareImage none [(3, 0, 0)]).2.1 = false ∧
      s1.on R.ADM_STATE_STOP = false ∧ s1.on R.ADM_CFG_ENABLE = true ∧ (put s1 [(R.ADM_STATE_STOP, 1)]).on R.ADM_STATE_STOP = true ∧
      (r fin).2.q 8 = fin ∧ 0 < fin ∧ loaded.memWf = true := by decide +kernel

/-- JobsDecided: a zero seed that cannot be drawn, and a replay armed whose captured seed is another. -/
theorem witness_jobs_replayed :
    let c : Capture := { job := 5, digest := zeros 32, seed := fit 32 [2], inputs := [], objs := [], idigs := [zeros 32], odigest := [], size := 64 }
    let s : State := { put loaded [(R.RPL_ARM_EN, 1), (R.RPL_ARM_JOBID, 5)] with captures := [c] }
    let a : JobArgs := { digest := zeros 32, seed := fit 32 [1], inputs := [] }
    (put loaded [(R.SEC_STATE_TRNG_FAIL, 1)]).seedOf (zeros 32) = none ∧ (loaded.seedOf (fit 32 [1])).map (·.1) = some (fit 32 [1]) ∧ s.armed = some c ∧
      replayArgsOk c a = false ∧ replayArgsOk c { a with seed := fit 32 [2] } = true ∧
      (after (.job 0 (jobEntry 0 128) jobArgs []) s).rd R.ADM_LAST_CODE = Ev.RANGE := by decide +kernel

theorem test_job_budget :
    let fin := loaded.finishOf [0] 0 100
    (after (.job 0 (jobEntry fin 128) jobArgs []) loaded).jobs.map (·.id) = [1] ∧ (after (.job 0 (jobEntry (fin - 1) 128) jobArgs []) loaded).jobs = [] ∧
      (after (.job 0 (jobEntry (fin - 1) 128) jobArgs []) loaded).rd R.ADM_LAST_CODE = Ev.ADMIT_BUDGET := by decide +kernel
theorem test_job_floor : floorNs 12 = 10 ∧ floorNs 13 = 11 := by decide

/-- JobsStart: a job that waits alone, and one behind another on the same die; its buffers and regions find room. -/
theorem witness_jobs_start :
    let j : Job := { aJob with phase := .waiting }
    let s : State := { loaded with jobs := [j], nextJob := 2 }
    let k : Job := { j with id := 2 }
    s.job? 1 = some j ∧ s.gapsPassed 0 1 = true ∧ s.jobTurn j = true ∧ ({ s with jobs := [j, k] } : State).jobTurn k = false ∧ j.dieMap.Nodup ∧ j.replayOf = 0 ∧
      s.rxRoom bareImage = true ∧ s.image 0 = bareImage ∧ (s.configJob j bareImage).isSome = true := by decide +kernel
/-- JobsStart: a replay of a capture whose inputs had digests, where the job has no input. -/
theorem witness_replay_start :
    let j : Job := { aJob with phase := .waiting, replayOf := 5 }
    let c : Capture := { job := 5, digest := zeros 32, seed := [], inputs := [], objs := [], idigs := [zeros 32], odigest := [], size := 64 }
    let s : State := { loaded with jobs := [j], nextJob := 2, captures := [c] }
    s.jobTurn j = true ∧ (s.configJob j bareImage).isSome = true ∧ ((s.configJob j bareImage).map fun s1 => ((s1.restoreAll j c).hashInputs j).2.2) = some [] := by decide +kernel

/-- JobsEnd: work that is done and that is not, invariants that hold and that do not, an ABORT of the job and one of a tag that no
job has. -/
theorem witness_jobs_end :
    let open1 : State := with0 busy fun x => { x with txns := txn0 false }
    let e := (busy.readEntry 0 (entryOf 6 0 9 [0, 7])).2
    let f := (busy.readEntry 0 (entryOf 6 0 9 [0, 8])).2
    busy.job? 1 = some aJob ∧ busy.workDone aJob = true ∧ (restarted 0).workDone aJob = false ∧ busy.jobDone aJob = true ∧ open1.workDone aJob = true ∧
      open1.jobDone aJob = false ∧ 0x1000 + 32 ≤ aJob.recAddr ∧ busy.complAt 0 = 0x1000 ∧ (busy.readEntry 0 (entryOf 6 0 9 [0, 7])).1.entryOk e = true ∧
      e.kind = 6 ∧ e.q 8 = 0 ∧ e.q 0x10 = 7 ∧ e.q 0x18 = 0 ∧ busy.jobs.find? (fun j => j.live && j.ring = e.q 8 && j.tag = e.q 0x10) = some aJob ∧
      busy.jobs.find? (fun j => j.live && j.ring = f.q 8 && j.tag = f.q 0x10) = none ∧ aJob.cq < 64 ∧ aJob.cq = busy.rd (R.SQ_CFG_CQ 0) ∧
      ((busy.readEntry 0 (entryOf 6 0 9 [0, 7, 1])).2.q 0x18 ≠ 0) ∧
      (after (.abort 0 (entryOf 6 0 9 [0, 7, 1])) busy).rd R.EVT_LAST_CODE = Ev.RANGE := by decide +kernel

theorem test_job_complete_record : leNat (mapBytes (after (.jobComplete 1 []) busy).hostMem 0x8008 8) = 1 := by decide +kernel

/-- ImagesLoaded: a LOAD entry for slot 15, and one for a slot in use; a landed image that is too short. -/
theorem witness_images :
    let e := (loaded.readEntry 0 (entryOf 2 15 9 [0, 0x4000, 64])).2
    let l : Landing := { slot := 15, ring := 0, tag := 9, sqHead := 1, image := zeros 64 }
    (loaded.readEntry 0 (entryOf 2 15 9 [0, 0x4000, 64])).1.entryOk e = true ∧ e.kind = 2 ∧ e.q 8 = 0 ∧ aligned64 (e.q 0x10) = true ∧ e.q 0x18 = 64 ∧
      loaded.storeThere = true ∧ loaded.slotInUse 15 = false ∧ busy.slotInUse 0 = true ∧ mapRises 0 loaded.images = true ∧
      (match loaded.verifyImage l with | .ok _ => false | .error _ => true) = true ∧ l.cq < 64 ∧ e.q 0x20 = 0 ∧ e.q 0x28 = 0 ∧ e.q 0x30 = 0 ∧
      (after (.load 0 (entryOf 2 15 9 [0, 0x4000, 2 ^ 28 + 1]) []) loaded).rd R.EVT_LAST_CODE = Ev.RANGE ∧
      (after (.load 0 (entryOf 2 15 9 [0, 0x4000, 64]) (zeros 64)) loaded).landings.map (·.slot) = [15] := by decide +kernel

/-- An image that the verifier accepts: one die with one core's program (an ECALL), one chain, one input, and no operations. -/
def goodImage : List Byte := leBytes 2048 0xFFFF000000000000FFFF000000000000FFFF000000000000FFFF000000000000FFFF000000000000FFFF000000000000FFFF000000000000FFFF000000000000FFFF000000000000FFFF000000000000FFFF000000000000FFFF000000000000FFFF000000000000FFFF000000000000FFFF000000000000FFFF000000000000FFFF000000000000FFFF000000000000FFFF000000000000FFFF000000000000FFFF000000000000FFFF000000000000FFFF000000000000FFFF000000000000FFFF000000000000FFFF000000000000FFFF000000000000FFFF000000000000FFFF000000000000FFFF000000000000FFFF000000000000FFFF000000000000FFFF000000000000FFFF000000000000FFFF000000000000FFFF000000000000FFFF000000000000FFFF000000000000FFFF000000000000FFFF000000000000FFFF000000000000FFFF000000000000FFFF000000000000FFFF000000000000FFFF000000000000FFFF000000000000FFFF000000000000FFFF000000000000FFFF000000000000FFFF000000000000FFFF000000000000FFFF000000000000FFFF000000000000FFFF000000000000FFFF000000000000FFFF000000000000FFFF000000000000FFFF000000000000FFFF000000000000FFFF000000000000FFFF000000000000FFFF000000000000FFFF000000000000FFFF000000000000FFFF000000000000FFFF000000000000FFFF000000000000FFFF000000000000FFFF000000000000FFFF000000000000FFFF000000000000FFFF000000000000FFFF000000000000FFFF000000000000FFFF000000000000FFFF000000000000FFFF000000000000FFFF000000000000FFFF000000000000FFFF000000000000FFFF000000000000FFFF000000000000FFFF000000000000FFFF000000000000FFFF000000000000FFFF000000000000FFFF000000000000FFFF000000000000FFFF000000000000FFFF000000000000FFFF000000000000FFFF000000000000FFFF000000000000FFFF000000000000FFFF000000000000FFFF000000000000FFFF000000000000FFFF000000000000FFFF000000000000FFFF000000000000FFFF000000000000FFFF000000000000FFFF000000000000FFFF000000000000FFFF000000000000FFFF000000000000FFFF000000000000FFFF000000000000FFFF000000000000FFFF000000000000FFFF000000000000FFFF000000000000FFFF000000000000FFFF000000000000FFFF000000000000FFFF000000000000FFFF000000000000FFFF000000000000FFFF000000000000FFFF000000000000FFFF000000000000FFFF000000000000FFFF000000000000FFFF000000000000FFFF000000000000FFFF000000000000FFFF000000000000FFFF00000000000000000000000000000000000000000000000000000000000000000000000000000000000000000000000000000000000000000000000000730000089300000000000000000000000000000000000000000000000000000000000000000000000000000000000000000000000000000000000000000000000000000000000000000000000000000000000000000000000000000000000000000000000000000000000000020001000C01010000000000000000000000000000000000010000000000000000000000000000000000000000000000000000000000000000000000000000000000000000000000000000000000000000000D4344001060010000000000000000000000000000000015829E7C1856CE6D887584256C9DBC8F0C2BD1D87B0986F5B647CFBDDCEAD2D600000000000000000000000100010C0000000000000008000000000000000F04000000000000078000000080000000100000000000000680000001000000000F00000000000006800000000000000F0E00000000000006800000000000000F0C0000000000000280000004000000000A0000000000000280000000000000000800000000000002800000000000000006000000000000024000000008000000050000000000000240000000000000000300000000000001C00000005000000F0200000000000001400000004800000F01000000000000000000000000000000000000000000000000000000000000000000000000000000000000000000000000000000000000000000000006000000000000000000000001000000000000000034C4ADB3B8C549EB7987E078C4ED5591915E866947359D6465161DB613B61E5A0000000000000800000C000131584649

/-- ImagesLoaded, the landed image: one that every check passes. -/
theorem witness_image_accepted :
    let l : Landing := { slot := 15, ring := 0, tag := 9, sqHead := 1, image := goodImage }
    let s : State := { loaded with landings := [l] }
    s.landings.find? (fun l => l.slot = 15) = some l ∧ mapWf (0 : Byte) s.hostMem = true ∧
      (match ({ s with landings := s.landings.filter fun k => k.slot != 15 } : State).verifyImage l with | .ok a => a.dies | .error _ => []) = [0] := by
  decide +kernel

theorem test_primes : ((List.range 30).filter isPrime32) = [2, 3, 5, 7, 11, 13, 17, 19, 23, 29] ∧ isPrime32 65521 = true ∧ isPrime32 (251 * 251) = false := by
  decide +kernel

/-! ### The security processor, ingest and releases

The key pair of these tests is the prime 2^3072 − 47 with its RSA exponents, and the salts are zero. -/

def modulus : List Byte := beBytes 384 (2 ^ 3072 - 47)
def signature (x : Nat) : List Byte := beBytes 384 x

/-- An installation configuration without fields, signed under its own key (R381). -/
def configImage : List Byte :=
  fit 0x280 (leBytes 4 0x57464C54 ++ leBytes 12 4 ++ sha256 [] ++ modulus) ++ signature 0x5AC33820348B5998822707D753CE61820DD36EFE5839219F7A40A307238122D3477E70758264D719FE9182A47573502051AB80388FD88CBB4EF9F2CB10F12D3322F8A4FDD2DF39322DB60E45B5C5C515E3BB60CA9FAC29C5F18F678F0C52783D6236B4A7ED9713FFE34B8FB9F23393D668EE74E6F0B59C988443B74BB2DDEBFA740CD699BEA3F8A6546649C355E3FA47344F0C7639AA3D05959E887468B21904BC91543B50B47C39A66C3BFC55D807062A9292D830D9FDAD2E5D4D635DBA1ADAFE86391BFB1CDB013C96E01A6E3093C4D4BE638DD04EB9FD793EA0F7E29246DB98CC5DAC1FC2C0DEB407EF6D943CE7AF3FE57E244CB3365F8EE3AA9A5D424F37C0609DCF3FD82A6A0FB5B17E1CA13472D05CB56F04BF29DDBCF60747CBFED8094EE3C3C9ED60654B084E4F2C1887C4825FFC52F134F60D3B3298CCFBA32013D33414629FBB1E936855D173338B9ACC938AF797791507EF183BD5FB0DF18432ECB467589077F5C2C55957124AA1551265DE2CB985B42A00E0C6D6368A94F6A8B2 ++ []

/-- A certificate of contributor 42 for key set 5 and period 100, with the key itself as the registry's (R388). -/
def certificate : List Byte :=
  leBytes 4 0x31544346 ++ leBytes 4 1 ++ leBytes 4 42 ++ leBytes 4 100 ++ leBytes 4 100 ++ leBytes 4 0 ++ leBytes 8 5 ++ zeros 32 ++ modulus ++
    signature 0xBBF75F68C97E7C3567E2906558B13A6975B1BA6F724B1B5533E56A47D7B9F18C4CCCE0E1010A4A1F2497A30AF81E4526C61640D836E15C20CF9A320E7317AF6640C66A743E55C7519A0133D9811F658EDDB64237855165DC91AEE1DED96523A2F18B9B6C9CACD8BBE83B57623CEF75DE2DDA7C07A481685EA35AD160D17F79DB78D464711AAE887B9F30B8275DE8B1C5D1530EB9DA59B1992170E92B9B869525D2BAF3FC6926E2ACA2D70983B09F8C92276F336BB8CA527830D43063F51FC48AED80EF5CBEE7AC2DA4FA60D8742B47B13013F06B7E107075937A1A4BEB733B15DBA4797F6D7FEE193063703365D4DE061335DD23785F137B78F4296C04E4D604BF93DBA41D6BAC11A90993665E47C0D6E019CBAF22607A91E61F55A10B830A273E69B978174B83AE2E36AE8FF003CF4285A40CD0B60D51343C37E424B3D6126829A3D0E7BACF41C785836363C4E91035C33459F020851786A9F6E0046DF46A366443505D23DF3237037C5A231981CA36D9B2B7533EF2A51BBC45E405F15EA36C

/-- The descriptor of the filing. -/
def filed : Desc := { type := 1, scheme := 1, logn := 2, form := 1, level := 1, polys := 2, scale := 0x3FF0000000000000, keyset := 5, logslots := 1 }

/-- The header of the filing, whose polynomials are 1, 2, 3, 16 and 4, 5, 6, 0, and its signature. -/
def filingHeader : List Byte :=
  leBytes 4 0x314C4946 ++ leBytes 4 1 ++ leBytes 4 42 ++ leBytes 4 100 ++ chunkTree (bytesOf [1, 2, 3, 16] ++ bytesOf [4, 5, 6, 0]) ++ zeros 16 ++ filed.toBytes
def filingSig : List Byte := signature 0x9B94291931FEBCA8C241014D2FA0F99EA74537864C0207D7CB847759ADABF72DB5F47BC1FD1AEDFEB9FDB46E753706A99E34011A41CF4D1BD0233609C8D367BCBD7225A45F933FCCAA6FFF6FB6640FFCFC6B7642362E973872353CF2DB63EEAAC7D6FCAA14FD87E60CE23A6174087C170A121800D70A21C3446D19174A0DE230CF3FD1FA8475DCF4E7F6D61E4E4D35E935A45B288F70C0D6951943AD6F827AE24E505CC0B9B78F0AEC4328CC801DBEAD678763D51E8EEB286E2BA43991EA89A77613DF8E3B269FD2CDB06336E638764C95523CFFA056ED6C17EB964FE02F0363D09D117930001152EA3514B112B4ABEA0C9CF9D0C67F52B806E47862378F3CDCFCFE29D75254B03ACB8FEC753D5A03A7F7AC848262767592C28596D3AA0DC6EF335065DA94A7B8B1CE5A43B817B6A50033DB64E7607EDA4B5141C003794FFE507EB26A8F49AF0D201764BD45B7781CBD959F8DE9AACC570D20BA1C88FCF27EE3C82F3ED0B8B3F49FEA247FD3E2C711B8472C737A7BC1E8AF60F7154220421758

/-- An allowlist of epoch 3 with SEQ 8 for one chain (R359). -/
def allowlist : List Byte :=
  fit 64 (leBytes 2 1 ++ leBytes 2 1 ++ leBytes 4 3 ++ leBytes 4 8 ++ leBytes 4 2 ++ leBytes 4 10 ++ leBytes 4 (2 + 40 * 2 ^ 8 + 2 ^ 16) ++ leBytes 8 5) ++
    (zeros 15 ++ [1]) ++ signature 0xD7FE8348CC836C9919B8FF1C9078C70015921106D690708DE0439F41898B9D292B81DEFE2965E6467A4D7B3A726E714DED55BB8B46B39BA6B2F8B3FB2603556DA321CE85A6FEDEFA96902EFC75E3977A91D5157B2CDD5308858B9DE00AE5372CC7572751BCD47D682FD5C980CE9DBA5B1653B1A412A25DD08DD6117368D3240C500C1A8A3FFE84990BFAB085867546FD0119934A951554461BD1CB99C906A28EB6C33BD0D2347E0192A7BCAD093D76B250E35C0A581596757AA1BD132621F9FE8E96F0B9EA14DA6CFFEF73E926FECFD70EDF2F2DBD0DBC1A45D60B335D4C178D07C79539857E568028AEA48721C0923B9FBF1F21D53F6697B96726F29DBC0F22018565A41842ECC0BD9BBADD2949DD5D20775F1D7AC633426C8567DB668FD619CE5BB3521141B9E73595BBFD707BC0CA5E4CBEC75CE83A9C3E1B85AABA5E352FE8739E521CF7AF34A8ECEFD076F69D9118F1E00433D6D9DE290E25E02F51419FBEEAB4F8B891E1E783984A969F9BBF036F234D1B3E71589D1FBCE5D866130094

/-- The host's part with the test key as every authority of the installation, its security processor running, and a request of
channel 0 with an operation, VER and length. -/
def inst : Config.Inst :=
  { epid := 0, split := 0, mbx := [], keyAuth := sha256 modulus, registry := sha256 modulus, service := sha256 modulus, roster := [], accepted := [] }
def reqOf (op ver len : Nat) : List Byte := fit 64 ([BitVec.ofNat 8 op, BitVec.ofNat 8 ver, 0, 0] ++ leBytes 4 77 ++ leBytes 8 0x4000 ++ leBytes 4 len)
def asking (b : List Byte) : State := { host.mbxFill 0 b with sec := { host.sec with svnDz := 3 } }

/-- SecurityServed, what can be evaluated: a request of each operation, and one whose VER is wrong; a key set of one region that no job
uses; an image with the wrong magic, one whose signature fails and one that is accepted; an SVN that may be committed and one that may
not. What a share or a key package holds lies with the layouts that the manual leaves to the part (log 58). -/
theorem witness_security_request : ∀ op : Fin 6, 1 ≤ op.val → (asking (reqOf op 1 8)).request? op = some (reqOf op 1 8) ∧
    requestOk (reqOf op 1 8) = true ∧ requestOk (reqOf op 0 8) = false := by decide +kernel
theorem witness_security_keysets :
    let s : State := { buf (asking (reqOf 3 1 8)) 5 2 (2 ^ Attr.KEY) 1024 0 with keyBodies := [(5, (9, zeros 32))] }
    s.power.on = true ∧ s.memWf = true ∧ s.request? 3 = some (reqOf 3 1 8) ∧ mapRises 0 s.keyBodies = true ∧ leAt (packageOf (reqOf 3 1 8) (leBytes 8 9)) 0 8 = 9 ∧
      s.keyInUse 5 = false := by decide +kernel
theorem witness_security_svn :
    let s := put (asking (reqOf 5 1 8)) [(R.SEC_SVN_RUNNING, 3)]
    s.rd R.SEC_STATE_STAGE = 4 ∧ leAt (packageOf (reqOf 5 1 8) (leBytes 8 3)) 0 4 = 3 ∧ s.rd R.SEC_SVN_RUNNING = 3 ∧ s.sec.svnDz = 3 ∧
      (put s [(R.SEC_STATE_STAGE, 3)]).request? 5 = some (reqOf 5 1 8) := by decide +kernel
theorem witness_security_image :
    let s := asking (reqOf 4 1 0x400)
    let img := packageOf (reqOf 4 1 0x400) (fit 0x400 configImage)
    let bad := packageOf (reqOf 4 1 0x400) (fit 0x400 (configImage.take 0x280))
    fwKind img = 4 ∧ fwForm img 4 = true ∧ s.rd R.SEC_SVN_FLOOR ≤ fwSvn img ∧ s.configValid img = true ∧ fwForm bad 4 = true ∧ s.configValid bad = false ∧
      fwForm (zeros 0x400) 4 = false ∧ s.sec.flash.sp.length = 2 := by decide +kernel

/-- FilingsIngested: an argument block of the wrong version, and one of a filing that every check passes: its staging handles are 0x21
and 0x22, its slot is slot 0 of handle 1. -/
def filing : List Byte :=
  filingHeader ++ filingSig ++ leBytes 4 1 ++ leBytes 2 0x21 ++ leBytes 2 0x22 ++ zeros 8 ++ zeros 48 ++ certificate
def ingestArgs (ver : Nat) : List Byte := leBytes 2 ver ++ leBytes 2 1 ++ leBytes 4 100 ++ leBytes 8 5 ++ zeros 48 ++ filing
def filer : State :=
  let s := buf (buf (buf { host with chains := [(0, chain17)], sec := { host.sec with inst := some inst } } 1 2 (2 ^ Attr.DESC) 2048 0) 0x21 2 (2 ^ Attr.HOST) 256 64)
    0x22 2 (2 ^ Attr.HOST) 256 128
  (s.poke 0x21 0 (bytesOf [1, 2, 3, 16])).poke 0x22 0 (bytesOf [4, 5, 6, 0])
def ingestEntry : List Byte := entryOf 3 0 9 [0, 0x4000, 1472, 0, 0, 0]

theorem witness_ingest :
    let s1 := (filer.readEntry 0 ingestEntry).1
    let e := (filer.readEntry 0 ingestEntry).2
    let a : IngestArgs := { nfil := 1, period := 100, keyset := 5 }
    filer.hostUp = true ∧ filer.mayRead 0 1 = true ∧ filer.memWf = true ∧ s1.ingestEntryOk e = true ∧ filer.on R.SAGE_CFG_ENABLE = true ∧ e.kind = 3 ∧
      parseIngest (ingestArgs 2) (e.q 0x18) = none ∧ parseIngest (ingestArgs 1) (e.q 0x18) = some a ∧ mapRises 0 filer.sage.records = true ∧
      ((List.range 64).map fun k => filer.spot 1 k).Nodup ∧ (s1.assign [{}]).isSome = true := by decide +kernel
theorem test_ingest_of_two_filings : (parseIngest (putAt (ingestArgs 1) 2 (leBytes 2 2) ++ zeros 1408) 2880).map (·.nfil) = some 2 := by decide +kernel
theorem witness_filing_passes : ((filer.readEntry 0 ingestEntry).1.filCheck {} modulus { nfil := 1, period := 100, keyset := 5 } filing).2.2.code = 0 := by
  decide +kernel
theorem witness_filing_fails :
    (filer.filCheck {} modulus { nfil := 1, period := 101, keyset := 5 } (filingAt (ingestArgs 1) 0)).2.2.code = Ev.CERT_BAD := by decide +kernel

/-- An allowlist in force at epoch 3, a share, a group of two members' records, and what holds it: handles 0x21 and 0x22 of a ciphertext
in slot 0 of handle 1, and a probe region 0x23. -/
def gate (cls floor : Nat) : State :=
  let s0 := buf (buf (buf (buf { host with chains := [(0, chain17)] } 1 2 (2 ^ Attr.DESC) 2048 0) 0x21 2 1 256 64) 0x22 2 1 256 128) 0x23 2 (2 ^ Attr.PROBE) 1024 192
  let x : Desc := { filed with h0 := 0x21, h1 := 0x22, lineage := 6, gm1 := 1 }
  let y : Desc := { type := 4, scheme := 1, logn := 2, level := 1, polys := 1, scale := 0x3FF0000000000000, keyset := 5, count := 1, dim := 4, h0 := 0x23, lineage := 6, gm1 := 1 }
  let s1 := ((s0.poke 1 0 x.toBytes).poke 0x23 0 y.toBytes).bindDesc x
  let r : LinRec := { cls := cls, floor := floor, chain := zeros 15 ++ [1] }
  let sh : Share := { epoch := 3, keyset := 5, chain := 0, logn := 2, limbs := 1, policy := modulus, seed := zeros 32, body := zeros 16 }
  let al : Allow := { parseAllow allowlist with smudge := 0, head := 1, peerhash := sha256 (zeros 64) }
  { s1.bindDesc y with sec := { s1.sec with epoch := 3, allowSeq := 7 }, sage := { s1.sage with records := [(6, r), (7, r)], share := some sh, allow := some al } }
def relReq (kind members epoch target : Nat) : List Byte :=
  leBytes 4 (kind + 2 ^ 8) ++ leBytes 4 target ++ leBytes 4 members ++ leBytes 4 epoch ++ zeros 48
def relEntry (len : Nat) : List Byte := entryOf 4 0 9 [0, 0x4000, len, 0x5000, 0x10000, 0]

/-- ReleasesServed and ReleaseGateHolds: requests that a check refuses with its cause and member, requests that pass, a request of a form that the rules do
not allow, and one of another kind. -/
theorem witness_releases :
    let s := gate Cls.AGGREGATE 3
    let s1 := (s.readEntry 0 (relEntry 64)).1
    let e := (s.readEntry 0 (relEntry 64)).2
    let g := s1.relSlot 1
    let c (m ep : Nat) : RelCtx := { e := e, q := parseRel (relReq 1 m ep 1), x := g.2 }
    s.hostUp = true ∧ s.mayRead 0 1 = true ∧ s.memWf = true ∧ s1.releaseEntryOk e = true ∧ e.q 0x18 = 64 ∧ (relReq 1 3 3 1).length = 64 ∧
      relShape (relReq 1 3 3 1) = true ∧ refNamesSlot 1 = true ∧ relShape ([1] ++ zeros 63) = false ∧ leAt (relReq 2 3 3 1) 0 1 = 2 ∧
      (c 3 3).membersOk = true ∧ (c 4 3).membersOk = false ∧ (c 3 3).need ≤ e.q 0x28 ∧ g.1.relCause (c 3 4) = some (Cause.EPOCH, 0) ∧
      (g.2.map fun x => (x.lineage, x.M)) = some (6, 2) := by decide +kernel
theorem witness_release_checks :
    let e := (host.readEntry 0 (relEntry 64)).2
    let cause (s : State) (m : Nat) : Option (Nat × Nat) := (s.relSlot 1).1.relCause { e := e, q := parseRel (relReq 1 m 3 1), x := (s.relSlot 1).2 }
    cause (gate Cls.AGGREGATE 3) 3 = none ∧ cause (gate Cls.AGGREGATE 2) 2 = some (Cause.FLOOR, 1) ∧ cause (gate Cls.RECORD 3) 3 = some (Cause.CLASS, 0) ∧
      cause (put (gate Cls.AGGREGATE 3) [(R.SAGE_STATE_FROZEN, 1)]) 1 = some (Cause.FROZEN, 0) := by decide +kernel
theorem witness_release_probe :
    let s := gate Cls.MASKED 0
    let req := relReq 2 1 3 0x23 ++ zeros 64
    let s1 := (s.readEntry 0 (relEntry 128)).1
    let e := (s.readEntry 0 (relEntry 128)).2
    let c : RelCtx := { e := e, q := parseRel req, x := (s1.relRegion 0x23).2 }
    s.mayRead 0 1 = true ∧ leAt req 0 1 = 2 ∧ s1.releaseEntryOk e = true ∧ e.q 0x18 = 128 ∧ req.length = 128 ∧ relShape req = true ∧ bits 0x23 16 16 = 0 ∧
      c.membersOk = true ∧ c.need ≤ e.q 0x28 ∧ (s1.relRegion 0x23).1.relCause c = none ∧
      (put s1 [(R.SAGE_BIND_POISON 0 0x23, 1)]).relCause c = some (Cause.POISON, 0) := by decide +kernel

/-- ReleasesServed: forms that the row does not allow, a draw that fails, and a peer's key that is no point of the curve. -/
theorem witness_release_forms :
    let s := gate Cls.AGGREGATE 3
    (after (.releaseDecrypt 0 (relEntry 128) (relReq 1 3 3 1) false []) s).rd R.EVT_LAST_CODE = Ev.RANGE ∧
      (after (.releaseProbe 0 (relEntry 64) (relReq 2 1 3 0x23 ++ zeros 64) false []) s).rd R.EVT_LAST_CODE = Ev.RANGE ∧
      ((put s [(R.SEC_STATE_TRNG_FAIL, 1)]).draw 32).isNone = true ∧ (ecdh 1 (zeros 64)).1 ≠ Bn.OK := by decide +kernel

/-- ReleaseGateHolds: what a request that no check refuses (`witness_release_checks`) commits: SPENT moves. The rest of that step lies with
a free signature (log 60). -/
theorem test_release_counts :
    let s := gate Cls.AGGREGATE 3
    let t := s.relCommit { e := (host.readEntry 0 (relEntry 64)).2, q := parseRel (relReq 1 2 3 1), x := none } { filed with lineage := 6, gm1 := 1 }
    t.rd R.SAGE_BUDGET_SPENT = 1 ∧ (t.recAt 6).relcount = 0 ∧ (t.recAt 7).relcount = 1 := by decide +kernel

/-- AllowlistsJudged: an allowlist that its share's authority signed, the same with SEQ not above the last, and a frozen Sage. -/
theorem witness_allowlists :
    let s (n : Nat) : State := { gate 0 0 with sec := { (gate 0 0).sec with allowSeq := n } }
    let req := relReq 3 0 0 0 ++ allowlist
    let entry := entryOf 4 0 9 [0, 0x4000, 528, 0, 0, 0]
    let e := (host.readEntry 0 entry).2
    leAt req 0 1 = 3 ∧ ((s 7).readEntry 0 entry).1.releaseEntryOk e = true ∧ e.q 0x18 = 528 ∧ req.length = 528 ∧ relShape req = true ∧ e.q 0x20 = 0 ∧ e.q 0x28 = 0 ∧
      (after (.releaseAllowlist 0 (entryOf 4 0 9 [0, 0x4000, 527, 0, 0, 0]) req false) (s 7)).rd R.EVT_LAST_CODE = Ev.RANGE ∧ (s 7).hostUp = true ∧ (s 7).mayRead 0 1 = true ∧
      (s 7).memWf = true ∧ (s 7).on R.SAGE_CFG_ENABLE = true ∧ (s 7).on R.SAGE_STATE_FROZEN = false ∧ ((s 7).allowOk (req.drop 64)).1 = true ∧ ((s 8).allowOk (req.drop 64)).1 = false := by decide +kernel

/-- ProbeReplies: a ticket whose reply lies in staging handles as a filing's, that ticket used, and a number that no ticket has. -/
def ticket4 (used : Bool) : Ticket :=
  { num := 4, epoch := 0, sources := [{ cls := Cls.RECORD, floor := 1, link := 42 }], keyset := 5, chain := 0, used := used }
def replied (used : Bool) : State :=
  { filer with sage := { filer.sage with nextTicket := 5, share := (gate 0 0).sage.share, tickets := [ticket4 used] } }
theorem witness_probe_replies :
    let s := replied false
    s.hostUp = true ∧ s.on R.SAGE_CFG_ENABLE = true ∧ s.sage.tickets.find? (fun t => t.num = 9) = none ∧ s.sage.tickets.find? (fun t => t.num = 4) = some (ticket4 false) ∧
      s.replyOk (ticket4 false) 1 0x21 0x22 filed.toBytes = true ∧ (replied true).replyOk (ticket4 true) 1 0x21 0x22 filed.toBytes = false ∧
      ((List.range 16).all fun i => s.errAt (s.place 0x21 i) = 0 && s.errAt (s.place 0x22 i) = 0) = true ∧
      (groupResiduesOk filed (s.chainOf 0).primes (s.peek 0x21 0 16) && groupResiduesOk filed (s.chainOf 0).primes (s.peek 0x22 0 16)) = true ∧
      (let bad := s.poke 0x21 0 (bytesOf [17])
       bad.replyOk (ticket4 false) 1 0x21 0x22 filed.toBytes = true ∧ groupResiduesOk filed (bad.chainOf 0).primes (bad.peek 0x21 0 16) = false) ∧
      mapRises 0 s.sage.records = true ∧ (s.assign [{}]).isSome = true := by decide +kernel
theorem test_probe_reply_admitted :
    let t := after (.probeReply 4 1 0x21 0x22 filed.toBytes []) (replied false)
    t.rd (R.SAGE_BIND_LINEAGE 0 0x21) = 1 ∧ (t.recAt 1).link = 42 ∧ t.sage.tickets.map (·.used) = [true] := by decide +kernel

/-! ### The responder, the test access port, and the canonical forms -/

/-- SpdmAnswered, what can be evaluated: a responder before and after its negotiation, with no session, one that is complete and one that is
not, and four. What depends on draws, secrets and signatures lies with the free values of log 2, 60 and 61. -/
def spdmAt (n : Nat) : State :=
  { host with sec := { host.sec with caps := true, algs := true, sessions := (List.range n).map fun i => { id := i, done := i = 0, secret := zeros 32 } } }
theorem witness_spdm : host.spdmUp = true ∧ host.sec.caps = false ∧ host.sec.algs = false ∧ (spdmAt 0).spdmUp = true ∧ (spdmAt 0).sec.algs = true ∧
    (spdmAt 0).sec.caps = true ∧ (spdmAt 0).session? 0 = none ∧ ((spdmAt 2).session? 0).map (·.done) = some true ∧ ((spdmAt 2).session? 1).map (·.done) = some false ∧
    4 ≤ (spdmAt 4).sec.sessions.length ∧ (spdmAt 3).sec.sessions.length < 4 ∧ host.on R.SEC_STATE_TRNG_FAIL = false := by decide +kernel
theorem test_heartbeat : (after (.spdmHeartbeat 0) (spdmAt 2)).answer = .spdm .heartbeat ∧ (after (.spdmHeartbeat 1) (spdmAt 2)).answer = .spdm (.error 2) := by
  decide +kernel

/-- TapServed: a port that is open, with and without a nonce, a response that the service key signed and one of a zero signature, at the last try and
before it, and a locked port. -/
def serviceSig : List Byte := signature 0x79CBE3D0A118E0B9145300F3D428F6590EBD4FE796C372326860CDBAE2B145C4C1519E53B3F891EF390490EC94907FA9BDE6B5920E57CBBE6C5B9DA0E22C0CD329297893E769AF19A19DE30D46920F29089C21818B6841DA56251B4F7E4056DCE7AC28CA6679368D815CB1467B99DBDA9B514FB6534BE0601F361BA575ABECB54F0DAC492DD4E042ADDF7DEC2F2ED84730DBEC9563E2C389725648E7158D4C855C32F19E0FF9DB3B1ECE6A9FD999CF6A3542921CE4A925D8AF214BB75F690D79BB594B4E9D3510F07085E2BFD293337AAF83AD61C0BBF3E229A632B482905B5D7D1B1D8D90549B95A0C37CD2D92D7C6F8382FED3EC8ECFC0B105084BB0AF5F851DC861DFAAC192A5A295A8F7E47E6481341B8166F882346C88609CFEC8E4482795860B4931EE16A1FFBA3094EEA712963116CAABB79548D08927C0111EE1035D68039BC771F06EECF14E0877F6F82900E63F6A5317FC50F7888393DA1460566036EDFA910EFBA87CAC5F6D702E6BD4FE9713FECC7EAA690528F259728B6F2DD2
def service (lock tries : Nat) (nonce : Option (List Byte)) : State :=
  { put host [(R.SEC_STATE_SVC_LOCK, lock)] with sec := { host.sec with inst := some inst, nonce := nonce, tries := tries } }
theorem witness_service :
    let s := service 0 2 (some (zeros 32))
    s.power.on = true ∧ s.secRuns = true ∧ s.on R.SEC_STATE_SVC_LOCK = false ∧ s.on R.SEC_STATE_TRNG_FAIL = false ∧ (service 1 0 none).on R.SEC_STATE_SVC_LOCK = true ∧
      rsaVerify modulus serviceSig (s.svcMessage (zeros 32)) = Bn.OK ∧ rsaVerify modulus (zeros 384) (s.svcMessage (zeros 32)) = Bn.ZERO ∧
      (sha256 modulus == s.inst.service) = true ∧ s.rd R.SEC_CAPS_SVC_TRIES = 3 ∧ (service 0 0 none).sec.nonce = none := by decide +kernel
theorem test_third_try_locks :
    (after (.svcResponse modulus (zeros 384)) (service 0 2 (some (zeros 32)))).on R.SEC_STATE_SVC_LOCK = true ∧
      (after (.svcResponse modulus (zeros 384)) (service 0 1 (some (zeros 32)))).on R.SEC_STATE_SVC_LOCK = false := by decide +kernel
theorem test_bypass : (after (.tapBypass [0x81, 0x01]) host).answer = .data [0x02, 0x03] := by decide +kernel

/-- StepRunsFront, MemoriesStayCanonical and RegistersStayCanonical: states that meet their hypotheses. -/
theorem witness_steps : host.pending = [] ∧ host.memWf = true ∧ host.regsWf = true ∧ filer.memWf = true ∧ filer.regsWf = true ∧
    (nextOr host (step { host with pending := [.tapIdcode, .tapIdcode] })).pending = [.tapIdcode] ∧
    (nextOr host (step host)).memWf = true := by
  decide +kernel

end Sys2Proof.Tests
end

section
/-! SUPPORT. The mailbox channels as one value, and the shared operations that leave that value as it is: events, reads with
their error handling, and stores. -/

namespace Sys2Proof.Machine

/-- The register file's keys of the mailbox block (R323). -/
def mbxKey (k : Nat) : Bool := decide (0x20000 * 64 ≤ k) && decide (k < 0x30000 * 64)

/-- What the mailbox channels hold: the staging buffers, the messages, and the registers of the mailbox block. -/
structure MbxView where
  stage : NMap Byte
  slot : NMap Byte
  regs : Nat → Option Nat

/-- The mailbox channels of a state. -/
def State.mbxView (s : State) : MbxView :=
  ⟨s.mbxStage, s.mbxSlot, fun k => if mbxKey k then mapFind s.regs k else none⟩

/-- Equal views hold equal messages and read equal fields of the mailbox block. -/
theorem State.rd_of_mbxView {s t : State} (h : t.mbxView = s.mbxView) {f : Fld} (hk : mbxKey f.key = true)
    (hf : f.fused = false) : t.rd f = s.rd f := by
  have hr : mapFind t.regs f.key = mapFind s.regs f.key := by
    simpa [State.mbxView, hk] using congrFun (congrArg MbxView.regs h) f.key
  simp only [State.rd, State.raw, hr, hf, Bool.false_eq_true, if_false]

theorem State.mbxStage_of_mbxView {s t : State} (h : t.mbxView = s.mbxView) : t.mbxStage = s.mbxStage :=
  congrArg MbxView.stage h

theorem State.mbxSlot_of_mbxView {s t : State} (h : t.mbxView = s.mbxView) : t.mbxSlot = s.mbxSlot :=
  congrArg MbxView.slot h

/-! ### Register writes -/

theorem State.mbxView_wr_of_key (s : State) (f : Fld) (v : Nat) (h : mbxKey f.key = false) : (s.wr f v).mbxView = s.mbxView := by
  have hr : ∀ k, (if mbxKey k then mapFind (s.wr f v).regs k else none) = if mbxKey k then mapFind s.regs k else none := by
    intro k
    by_cases hk : f.key = k
    · subst hk
      simp only [h, Bool.false_eq_true, if_false]
    · simp only [State.wr, mapFind_mapPut_ne _ _ hk]
  simp only [State.mbxView, State.wr_mbxStage, State.wr_mbxSlot, hr]

/-- A field at an address above the mailbox block. -/
def Fld.aboveMbx (f : Fld) : Bool := decide (0x30000 ≤ f.addr)

/-- A register of an array whose first address lies above the mailbox block. -/
theorem Fld.aboveMbx_of_base {base : Nat} (k lo w rst : Nat) (fused : Bool) (h : 0x30000 ≤ base) :
    Fld.aboveMbx ⟨base + k, lo, w, rst, fused⟩ = true :=
  decide_eq_true (Nat.le_trans h (Nat.le_add_right base k))

theorem le_cdBase (d : Nat) : 0x30000 ≤ cdBase d := by
  unfold cdBase
  omega

/-- The registers of the compute dies stand above the mailbox block. -/
@[simp] theorem Fld.aboveMbx_cdBase (d k lo w rst : Nat) (fused : Bool) : Fld.aboveMbx ⟨cdBase d + k, lo, w, rst, fused⟩ = true :=
  Fld.aboveMbx_of_base k lo w rst fused (le_cdBase d)

@[simp] theorem Fld.aboveMbx_cdBase_elem (d j k lo w rst : Nat) (fused : Bool) :
    Fld.aboveMbx ⟨cdBase d + j + k, lo, w, rst, fused⟩ = true :=
  Fld.aboveMbx_of_base k lo w rst fused (Nat.le_trans (le_cdBase d) (Nat.le_add_right _ j))

@[simp] theorem State.mbxView_wr (s : State) (f : Fld) (v : Nat) (h : f.aboveMbx = true) : (s.wr f v).mbxView = s.mbxView := by
  refine State.mbxView_wr_of_key s f v ?_
  have ha : 0x30000 ≤ f.addr := of_decide_eq_true h
  have hk : decide (f.key < 0x30000 * 64) = false := decide_eq_false (by unfold Fld.key; omega)
  rw [mbxKey, hk, Bool.and_false]

@[simp] theorem State.mbxView_inc (s : State) (f : Fld) (n : Nat) (h : f.aboveMbx = true) : (s.inc f n).mbxView = s.mbxView :=
  State.mbxView_wr s f _ h

@[simp] theorem State.mbxView_sat (s : State) (f : Fld) (n : Nat) (h : f.aboveMbx = true) : (s.sat f n).mbxView = s.mbxView :=
  State.mbxView_wr s f _ h

/-! ### Changes of other parts of the state -/

@[simp] theorem State.mbxView_updDie (s : State) (d : Nat) (f : Die → Die) : (s.updDie d f).mbxView = s.mbxView := rfl
@[simp] theorem State.mbxView_updGroup (s : State) (d g : Nat) (f : Group → Group) : (s.updGroup d g f).mbxView = s.mbxView := rfl
@[simp] theorem State.mbxView_updSunit (s : State) (d u : Nat) (f : SUnit → SUnit) : (s.updSunit d u f).mbxView = s.mbxView := rfl
@[simp] theorem State.mbxView_updJob (s : State) (i : Nat) (f : Job → Job) : (s.updJob i f).mbxView = s.mbxView := rfl
@[simp] theorem State.mbxView_toHost (s : State) (a : Nat) (bs : List Byte) : (s.toHost a bs).mbxView = s.mbxView := rfl
@[simp] theorem State.mbxView_updSage (s : State) (f : Sage → Sage) : (s.updSage f).mbxView = s.mbxView := rfl
@[simp] theorem State.mbxView_updFab (s : State) (f : Fab → Fab) : (s.updFab f).mbxView = s.mbxView := rfl

/-- What every step of a fold leaves as it is, the fold leaves as it is. -/
theorem view_foldl {σ α ν : Type} (view : σ → ν) {f : σ → α → σ} (hf : ∀ x a, view (f x a) = view x) (as : List α) (x : σ) :
    view (as.foldl f x) = view x := by
  induction as generalizing x with
  | nil => rfl
  | cons a as ih => exact (ih (f x a)).trans (hf x a)

theorem State.mbxView_foldl {α : Type} {f : State → α → State} (hf : ∀ s a, (f s a).mbxView = s.mbxView) (as : List α) (s : State) :
    (as.foldl f s).mbxView = s.mbxView :=
  view_foldl State.mbxView hf as s

theorem State.mbxView_ite {c : Prop} [Decidable c] {x y s : State} (hx : x.mbxView = s.mbxView) (hy : y.mbxView = s.mbxView) :
    (if c then x else y).mbxView = s.mbxView := by
  split
  · exact hx
  · exact hy

/-! ### Messages and events -/

@[simp] theorem State.mbxView_sendMsix (s : State) (v : Nat) : (s.sendMsix v).mbxView = s.mbxView := by
  unfold State.sendMsix
  split
  · exact State.mbxView_wr _ _ _ (Fld.aboveMbx_of_base _ _ _ _ _ (by decide))
  · rfl

@[simp] theorem State.mbxView_toEventRing (s : State) (cls : Nat) (rec : List Byte) : (s.toEventRing cls rec).mbxView = s.mbxView := by
  unfold State.toEventRing
  split
  · dsimp only
    split
    · rw [State.mbxView_wr_of_key _ _ _ (by decide), State.sat, State.mbxView_wr_of_key _ _ _ (by decide)]
    · rw [State.mbxView_sendMsix, State.mbxView_wr_of_key _ _ _ (by decide), State.mbxView_toHost]
  · rfl

theorem alertFld_aboveMbx (k : Nat) : (alertFld k).aboveMbx = true := by
  unfold alertFld
  split <;> decide

@[simp] theorem State.mbxView_evAllowed (s : State) (src : Nat) : (s.evAllowed src).2.mbxView = s.mbxView := by
  rw [State.evAllowed_frame]
  rfl

@[simp] theorem State.mbxView_raise (s : State) (e : Event) : (s.raise e).mbxView = s.mbxView := by
  unfold State.raise
  extract_lets cls s1 s2
  have h1 : s1.mbxView = s.mbxView := by
    have hc : (R.EVT_COUNT_COUNT cls).aboveMbx = true := Fld.aboveMbx_of_base _ _ _ _ _ (by decide)
    simp only [s1, State.mbxView_wr _ R.EVT_LAST_CODE _ (by decide), State.mbxView_wr _ R.EVT_LAST_SRC _ (by decide),
      State.mbxView_wr _ R.EVT_LAST_UNIT _ (by decide), State.mbxView_wr _ R.EVT_LAST_SITE _ (by decide), State.mbxView_sat _ _ _ hc]
  have h2 : s2.mbxView = s.mbxView := by
    simp only [s2]
    split
    · rw [State.mbxView_wr _ _ _ (alertFld_aboveMbx _), h1]
    · exact h1
  clear_value s2
  have h3 := State.mbxView_evAllowed s2 e.src
  generalize s2.evAllowed e.src = p at h3 ⊢
  obtain ⟨ok, s3⟩ := p
  dsimp only at h3 ⊢
  split
  · rw [State.mbxView_toEventRing]
    split
    · rw [h3, h2]
    · rw [State.mbxView_updJob, h3, h2]
  · rw [State.mbxView_sat _ _ _ (by decide), h3, h2]

@[simp] theorem State.mbxView_raiseRange (s : State) (src unit : Nat) : (s.raiseRange src unit).mbxView = s.mbxView :=
  State.mbxView_raise s _

/-! ### Reads with their error handling, and stores -/

@[simp] theorem State.mbxView_setErr (s : State) (p : Place) (e : Nat) : (s.setErr p e).mbxView = s.mbxView := rfl

@[simp] theorem State.mbxView_lastErr (s : State) (p : Place) (ue : Bool) (mid : Nat) : (s.lastErr p ue mid).mbxView = s.mbxView := by
  unfold State.lastErr
  dsimp only
  split
  · simp [R.SPAD_LAST_ERR_BANK, R.SPAD_LAST_ERR_CLASS, R.SPAD_LAST_ERR_UE, R.SPAD_LAST_ERR_ROW, R.SPAD_LAST_ERR_MID]
  · simp [R.MEM_LAST_ERR_CHANNEL, R.MEM_LAST_ERR_STACK, R.MEM_LAST_ERR_UE, R.MEM_LAST_ERR_SLOT, R.MEM_LAST_ERR_MID]

@[simp] theorem State.mbxView_eccEvent (s : State) (p : Place) (code : Nat) (w : Who) : (s.eccEvent p code w).mbxView = s.mbxView := by
  unfold State.eccEvent
  dsimp only
  split <;> simp [R.SPAD_STATUS_LAST_CODE]

@[simp] theorem State.mbxView_eccCe (s : State) (p : Place) (w : Who) : (s.eccCe p w).mbxView = s.mbxView := by
  unfold State.eccCe
  extract_lets +onlyGivenNames durable fixed
  have h0 : fixed.mbxView = s.mbxView := by
    simp only [fixed]
    split <;> rfl
  clear_value fixed
  extract_lets +onlyGivenNames s1 s2 key now due
  have h2 : s2.mbxView = s.mbxView := by
    simp only [s2, s1]
    split <;> simp [R.SPAD_CE_COUNT_COUNT, R.MEM_CE_COUNT_COUNT, h0]
  clear_value s2 due
  exact State.mbxView_ite (by rw [State.mbxView_eccEvent, State.mbxView_updDie, h2]) h2

@[simp] theorem State.mbxView_noteSector (s : State) (p : Place) : (s.noteSector p).mbxView = s.mbxView := by
  unfold State.noteSector
  dsimp only
  split
  · rfl
  · split
    · rw [State.mbxView_raise]
      rfl
    · rfl

@[simp] theorem State.mbxView_eccUe (s : State) (p : Place) (w : Who) : (s.eccUe p w).mbxView = s.mbxView := by
  unfold State.eccUe
  dsimp only
  rw [State.mbxView_noteSector, State.mbxView_eccEvent]
  split <;> simp [R.SPAD_UE_COUNT_COUNT, R.MEM_UE_COUNT_COUNT]

@[simp] theorem State.mbxView_readUnit (s : State) (handle o n : Nat) (w : Who) : (s.readUnit handle o n w).st.mbxView = s.mbxView := by
  unfold State.readUnit
  dsimp only
  split
  · rfl
  · exact State.mbxView_eccCe s _ w
  · exact State.mbxView_eccUe s _ w

@[simp] theorem State.mbxView_readF (w : Who) (handle f : Nat) (s : State) (o n : Nat) :
    (State.readF w handle f s o n).st.mbxView = s.mbxView := by
  induction f generalizing s o n with
  | zero => rfl
  | succ f ih =>
    unfold State.readF
    split
    · rfl
    · exact (ih _ _ _).trans (State.mbxView_readUnit s handle _ _ w)

@[simp] theorem State.mbxView_read (s : State) (handle o n : Nat) (w : Who) : (s.read handle o n w).st.mbxView = s.mbxView :=
  State.mbxView_readF w handle _ s o n

@[simp] theorem State.mbxView_poke (handle : Nat) (bs : List Byte) (s : State) (o : Nat) : (s.poke handle o bs).mbxView = s.mbxView := by
  induction bs generalizing s o with
  | nil => rfl
  | cons b bs ih => exact ih (s.setByteAt (s.place handle o) b) (o + 1)

@[simp] theorem State.mbxView_clearErrs (handle f : Nat) (s : State) (o n : Nat) : (State.clearErrs handle f s o n).mbxView = s.mbxView := by
  induction f generalizing s o n with
  | zero => rfl
  | succ f ih =>
    unfold State.clearErrs
    split
    · rfl
    · exact ih _ _ _

@[simp] theorem State.mbxView_write (s : State) (handle o : Nat) (bs : List Byte) : (s.write handle o bs).mbxView = s.mbxView := by
  rw [State.write, State.mbxView_poke, State.mbxView_clearErrs]

/-- R255, R293: a write by an initiator, stored or refused. -/
theorem State.mbxView_writeBy (s : State) (handle o : Nat) (bs : List Byte) (w : Who) : (s.writeBy handle o bs w).1.mbxView = s.mbxView := by
  unfold State.writeBy
  split
  · dsimp only
    unfold State.narrowError
    split
    · exact State.mbxView_eccUe s _ w
    · rfl
  · rw [State.mbxView_write]
    exact State.mbxView_foldl (fun t a => State.mbxView_ite (State.mbxView_eccCe t _ w) rfl) _ s

/-- R33: a descriptor put in its slot. -/
@[simp] theorem State.mbxView_writeSlot (s : State) (r : Nat) (b : List Byte) : (s.writeSlot r b).mbxView = s.mbxView :=
  State.mbxView_write s _ _ _

@[simp] theorem State.mbxView_zeroRange (s : State) (handle : Nat) : (s.zeroRange handle).mbxView = s.mbxView :=
  State.mbxView_foldl (fun t d => State.mbxView_updDie t d _) _ s

@[simp] theorem State.mbxView_setTorn (s : State) (handle v : Nat) : (s.setTorn handle v).mbxView = s.mbxView := by
  simp [State.setTorn, R.SPAD_HTAB0_TORN]

@[simp] theorem State.mbxView_setStale (s : State) (handle v : Nat) : (s.setStale handle v).mbxView = s.mbxView := by
  simp [State.setStale, R.SPAD_HTAB0_STALE]

@[simp] theorem State.mbxView_tear (s : State) (handle : Nat) : (s.tear handle).mbxView = s.mbxView :=
  State.mbxView_ite (State.mbxView_setTorn s handle 1) rfl

theorem State.mbxView_noteTorn (s : State) (handle : Nat) (w : Who) : (s.noteTorn handle w).mbxView = s.mbxView := by
  unfold State.noteTorn
  split
  · split
    · split
      · rfl
      · dsimp only
        split <;> simp [State.spadCode, R.SPAD_STATUS_LAST_CODE]
    · rfl
  · rfl

theorem State.mbxView_noteUe (s : State) (handle : Nat) (ue : Bool) (job : Nat) : (s.noteUe handle ue job).mbxView = s.mbxView := by
  unfold State.noteUe
  split
  · rfl
  · split
    · exact State.mbxView_setStale s handle 1
    · rfl

/-- R257, R262: a read by an engine or stream unit. -/
theorem State.mbxView_engineRead (s : State) (handle o n : Nat) (w : Who) : (s.engineRead handle o n w).st.mbxView = s.mbxView := by
  unfold State.engineRead
  dsimp only
  rw [State.mbxView_noteUe, State.mbxView_read, State.mbxView_noteTorn]

end Sys2Proof.Machine
end

section
/-! SUPPORT. The end of a job (R235, R237) leaves the mailbox channels as they are: its digests, its lineage, the closing of its
queues over the fabric, the stop of its dies, and its completion. -/

namespace Sys2Proof.Machine

/-! ### Digests -/

@[simp] theorem State.mbxView_readUnits (s : State) (handle : Nat) (us : List Nat) (w : Who) :
    (s.readUnits handle us w).1.mbxView = s.mbxView :=
  view_foldl (fun acc : State × List Nat => acc.1.mbxView)
    (fun acc u => by
      dsimp only
      rw [State.mbxView_noteUe, State.mbxView_readUnit]) us (s, [])

@[simp] theorem State.mbxView_readElems (s : State) (t : TDesc) (w : Who) : (s.readElems t w).1.mbxView = s.mbxView := by
  refine (view_foldl (fun acc : State × List Nat × Bool => acc.1.mbxView) (fun acc r => ?_) _ _).trans (State.mbxView_noteTorn s _ w)
  exact State.mbxView_readUnits acc.1 _ _ w

@[simp] theorem State.mbxView_readScales (s : State) (t : TDesc) (w : Who) : (s.readScales t w).st.mbxView = s.mbxView := by
  refine view_foldl (fun acc : Got => acc.st.mbxView) (fun acc r => ?_) _ ⟨s, [], false⟩
  exact State.mbxView_engineRead acc.st _ _ _ w

@[simp] theorem State.mbxView_hubRead (s : State) (handle o n job : Nat) : (s.hubRead handle o n job).st.mbxView = s.mbxView := by
  unfold State.hubRead
  split
  · exact State.mbxView_read s handle o n _
  · rfl

theorem State.mbxView_objData (s : State) (b : List Byte) (job : Nat) : (s.objData b job).1.mbxView = s.mbxView := by
  unfold State.objData
  split
  · dsimp only
    rw [State.mbxView_readScales, State.mbxView_readElems]
  · exact view_foldl (fun acc : State × List (List Byte) => acc.1.mbxView) (fun acc _ => State.mbxView_hubRead acc.1 _ _ _ job) _ (s, [])

/-- R459: the digest of a job's outputs reads storage alone. -/
@[simp] theorem State.mbxView_odigest (s : State) (j : Job) : (s.odigest j).1.mbxView = s.mbxView := by
  refine view_foldl (fun acc : State × List Byte => acc.1.mbxView) (fun acc p => ?_) j.outs (s, [])
  exact State.mbxView_objData acc.1 p.2 j.id

/-! ### Lineage -/

@[simp] theorem State.mbxView_countRecs (s : State) : s.countRecs.mbxView = s.mbxView := by
  unfold State.countRecs
  dsimp only
  rw [State.mbxView_wr _ _ _ (by decide), State.mbxView_wr _ _ _ (by decide)]

@[simp] theorem State.mbxView_freeRecs (s : State) (base n : Nat) : (s.freeRecs base n).mbxView = s.mbxView := by
  rw [State.freeRecs, State.mbxView_countRecs, State.mbxView_updSage]

@[simp] theorem State.mbxView_freeJobRecs (s : State) (job : Nat) : (s.freeJobRecs job).mbxView = s.mbxView := by
  rw [State.freeJobRecs, State.mbxView_countRecs, State.mbxView_updSage]

/-- R352: a handle's four binding fields written. -/
theorem State.mbxView_wrBind (s : State) (d i l g v p : Nat) :
    ((((s.wr (R.SAGE_BIND_LINEAGE d i) l).wr (R.SAGE_BIND_GROUPM1 d i) g).wr (R.SAGE_BIND_V d i) v).wr (R.SAGE_BIND_POISON d i) p).mbxView =
      s.mbxView := by
  simp [R.SAGE_BIND_LINEAGE, R.SAGE_BIND_GROUPM1, R.SAGE_BIND_V, R.SAGE_BIND_POISON]

@[simp] theorem State.mbxView_setBind (s : State) (handle l g p : Nat) : (s.setBind handle l g p).mbxView = s.mbxView := by
  unfold State.setBind
  dsimp only
  split
  · rw [State.mbxView_freeRecs, State.mbxView_wrBind]
  · rw [State.mbxView_wrBind]

@[simp] theorem State.mbxView_clearBind (s : State) (handle : Nat) : (s.clearBind handle).mbxView = s.mbxView := by
  unfold State.clearBind
  dsimp only
  split
  · rw [State.mbxView_freeRecs, State.mbxView_wrBind]
  · rfl

@[simp] theorem State.mbxView_bindDesc (s : State) (x : Desc) : (s.bindDesc x).mbxView = s.mbxView :=
  State.mbxView_foldl (fun t _ => State.mbxView_ite (State.mbxView_setBind t _ _ _ _) rfl) _ s

theorem State.mbxView_sumSite (s : State) (D : List Byte) (site job n : Nat) (ins : List Desc) (mf : Manifest) :
    (s.sumSite D site job n ins mf).2.mbxView = s.mbxView := by
  unfold State.sumSite
  extract_lets seen
  generalize seen.foldl (sumStep s.recUe) (mf, s.sage.records) = p
  obtain ⟨m1, recs⟩ := p
  dsimp only
  split
  · rfl
  · split
    · dsimp only
      split
      · rfl
      · rw [State.mbxView_raise]
        rfl
    · rfl

theorem State.mbxView_assign {s t : State} {rs : List LinRec} {i : Nat} (h : s.assign rs = some (i, t)) : t.mbxView = s.mbxView := by
  unfold State.assign at h
  dsimp only at h
  split at h
  · cases h
    rw [State.mbxView_countRecs, State.mbxView_updSage]
  · cases h

theorem State.mbxView_assignRecs (s : State) (site job : Nat) (rs : List LinRec) : (s.assignRecs site job rs).2.mbxView = s.mbxView := by
  unfold State.assignRecs
  split
  · next h => exact State.mbxView_assign h
  · exact State.mbxView_raise s _

/-- R350, R355, R357: the records of an output lie in Sage's table. -/
theorem State.mbxView_lineage (s : State) (D : List Byte) (site job n : Nat) (ins : List Desc) (constOnly sums : Bool) :
    (s.lineage D site job n ins constOnly sums).2.mbxView = s.mbxView := by
  unfold State.lineage
  split
  next rs s1 h =>
  have h1 : s1.mbxView = s.mbxView := by
    split at h
    · next mf _ =>
      have h2 := State.mbxView_sumSite s D site job n ins mf
      rwa [h] at h2
    · cases h
      rfl
  exact (State.mbxView_assignRecs s1 site job rs).trans h1

/-! ### The fabric -/

@[simp] theorem State.mbxView_putConn (s : State) (c : Conn) : (s.putConn c).mbxView = s.mbxView := rfl

theorem State.mbxView_launch {s t : State} {epid p : Nat} {body : List Byte} (h : s.launch epid body = some (p, t)) : t.mbxView = s.mbxView := by
  unfold State.launch at h
  extract_lets hdr kx theirs at h
  split at h
  · split at h
    · dsimp only at h
      cases h
      exact State.mbxView_ite rfl rfl
    · cases h
  · cases h

/-- R335, R336: a frame sent or held back changes the fabric alone. -/
@[simp] theorem State.mbxView_sendFrame (s : State) (epid : Nat) (hdr : Hdr) (payload : List Byte) :
    (s.sendFrame epid hdr payload).mbxView = s.mbxView := by
  unfold State.sendFrame
  dsimp only
  split
  · rfl
  · split
    · next hl => exact (State.mbxView_putConn _ _).trans (State.mbxView_launch hl)
    · rfl

@[simp] theorem State.mbxView_updBind (s : State) (i : Nat) (f : RxBind → RxBind) : (s.updBind i f).mbxView = s.mbxView := by
  unfold State.updBind
  split <;> rfl

@[simp] theorem State.mbxView_closeReader (s : State) (d q : Nat) : (s.closeReader d q).mbxView = s.mbxView := by
  have h1 : (s.wr (R.QCH_QSTAT_RCLOSED d q) 1).mbxView = s.mbxView := by simp [R.QCH_QSTAT_RCLOSED]
  unfold State.closeReader
  split
  · rfl
  · dsimp only
    split
    · rw [State.sendClose, State.mbxView_sendFrame, State.mbxView_updBind, h1]
    · exact h1

@[simp] theorem State.mbxView_closeQueues (s : State) (d : Nat) : (s.closeQueues d).mbxView = s.mbxView :=
  State.mbxView_foldl (fun t q => State.mbxView_ite rfl (by simp [State.closeWriter, R.QCH_QSTAT_WCLOSED])) _ s

/-! ### Stopping a die -/

@[simp] theorem State.mbxView_commitAbort (s : State) (j : Job) (r : Nat) (x : Desc) : (s.commitAbort j r x).mbxView = s.mbxView := by
  unfold State.commitAbort
  dsimp only
  split <;> simp

@[simp] theorem State.mbxView_abortCommit (s : State) (j : Job) (d g : Nat) (op : Issued) (i : Nat) :
    (s.abortCommit j d g op i).mbxView = s.mbxView := by
  unfold State.abortCommit
  dsimp only
  split
  · split
    · exact State.mbxView_commitAbort s j _ _
    · have h1 := State.mbxView_lineage s j.digest op.site j.id ((s.actsOn d g op).getD (s.slotDesc (op.dout i))).M
        [(s.actsOn d g op).getD (s.slotDesc (op.dout i))] false false
      split
      · next h =>
        rw [h] at h1
        exact (State.mbxView_commitAbort _ j _ _).trans h1
      · next h => rwa [h] at h1
  · rfl

@[simp] theorem State.mbxView_stopGroup (s : State) (j : Job) (d g : Nat) : (s.stopGroup j d g).mbxView = s.mbxView := by
  unfold State.stopGroup
  dsimp only
  rw [State.mbxView_updGroup]
  split
  · split
    · exact State.mbxView_foldl (fun t _ => State.mbxView_ite (State.mbxView_commitAbort t j _ _) rfl) _ s
    · exact State.mbxView_foldl State.mbxView_tear _ s
  · split
    · exact State.mbxView_ite (by simp) rfl
    · rfl

@[simp] theorem State.mbxView_stopUnit (s : State) (d u : Nat) : (s.stopUnit d u).mbxView = s.mbxView := by
  unfold State.stopUnit
  extract_lets x s1
  have h1 : s1.mbxView = s.mbxView := by
    simp only [s1]
    split
    · exact State.mbxView_ite (State.mbxView_tear s _) rfl
    · rfl
  simp [R.SU_BUSY_BUSY, h1]

theorem State.mbxView_landFlight (s : State) (f : Flight) : (s.landFlight f).mbxView = s.mbxView := by
  unfold State.landFlight State.landing
  dsimp only
  split
  · exact State.mbxView_writeBy _ _ _ _ _
  · rfl

@[simp] theorem State.mbxView_clearDie (s : State) (d : Nat) : (s.clearDie d).mbxView = s.mbxView := by
  have h1 : ((s.closeQueues d).stopCopies d).mbxView = s.mbxView :=
    (State.mbxView_foldl State.mbxView_tear _ _).trans (State.mbxView_closeQueues s d)
  have h2 : (((s.closeQueues d).stopCopies d).landAll d).mbxView = s.mbxView :=
    (State.mbxView_foldl State.mbxView_landFlight _ _).trans h1
  unfold State.clearDie
  simp [R.BASIL_INUSE_INUSE, h2]

/-- R237: every engine, unit, key and queue of a die of an ending job stopped. -/
theorem State.mbxView_stopDie (s : State) (j : Job) (d : Nat) :
    (((List.range 16).foldl (fun (t : State) u => t.stopUnit d u) ((List.range 4).foldl (fun (t : State) g => t.stopGroup j d g) s)).clearDie d).mbxView =
      s.mbxView := by
  rw [State.mbxView_clearDie, State.mbxView_foldl fun t u => State.mbxView_stopUnit t d u, State.mbxView_foldl fun t g => State.mbxView_stopGroup t j d g]

/-! ### The end of a job -/

@[simp] theorem State.mbxView_endReplay (s : State) (j : Job) (outcome : Nat) (odig : List Byte) :
    (s.endReplay j outcome odig).mbxView = s.mbxView := by
  have hr : R.RPL_STATUS_RUNNING.aboveMbx = true ∧ R.RPL_STATUS_MATCH.aboveMbx = true ∧ R.RPL_STATUS_DIVERGED.aboveMbx = true := by decide
  unfold State.endReplay
  dsimp only
  split
  · rfl
  · split
    · simp [hr]
    · split <;> simp [hr]

@[simp] theorem State.mbxView_writeWatches (s : State) (j : Job) (part : Bool) : (s.writeWatches j part).mbxView = s.mbxView :=
  State.mbxView_ite rfl rfl

@[simp] theorem State.mbxView_scrubTransient (s : State) (j : Job) : (s.scrubTransient j).mbxView = s.mbxView :=
  State.mbxView_foldl (fun t _ => State.mbxView_ite (by simp [R.SPAD_HTAB0_BOUND]) rfl) _ s

@[simp] theorem State.mbxView_noteFailed (s : State) (job : Nat) : (s.noteFailed job).mbxView = s.mbxView :=
  State.mbxView_ite rfl (State.mbxView_wr s _ 1 (by decide))

@[simp] theorem State.mbxView_applyStale (s : State) (job : Nat) : (s.applyStale job).mbxView = s.mbxView :=
  State.mbxView_foldl (fun t p => by simp) _ s

@[simp] theorem State.mbxView_endHorizons (s : State) (dies : List Nat) : (s.endHorizons dies).mbxView = s.mbxView :=
  State.mbxView_foldl (fun t _ => State.mbxView_wr t _ _ (Fld.aboveMbx_of_base _ _ _ _ _ (by decide))) dies s

/-- R318: a completion on one of the 64 rings stays below the mailbox block. -/
@[simp] theorem State.mbxView_postOwed (s : State) (c ring tag kind sqHead : Nat) (k : Compl) :
    (s.postOwed c ring tag kind sqHead k).mbxView = s.mbxView := by
  unfold State.postOwed
  split
  · next hc =>
    have hk : mbxKey (R.CQ_STATE_TAIL c).key = false ∧ mbxKey (R.CQ_STATE_PHASE c).key = false := by
      have key : ∀ k, k < 0x20000 * 64 → mbxKey k = false := fun k hk => by
        rw [mbxKey, decide_eq_false (Nat.not_le.2 hk), Bool.false_and]
      constructor <;> refine key _ ?_
      · simp only [R.CQ_STATE_TAIL, Fld.key]
        omega
      · simp only [R.CQ_STATE_PHASE, Fld.key]
        omega
    unfold State.postTo
    extract_lets tail phase s1 next s2 urgent
    have h2 : s2.mbxView = s.mbxView := by
      simp only [s2]
      rw [State.mbxView_wr_of_key _ _ _ hk.2, State.mbxView_wr_of_key _ _ _ hk.1]
      rfl
    clear_value s2
    dsimp only
    split
    · rw [State.signalCq, State.mbxView_sendMsix]
      exact h2
    · exact h2
  · rfl

/-- R237: the end of a job leaves the mailbox as it is. -/
@[simp] theorem State.mbxView_endJob (s : State) (id outcome code : Nat) : (s.endJob id outcome code).mbxView = s.mbxView := by
  unfold State.endJob
  split
  · rfl
  · next j0 _ =>
    split
    · rfl
    · extract_lets running s1 s2 j2
      have h1 : s1.mbxView = s.mbxView :=
        State.mbxView_ite (State.mbxView_foldl (fun t d => State.mbxView_stopDie t j0 d) _ s) rfl
      have h2 : s2.mbxView = s.mbxView :=
        State.mbxView_ite ((State.mbxView_updJob _ _ _).trans (State.mbxView_ite h1 ((State.mbxView_raise _ _).trans h1))) h1
      clear_value s2
      have h3 := State.mbxView_odigest s2 j2
      generalize s2.odigest j2 = p at h3 ⊢
      obtain ⟨s3, odig⟩ := p
      dsimp only at h3
      dsimp -zeta only
      extract_lets s4 j4 s5 s6 s7 s8 s9 s10 s11 s12
      have h6 : s6.mbxView = s.mbxView := by
        simp only [s6, s5, s4, State.mbxView_toHost, State.mbxView_writeWatches, State.mbxView_endReplay, h3, h2]
      have h7 : s7.mbxView = s.mbxView := State.mbxView_ite ((State.mbxView_scrubTransient _ _).trans h6) h6
      have h9 : s9.mbxView = s.mbxView := h7
      have h10 : s10.mbxView = s.mbxView := (State.mbxView_freeJobRecs _ _).trans h9
      have h11 : s11.mbxView = s.mbxView := by
        simp only [s11, State.mbxView_endHorizons, State.mbxView_applyStale]
        exact State.mbxView_ite ((State.mbxView_noteFailed _ _).trans h10) h10
      rw [State.mbxView_postOwed]
      simp only [s12]
      rw [State.mbxView_wr _ _ _ (by decide), h11]

end Sys2Proof.Machine
end

section
/-! SUPPORT. What the operations on mailbox channels do (R323–R325). -/

namespace Sys2Proof.Machine

/-! ### Single bits of a number -/

theorem bitOf_eq_testBit (x i : Nat) : bitOf x i = x.testBit i := by
  rw [Nat.testBit_eq_decide_div_mod_eq]
  rfl

/-- A number with one bit put in place: that bit is the one put, the others are as before. -/
theorem bitOf_setBits_one (x i j b : Nat) (hb : b < 2) : bitOf (setBits x i 1 b) j = if j = i then b == 1 else bitOf x j := by
  have hx : setBits x i 1 b = 2 ^ i * (2 * (x / 2 ^ (i + 1)) + b) + x % 2 ^ i := by
    rw [setBits, Nat.pow_one, Nat.mod_eq_of_lt hb, Nat.pow_succ]
    ring
  have hlow : x % 2 ^ i < 2 ^ i := Nat.mod_lt x (Nat.two_pow_pos i)
  rw [bitOf_eq_testBit, bitOf_eq_testBit, hx, Nat.testBit_two_pow_mul_add _ hlow]
  rcases Nat.lt_trichotomy j i with h | h | h
  · rw [if_pos h, if_neg (by omega), Nat.testBit_mod_two_pow, decide_eq_true h, Bool.true_and]
  · rw [if_neg (by omega), if_pos h, h, Nat.sub_self, Nat.testBit_zero]
    rcases Nat.lt_succ_iff_lt_or_eq.1 hb with h0 | h0
    · simp [show b = 0 by omega]
    · simp [h0]
  · obtain ⟨k, rfl⟩ : ∃ k, j = i + 1 + k := ⟨j - (i + 1), by omega⟩
    rw [if_neg (by omega), if_neg (by omega), show i + 1 + k - i = k + 1 by omega, Nat.testBit_succ,
      show (2 * (x / 2 ^ (i + 1)) + b) / 2 = x / 2 ^ (i + 1) by omega, Nat.testBit_div_two_pow, Nat.add_comm]

theorem bitOf_setBit_self (x i : Nat) : bitOf (setBit x i) i = true := by
  rw [setBit, bitOf_setBits_one x i i 1 (by decide), if_pos rfl]
  rfl

theorem bitOf_clearBit (x i j : Nat) : bitOf (clearBit x i) j = (decide (j ≠ i) && bitOf x j) := by
  rw [clearBit, bitOf_setBits_one x i j 0 (by decide)]
  by_cases h : j = i <;> simp [h]

/-- A bit within a width is not cut off with what lies above the width. -/
theorem bitOf_mod_two_pow (x : Nat) {i w : Nat} (h : i < w) : bitOf (x % 2 ^ w) i = bitOf x i := by
  rw [bitOf_eq_testBit, bitOf_eq_testBit, Nat.testBit_mod_two_pow, decide_eq_true h, Bool.true_and]

/-! ### The bytes of a channel -/

theorem fit_length (n : Nat) (bs : List Byte) : (fit n bs).length = n := by
  simp only [fit, zeros, List.length_append, List.length_take, List.length_replicate]
  omega

theorem fit_of_length {n : Nat} {bs : List Byte} (h : bs.length = n) : fit n bs = bs := by
  subst h
  simp [fit, zeros]

theorem mbxBytes_length (st : NMap Byte) (m : Nat) : (mbxBytes st m).length = 64 := mapBytes_length st _ _

/-- A channel's bytes, once written, read back. -/
theorem mbxBytes_mapPutBytes_self {st : NMap Byte} (m : Nat) {bs : List Byte} (hl : bs.length = 64) (h : mapWf 0 st = true) :
    mbxBytes (mapPutBytes st (64 * m) bs) m = bs := by
  have h1 := mapBytes_mapPutBytes (64 * m) bs h
  rwa [hl] at h1

/-- Writing one channel's bytes leaves another's. -/
theorem mbxBytes_mapPutBytes_ne {st : NMap Byte} {m k : Nat} {bs : List Byte} (hl : bs.length = 64) (h : mapWf 0 st = true)
    (hk : k ≠ m) : mbxBytes (mapPutBytes st (64 * k) bs) m = mbxBytes st m :=
  mapBytes_mapPutBytes_ne (64 * k) bs (64 * m) 64 h (by omega)

theorem zeros_length (n : Nat) : (zeros n).length = n := List.length_replicate

/-! ### Filling, emptying and telling -/

/-- Both mailbox stores are in their canonical form. -/
def State.MbxWf (s : State) : Prop := mapWf (0 : Byte) s.mbxStage = true ∧ mapWf (0 : Byte) s.mbxSlot = true

theorem State.mbxWf_of_memWf {s : State} (h : s.memWf = true) : s.MbxWf := by
  obtain ⟨_, hstage, hslot, _⟩ := (State.memWf_iff s).1 h
  exact ⟨hstage, hslot⟩

theorem State.mbxWf_of_mbxView {s t : State} (h : t.mbxView = s.mbxView) (hs : s.MbxWf) : t.MbxWf := by
  rw [State.MbxWf, State.mbxStage_of_mbxView h, State.mbxSlot_of_mbxView h]
  exact hs

/-- R324: telling an end sends a message or an interrupt and leaves the channels. -/
@[simp] theorem State.mbxView_mbxTell (s : State) (m mid : Nat) : (s.mbxTell m mid).mbxView = s.mbxView :=
  State.mbxView_ite (State.mbxView_sendMsix s _) rfl

@[simp] theorem State.mbxView_mbxDeny (s : State) (mid m : Nat) : (s.mbxDeny mid m).mbxView = s.mbxView :=
  State.mbxView_ite rfl (State.mbxView_raiseRange s _ _)

/-- R324: outside the pending bits, telling an end changes no register. -/
theorem State.rd_mbxTell (s : State) (m mid : Nat) {f : Fld} (hf : eventReg (f.key / 64) = false) : (s.mbxTell m mid).rd f = s.rd f := by
  unfold State.mbxTell
  split
  · exact State.rd_sendMsix s (State.rd_lt s (R.MBX_BIND_VEC m)) hf
  · rfl

theorem State.mbxTell_pcie (s : State) (m mid : Nat) : (s.mbxTell m mid).pcie = s.pcie := by
  unfold State.mbxTell
  split
  · rw [State.sendMsix_frame]
  · rfl

theorem State.hostUp_mbxTell (s : State) (m mid : Nat) : (s.mbxTell m mid).hostUp = s.hostUp := by
  rw [State.hostUp, State.hostUp, State.rd_mbxTell s m mid (by decide), State.mbxTell_pcie]

/-- R324: the channels after a slot is filled: the message in the slot, FULL and the doorbell bit set. -/
theorem State.mbxView_mbxFill (s : State) (m : Nat) (msg : List Byte) : (s.mbxFill m msg).mbxView =
    (({ s with mbxSlot := mapPutBytes s.mbxSlot (64 * m) (fit 64 msg) } : State).wr R.MBX_STATUS_FULL
      (setBit (s.rd R.MBX_STATUS_FULL) m) |>.wr R.MBX_DB_DB (setBit (s.rd R.MBX_DB_DB) m)).mbxView :=
  State.mbxView_ite rfl (State.mbxView_mbxTell _ _ _)

/-- R324: the message sent stands in the slot and FULL is set. -/
theorem State.mbxFill_holds {s : State} {m : Nat} (hm : m < 32) (msg : List Byte) (h : s.MbxWf) :
    mbxBytes (s.mbxFill m msg).mbxSlot m = fit 64 msg ∧ bitOf ((s.mbxFill m msg).rd R.MBX_STATUS_FULL) m = true := by
  have hv := State.mbxView_mbxFill s m msg
  constructor
  · rw [State.mbxSlot_of_mbxView hv]
    exact mbxBytes_mapPutBytes_self m (fit_length 64 msg) h.2
  · rw [State.rd_of_mbxView hv (by decide) rfl, State.rd_wr_ne _ _ (by decide), State.rd_wr_self,
      show R.MBX_STATUS_FULL.w = 32 from rfl, bitOf_mod_two_pow _ hm, bitOf_setBit_self]

theorem State.mbxEmpty_mbxStage (s : State) (m : Nat) : (s.mbxEmpty m).mbxStage = s.mbxStage := by
  simp only [State.mbxEmpty, State.wr_mbxStage]

theorem State.mbxEmpty_mbxSlot (s : State) (m : Nat) : (s.mbxEmpty m).mbxSlot = mapPutBytes s.mbxSlot (64 * m) (zeros 64) := by
  simp only [State.mbxEmpty, State.wr_mbxSlot]

/-- Emptying a slot changes no register but FULL and the doorbell bits. -/
theorem State.rd_mbxEmpty_ne (s : State) (m : Nat) {f : Fld} (h1 : R.MBX_STATUS_FULL.key ≠ f.key) (h2 : R.MBX_DB_DB.key ≠ f.key) :
    (s.mbxEmpty m).rd f = s.rd f := by
  rw [State.mbxEmpty, State.rd_wr_ne _ _ h2, State.rd_wr_ne _ _ h1]
  generalize zeros 64 = z
  rfl

theorem State.hostUp_mbxEmpty (s : State) (m : Nat) : (s.mbxEmpty m).hostUp = s.hostUp := by
  rw [State.hostUp, State.hostUp, State.rd_mbxEmpty_ne s m (by decide) (by decide), State.mbxEmpty]
  generalize zeros 64 = z
  rfl

theorem State.bitOf_full_mbxEmpty (s : State) (k : Nat) {m : Nat} (hm : m < 32) :
    bitOf ((s.mbxEmpty k).rd R.MBX_STATUS_FULL) m = (decide (m ≠ k) && bitOf (s.rd R.MBX_STATUS_FULL) m) := by
  rw [State.mbxEmpty, State.rd_wr_ne _ _ (by decide), State.rd_wr_self, show R.MBX_STATUS_FULL.w = 32 from rfl,
    bitOf_mod_two_pow _ hm, bitOf_clearBit]

theorem State.mbxWf_mbxEmpty {s : State} (m : Nat) (h : s.MbxWf) : (s.mbxEmpty m).MbxWf := by
  rw [State.MbxWf, State.mbxEmpty_mbxStage, State.mbxEmpty_mbxSlot]
  exact ⟨h.1, mapWf_mapPutBytes (zeros 64) (64 * m) h.2⟩

/-- R323: the binding of a channel: its two ends and its enable. -/
def State.mbxBinding (s : State) (m : Nat) : Nat × Nat × Nat :=
  (s.rd (R.MBX_BIND_SENDER m), s.rd (R.MBX_BIND_RECEIVER m), s.rd (R.MBX_BIND_EN m))

theorem State.mbxBinding_eq_iff {s t : State} {m : Nat} : t.mbxBinding m = s.mbxBinding m ↔
    t.rd (R.MBX_BIND_SENDER m) = s.rd (R.MBX_BIND_SENDER m) ∧ t.rd (R.MBX_BIND_RECEIVER m) = s.rd (R.MBX_BIND_RECEIVER m) ∧
      t.rd (R.MBX_BIND_EN m) = s.rd (R.MBX_BIND_EN m) := by
  simp only [State.mbxBinding, Prod.mk.injEq]

/-- The binding registers of the 32 channels come first in the mailbox block, before its other registers. -/
theorem mbxBinding_keys {m : Nat} (hm : m < 32) {f : Fld} (hf : f ∈ [R.MBX_BIND_SENDER m, R.MBX_BIND_RECEIVER m, R.MBX_BIND_EN m]) :
    0x20000 * 64 ≤ f.key ∧ f.key < R.MBX_DB_DB.key ∧ f.fused = false := by
  have hdb : R.MBX_DB_DB.key = 0x20108 * 64 := rfl
  simp only [List.mem_cons, List.not_mem_nil, or_false] at hf
  rw [hdb]
  rcases hf with rfl | rfl | rfl <;> refine ⟨?_, ?_, rfl⟩ <;>
    simp only [R.MBX_BIND_SENDER, R.MBX_BIND_RECEIVER, R.MBX_BIND_EN, Fld.key] <;> omega

theorem State.mbxBinding_congr {s t : State} {m : Nat}
    (h : ∀ f ∈ [R.MBX_BIND_SENDER m, R.MBX_BIND_RECEIVER m, R.MBX_BIND_EN m], t.rd f = s.rd f) : t.mbxBinding m = s.mbxBinding m :=
  State.mbxBinding_eq_iff.2 ⟨h _ (by simp), h _ (by simp), h _ (by simp)⟩

theorem State.mbxBinding_of_mbxView {s t : State} (h : t.mbxView = s.mbxView) {m : Nat} (hm : m < 32) : t.mbxBinding m = s.mbxBinding m := by
  refine State.mbxBinding_congr fun f hf => ?_
  obtain ⟨hlo, hhi, hfuse⟩ := mbxBinding_keys hm hf
  refine State.rd_of_mbxView h ?_ hfuse
  rw [mbxKey, decide_eq_true hlo, Bool.true_and]
  exact decide_eq_true (Nat.lt_trans hhi (by decide))

theorem State.mbxBinding_mbxEmpty (s : State) (k : Nat) {m : Nat} (hm : m < 32) : (s.mbxEmpty k).mbxBinding m = s.mbxBinding m := by
  refine State.mbxBinding_congr fun f hf => ?_
  obtain ⟨_, hhi, _⟩ := mbxBinding_keys hm hf
  exact State.rd_mbxEmpty_ne s k (Nat.ne_of_gt (Nat.lt_trans hhi (by decide))) (Nat.ne_of_gt hhi)

theorem State.mbxLive_of_mbxBinding {s t : State} {m : Nat} (h : t.mbxBinding m = s.mbxBinding m) : t.mbxLive m = s.mbxLive m := by
  obtain ⟨hsnd, hrcv, hen⟩ := State.mbxBinding_eq_iff.1 h
  simp only [State.mbxLive, State.on, hsnd, hrcv, hen]

/-! ### SEND and the clearing of the doorbell bit -/

/-- A channel that carries messages has two ends. -/
theorem State.ends_of_mbxLive {s : State} {m : Nat} (h : s.mbxLive m = true) :
    s.rd (R.MBX_BIND_SENDER m) ≠ 0 ∧ s.rd (R.MBX_BIND_RECEIVER m) ≠ 0 := by
  simp only [State.mbxLive, Bool.and_eq_true, bne_iff_ne] at h
  exact ⟨h.1.2, h.2⟩

/-- The MID of an end that is bound is let through. -/
theorem end_admitted {mid : BitVec 12} {e : Nat} (h : mid.toNat = e) (he : e ≠ 0) : (decide (mid = 0) || mid.toNat != e) = false := by
  have h0 : mid ≠ 0 := by
    rintro rfl
    exact he h.symm
  rw [decide_eq_false h0, h, bne_self_eq_false]
  rfl

theorem host_admitted {s : State} {mid : BitVec 12} (h : isHostMid mid.toNat = true → s.hostUp = true) :
    (isHostMid mid.toNat && !s.hostUp) = false := by
  cases hm : isHostMid mid.toNat
  · rfl
  · rw [h hm]
    rfl

/-- R324, R325: the sender's SEND on a channel that carries messages: refused while the slot is full, else sent. -/
theorem exec_mbxSend_of_sender {s : State} {mid : BitVec 12} {m : Fin 32} (hup : isHostMid mid.toNat = true → s.hostUp = true)
    (hlive : s.mbxLive m = true) (hmid : mid.toNat = s.rd (R.MBX_BIND_SENDER m)) :
    exec (.mbxSend mid m) s = .next (if bitOf (s.rd R.MBX_STATUS_FULL) m then
      (s.wr R.MBX_STATUS_REFUSED (setBit (s.rd R.MBX_STATUS_REFUSED) m)).raiseRange 8 Unit.HOST
      else s.mbxFill m (mbxBytes s.mbxStage m)) := by
  show execMbxSend mid m s = _
  rw [execMbxSend, host_admitted hup, end_admitted hmid (State.ends_of_mbxLive hlive).1, hlive]
  rfl

/-- R324: the receiver's clearing of a doorbell bit that is set empties the slot and tells the sender. -/
theorem exec_mbxDbClear_of_receiver {s : State} {mid : BitVec 12} {m : Fin 32} (hup : isHostMid mid.toNat = true → s.hostUp = true)
    (hlive : s.mbxLive m = true) (hmid : mid.toNat = s.rd (R.MBX_BIND_RECEIVER m)) (hdb : bitOf (s.rd R.MBX_DB_DB) m = true) :
    exec (.mbxDbClear mid m) s = .next ((s.mbxEmpty m).mbxTell m (s.rd (R.MBX_BIND_SENDER m))) := by
  show execMbxDbClear mid m s = _
  rw [execMbxDbClear, host_admitted hup, end_admitted hmid (State.ends_of_mbxLive hlive).2, hlive, hdb]
  rfl

/-- R325: what a refused SEND leaves, sets and raises. -/
theorem send_refused_when_full {s : State} {mid : BitVec 12} {m : Fin 32} (hup : isHostMid mid.toNat = true → s.hostUp = true)
    (hlive : s.mbxLive m = true) (hmid : mid.toNat = s.rd (R.MBX_BIND_SENDER m)) (hfull : bitOf (s.rd R.MBX_STATUS_FULL) m = true) :
    Completes (.mbxSend mid m) s fun t =>
      t.mbxSlot = s.mbxSlot ∧ t.mbxStage = s.mbxStage ∧ bitOf (t.rd R.MBX_STATUS_REFUSED) m = true ∧
      t.rd R.EVT_LAST_CODE = Ev.RANGE ∧ t.rd R.EVT_LAST_SRC = 8 := by
  have hexec := exec_mbxSend_of_sender hup hlive hmid
  rw [hfull, if_pos rfl] at hexec
  refine ⟨_, hexec, ?_⟩
  have hv := State.mbxView_raiseRange (s.wr R.MBX_STATUS_REFUSED (setBit (s.rd R.MBX_STATUS_REFUSED) m)) 8 Unit.HOST
  have hlast := State.raise_last (s.wr R.MBX_STATUS_REFUSED (setBit (s.rd R.MBX_STATUS_REFUSED) m))
    { code := Ev.RANGE, src := 8, unit := Unit.HOST }
  refine ⟨(State.mbxSlot_of_mbxView hv).trans rfl, (State.mbxStage_of_mbxView hv).trans rfl, ?_, hlast.1, hlast.2.1⟩
  rw [State.rd_of_mbxView hv (by decide) rfl, State.rd_wr_self, show R.MBX_STATUS_REFUSED.w = 32 from rfl,
    bitOf_mod_two_pow _ m.isLt, bitOf_setBit_self]

/-- R325: the receiver's clearing empties the slot, and the sender's SEND after it is accepted. -/
theorem send_accepted_after_clear {s : State} {rcv snd : BitVec 12} {m : Fin 32} (hwf : s.MbxWf) (hup : s.hostUp = true)
    (hlive : s.mbxLive m = true) (hrcv : rcv.toNat = s.rd (R.MBX_BIND_RECEIVER m)) (hsnd : snd.toNat = s.rd (R.MBX_BIND_SENDER m))
    (hdb : bitOf (s.rd R.MBX_DB_DB) m = true) :
    Completes (.mbxDbClear rcv m) s fun t => mbxBytes t.mbxSlot m = zeros 64 ∧ bitOf (t.rd R.MBX_STATUS_FULL) m = false ∧
      Completes (.mbxSend snd m) t fun u => mbxBytes u.mbxSlot m = mbxBytes s.mbxStage m ∧ bitOf (u.rd R.MBX_STATUS_FULL) m = true := by
  refine ⟨_, exec_mbxDbClear_of_receiver (fun _ => hup) hlive hrcv hdb, ?_⟩
  have hv := State.mbxView_mbxTell (s.mbxEmpty m) m (s.rd (R.MBX_BIND_SENDER m))
  have htup : ((s.mbxEmpty m).mbxTell m (s.rd (R.MBX_BIND_SENDER m))).hostUp = true := by
    rw [State.hostUp_mbxTell, State.hostUp_mbxEmpty, hup]
  generalize (s.mbxEmpty m).mbxTell m (s.rd (R.MBX_BIND_SENDER m)) = t at hv htup
  have hslot : mbxBytes t.mbxSlot m = zeros 64 := by
    rw [State.mbxSlot_of_mbxView hv, State.mbxEmpty_mbxSlot]
    exact mbxBytes_mapPutBytes_self m (zeros_length 64) hwf.2
  have hfull : bitOf (t.rd R.MBX_STATUS_FULL) m = false := by
    rw [State.rd_of_mbxView hv (by decide) rfl, State.bitOf_full_mbxEmpty s m m.isLt]
    simp
  have hbind : t.mbxBinding m = s.mbxBinding m := (State.mbxBinding_of_mbxView hv m.isLt).trans (State.mbxBinding_mbxEmpty s m m.isLt)
  have hsnd' : snd.toNat = t.rd (R.MBX_BIND_SENDER m) := hsnd.trans (State.mbxBinding_eq_iff.1 hbind).1.symm
  have hstage : t.mbxStage = s.mbxStage := (State.mbxStage_of_mbxView hv).trans (State.mbxEmpty_mbxStage s m)
  have hexec := exec_mbxSend_of_sender (fun _ => htup) ((State.mbxLive_of_mbxBinding hbind).trans hlive) hsnd'
  rw [hfull, if_neg (by decide), hstage] at hexec
  have hfill := State.mbxFill_holds m.isLt (mbxBytes s.mbxStage m) (State.mbxWf_of_mbxView hv (State.mbxWf_mbxEmpty m hwf))
  rw [fit_of_length (mbxBytes_length _ _)] at hfill
  exact ⟨hslot, hfull, _, hexec, hfill⟩

/-! ### A write to the staging buffer -/

/-- A row of a register table that no offset from `lo` to `hi` falls in: it begins later, or its first dimension ends before. -/
def RegRow.outside (r : RegRow) (lo hi : Nat) : Bool :=
  decide (hi ≤ r.off) || match r.dims with
    | [] => decide (r.width / 8 ≤ lo - r.off)
    | (n, st) :: _ => decide (n ≤ (lo - r.off) / st)

theorem RegRow.hit_of_outside {r : RegRow} {lo hi o : Nat} (h : r.outside lo hi = true) (hlo : lo ≤ o) (hhi : o < hi) : r.hit o = none := by
  unfold RegRow.hit
  split
  · next hoff =>
    rw [RegRow.outside, decide_eq_false (by omega), Bool.false_or] at h
    have hmono : lo - r.off ≤ o - r.off := Nat.sub_le_sub_right hlo _
    cases hd : r.dims with
    | nil =>
      rw [hd] at h
      have hw : ¬ o - r.off < r.width / 8 := Nat.not_lt.2 (Nat.le_trans (of_decide_eq_true h) hmono)
      simp only [dimHit, if_neg hw]
    | cons p ds =>
      obtain ⟨n, st⟩ := p
      rw [hd] at h
      have hn : ¬ (o - r.off) / st < n := Nat.not_lt.2 (Nat.le_trans (of_decide_eq_true h) (Nat.div_le_div_right hmono))
      simp only [dimHit, if_neg hn]
  · rfl

/-- The row that an offset falls in, where the rows before it in the table are outside a range that holds the offset. -/
theorem findRow_of_outside {pre post : List RegRow} {r : RegRow} {lo hi o b : Nat} (hpre : pre.all (·.outside lo hi) = true)
    (hlo : lo ≤ o) (hhi : o < hi) (hit : r.hit o = some b) : findRow (pre ++ r :: post) o = some (r, b) := by
  induction pre with
  | nil => simp only [List.nil_append, findRow, hit]
  | cons q pre ih =>
    rw [List.all_cons, Bool.and_eq_true] at hpre
    simp only [List.cons_append, findRow, RegRow.hit_of_outside hpre.1 hlo hhi]
    exact ih hpre.2

/-- The row of MBX_DATA: 8 words of 64 bits to each of the 32 channels. -/
def mbxDataRow : RegRow := ⟨"MBX_DATA", false, 0x21000, 64, [(32, 0x80), (8, 8)], .perChannel, none, [⟨0, 64, .rw, 0, false⟩]⟩

theorem hubRegs_eq_mbxData : hubRegs = hubRegs.take 22 ++ mbxDataRow :: hubRegs.drop 23 := rfl

theorem dimHit_cons {n st o b rem : Nat} {ds : List (Nat × Nat)} (hn : o / st < n) (h : dimHit ds (o % st) = some (b, rem)) :
    dimHit ((n, st) :: ds) o = some (o / st * st + b, rem) := by
  simp only [dimHit, if_pos hn, h]

theorem RegRow.hit_of_dimHit {r : RegRow} {o k b rem : Nat} (ho : o = r.off + k) (h : dimHit r.dims k = some (b, rem))
    (hrem : rem < r.width / 8) : r.hit o = some (r.off + b) := by
  subst ho
  simp only [RegRow.hit, if_pos (Nat.le_add_right r.off k), Nat.add_sub_cancel_left, h, if_pos hrem]

theorem mbxDataRow_hit {m o : Nat} (hm : m < 32) (ho : o < 64) :
    mbxDataRow.hit (0x21000 + 0x80 * m + o) = some (0x21000 + (m * 0x80 + o / 8 * 8)) := by
  have hlt : o / 8 < 8 := by omega
  have hword : dimHit [(8, 8)] o = some (o / 8 * 8, o % 8) := dimHit_cons (b := 0) (ds := []) hlt rfl
  have hdiv : (0x80 * m + o) / 0x80 = m := by omega
  have hmod : (0x80 * m + o) % 0x80 = o := by omega
  have hdim := dimHit_cons (n := 32) (st := 0x80) (o := 0x80 * m + o) (ds := [(8, 8)]) (by rwa [hdiv]) (by rw [hmod]; exact hword)
  rw [hdiv] at hdim
  exact RegRow.hit_of_dimHit (r := mbxDataRow) (Nat.add_assoc _ _ _) hdim (Nat.mod_lt o (by decide))

/-- R324, R467: the 64 bytes of a channel's page are MBX_DATA's. -/
theorem regAt_mbxData {m o : Nat} (hm : m < 32) (ho : o < 64) :
    regAt (0x21000 + 0x80 * m + o) = some (mbxDataRow, 0x21000 + (m * 0x80 + o / 8 * 8), none) := by
  have hrow : findRow hubRegs (0x21000 + 0x80 * m + o) = some (mbxDataRow, 0x21000 + (m * 0x80 + o / 8 * 8)) := by
    rw [hubRegs_eq_mbxData]
    exact findRow_of_outside (lo := 0x21000) (hi := 0x22000) (by decide) (by omega) (by omega) (mbxDataRow_hit hm ho)
  simp only [regAt, if_pos (show 0x21000 + 0x80 * m + o < 0x1000000 by omega), hrow]

/-- R325: the messages held and the bits that say which slots hold one. -/
def State.HeldAs (s t : State) : Prop := t.mbxSlot = s.mbxSlot ∧ t.rd R.MBX_STATUS_FULL = s.rd R.MBX_STATUS_FULL

theorem State.heldAs_of_mbxView {s t : State} (h : t.mbxView = s.mbxView) : s.HeldAs t :=
  ⟨State.mbxSlot_of_mbxView h, State.rd_of_mbxView h (by decide) rfl⟩

theorem State.heldAs_putStage (s : State) (mid m o : Nat) (bs : List Byte) : s.HeldAs (s.putStage mid m o bs) := by
  unfold State.putStage
  split
  · exact State.heldAs_of_mbxView (State.mbxView_mbxDeny s mid m)
  · split <;> exact ⟨rfl, rfl⟩

theorem State.putReg_mbxData (s : State) (addr d i mid : Nat) (isLocked : Bool) (p : Put) :
    s.putReg mbxDataRow addr d i mid isLocked p = s.putStage mid i ((addr - 0x21000) % 0x80 + p.lo / 8) (leBytes (p.n / 8) p.v) := rfl

theorem State.denied_mbxData (s : State) (src d mid : Nat) : s.denied mbxDataRow.name src d mid = s.raiseRange src Unit.NONE := rfl

/-- R324, R325: a write to a channel's data, refused or put in the staging buffer. -/
theorem State.heldAs_writeReg_mbxData (s : State) {m o : Nat} (hm : m < 32) (ho : o < 64) (mid : Nat) (p : Put) :
    s.HeldAs (s.writeReg mid (0x21000 + 0x80 * m + o) p) := by
  have hself : s.HeldAs s := ⟨rfl, rfl⟩
  simp only [State.writeReg, regAt_mbxData hm ho]
  split
  · exact hself
  · split
    · exact hself
    · split
      · rw [State.denied_mbxData]
        exact State.heldAs_of_mbxView (State.mbxView_raiseRange s _ _)
      · split
        · exact hself
        · rw [State.putReg_mbxData]
          exact State.heldAs_putStage s _ _ _ _

/-- R325: a write of any size to a channel's data never changes a held message. -/
theorem stage_write_keeps_held (s : State) (mid : BitVec 12) (m : Fin 32) {o : Nat} (ho : o < 64) (n : Fin 9) (v : Word64) :
    Completes (.regWrite mid (BitVec.ofNat 26 (0x21000 + 0x80 * m.val + o)) n v) s fun t =>
      t.mbxSlot = s.mbxSlot ∧ t.rd R.MBX_STATUS_FULL = s.rd R.MBX_STATUS_FULL := by
  have hself : s.HeldAs s := ⟨rfl, rfl⟩
  have hrange : ∀ src, s.HeldAs (s.raiseRange src Unit.NONE) := fun src => State.heldAs_of_mbxView (State.mbxView_raiseRange s src _)
  have haddr : (BitVec.ofNat 26 (0x21000 + 0x80 * m.val + o)).toNat = 0x21000 + 0x80 * m.val + o := by
    rw [BitVec.toNat_ofNat]
    exact Nat.mod_eq_of_lt (by omega)
  have hpair : pairAt (0x21000 + 0x80 * m.val + o) = false := by
    rw [pairAt, regAt_mbxData m.isLt ho]
    rfl
  refine ⟨_, rfl, ?_⟩
  show s.HeldAs _
  rw [haddr, hpair, Bool.and_false]
  split
  · exact hself
  · split
    · split
      · exact hself
      · exact hrange _
    · split
      · exact hrange _
      · exact State.heldAs_writeReg_mbxData s m.isLt ho _ _

end Sys2Proof.Machine
end

section
/-! SUPPORT. What the resets make of the mailbox (R309, R325, R444, R446). -/

namespace Sys2Proof.Machine

/-- A map cut down to the keys that a test lets through. -/
theorem mapFind_filter_key {α : Type} (P : Nat → Bool) (m : NMap α) (k : Nat) :
    mapFind (m.filter fun p => P p.1) k = if P k then mapFind m k else none := by
  induction m with
  | nil => simp
  | cons p m ih =>
    obtain ⟨j, v⟩ := p
    by_cases hP : P j = true
    · rw [List.filter_cons_of_pos (by simpa using hP)]
      by_cases hjk : j = k
      · subst hjk
        simp [mapFind, hP]
      · simp only [mapFind, if_neg hjk, ih]
    · rw [List.filter_cons_of_neg (by simpa using hP), ih]
      by_cases hjk : j = k
      · subst hjk
        simp [hP]
      · simp only [mapFind, if_neg hjk]

/-! ### RESET_N -/

@[simp] theorem State.mbxView_mapOutDie (s : State) (d : Nat) : (s.mapOutDie d).mbxView = s.mbxView := by
  have h1 : ∀ (t : State) (a b c : Nat),
      (((t.wr (R.MEM_CHMAP_INSERV d) a).wr (R.MEM_CHMAP_COUNT d) b).wr R.CAPS_DEGRADED c).mbxView = t.mbxView := fun t a b c => by
    rw [State.mbxView_wr_of_key _ R.CAPS_DEGRADED _ (by decide)]
    simp [R.MEM_CHMAP_INSERV, R.MEM_CHMAP_COUNT]
  unfold State.mapOutDie
  dsimp only
  split
  · rfl
  · split
    · rw [State.mbxView_wr_of_key _ R.CAPS_DIE_INSERV _ (by decide), h1]
    · exact h1 _ _ _ _

theorem Chk.epoch_aboveMbx (d : Nat) (c : Chk) : (c.epoch d).aboveMbx = true := by
  cases c <;> exact Fld.aboveMbx_cdBase d _ _ _ _ _

@[simp] theorem State.mbxView_reviveUnit (s old : State) (d : Nat) (u : Fin 6) : (s.reviveUnit old d u).mbxView = s.mbxView :=
  State.mbxView_ite (State.mbxView_wr s _ 1 (Chk.epoch_aboveMbx d _)) rfl

/-- R325, R444: RESET_N leaves the mailbox as the part comes out of power-up. -/
theorem State.mbxView_resetDies (s : State) : s.resetDies.mbxView = State.reset.mbxView := by
  have hkeep : ∀ k, (if mbxKey k then mapFind (s.regs.filter fun p => decide (0xC0000 * 64 ≤ p.1) && decide (p.1 < 0xC0038 * 64)) k else none) =
      if mbxKey k then mapFind ([] : NMap Nat) k else none := by
    intro k
    split
    · next hk =>
      have hlow : decide (0xC0000 * 64 ≤ k) = false := by
        rw [mbxKey, Bool.and_eq_true] at hk
        exact decide_eq_false (Nat.not_le.2 (Nat.lt_trans (of_decide_eq_true hk.2) (by decide)))
      rw [mapFind_filter_key (fun j => decide (0xC0000 * 64 ≤ j) && decide (j < 0xC0038 * 64)), hlow]
      rfl
    · rfl
  unfold State.resetDies
  extract_lets base pw t t0 t1 t2
  have ht : t.mbxView = State.reset.mbxView := by
    simp only [State.mbxView, t, hkeep, base]
    rfl
  clear_value t
  have h0 : t0.mbxView = t.mbxView := State.mbxView_foldl State.mbxView_mapOutDie _ t
  have h1 : t1.mbxView = t.mbxView := (State.mbxView_wr t0 R.PART_DIES _ (by decide)).trans h0
  have h2 : t2.mbxView = t.mbxView :=
    (State.mbxView_foldl (fun a d => State.mbxView_foldl (fun b u => State.mbxView_reviveUnit b s d u) chkAll a) _ t1).trans h1
  rw [State.mbxView_wr _ R.PKG_STATE_STEP _ (by decide), State.mbxView_wr _ R.PKG_STATE_READY _ (by decide),
    State.mbxView_wr _ R.PKG_STATE_PHASE _ (by decide), h2, ht]

/-- R445: the level of RESET_N noted as low. -/
def State.holdReset (s : State) : State := { s with power := { s.power with resetn := false } }

theorem exec_resetNAssert (s : State) : exec .resetNAssert s =
    .next (if !s.power.pwrgood then s else (if s.power.on then s.resetDies else s).holdReset) := rfl

theorem State.mbxView_holdReset (s : State) : s.holdReset.mbxView = s.mbxView := rfl

/-- R325: RESET_N empties every channel. -/
theorem resetN_empties_channels {s : State} (hgood : s.power.pwrgood = true) (hon : s.power.on = true) :
    Completes .resetNAssert s fun t => t.mbxSlot = [] ∧ t.mbxStage = [] ∧ t.rd R.MBX_STATUS_FULL = 0 := by
  have hexec := exec_resetNAssert s
  rw [hgood, if_neg (by decide), if_pos hon] at hexec
  have hv := (State.mbxView_holdReset s.resetDies).trans (State.mbxView_resetDies s)
  exact ⟨_, hexec, State.mbxSlot_of_mbxView hv, State.mbxStage_of_mbxView hv, State.rd_of_mbxView hv (by decide) rfl⟩

/-! ### A function level reset -/

/-- R325: a channel is empty: no message, nothing staged, FULL clear. -/
structure State.ChanEmpty (s : State) (m : Nat) : Prop where
  slot : mbxBytes s.mbxSlot m = zeros 64
  stage : mbxBytes s.mbxStage m = zeros 64
  full : bitOf (s.rd R.MBX_STATUS_FULL) m = false

theorem State.chanEmpty_of_mbxView {s t : State} (h : t.mbxView = s.mbxView) {m : Nat} (hs : s.ChanEmpty m) : t.ChanEmpty m where
  slot := by rw [State.mbxSlot_of_mbxView h, hs.slot]
  stage := by rw [State.mbxStage_of_mbxView h, hs.stage]
  full := by rw [State.rd_of_mbxView h (by decide) rfl, hs.full]

theorem State.mbxClear_mbxSlot (s : State) (m : Nat) : (s.mbxClear m).mbxSlot = mapPutBytes s.mbxSlot (64 * m) (zeros 64) := by
  simp only [State.mbxClear, State.mbxEmpty_mbxSlot]

theorem State.mbxClear_mbxStage (s : State) (m : Nat) : (s.mbxClear m).mbxStage = mapPutBytes s.mbxStage (64 * m) (zeros 64) := by
  simp only [State.mbxClear]

theorem State.rd_mbxClear (s : State) (m : Nat) (f : Fld) : (s.mbxClear m).rd f = (s.mbxEmpty m).rd f := by
  unfold State.mbxClear
  generalize zeros 64 = z
  rfl

theorem State.mbxWf_mbxClear {s : State} (m : Nat) (h : s.MbxWf) : (s.mbxClear m).MbxWf := by
  rw [State.MbxWf, State.mbxClear_mbxStage, State.mbxClear_mbxSlot]
  exact ⟨mapWf_mapPutBytes _ _ h.1, mapWf_mapPutBytes _ _ h.2⟩

theorem State.mbxBinding_mbxClear (s : State) (k : Nat) {m : Nat} (hm : m < 32) : (s.mbxClear k).mbxBinding m = s.mbxBinding m := by
  rw [← State.mbxBinding_mbxEmpty s k hm]
  simp only [State.mbxBinding, State.rd_mbxClear]

/-- R309: clearing a channel empties it. -/
theorem State.chanEmpty_mbxClear_self {s : State} {m : Nat} (hm : m < 32) (h : s.MbxWf) : (s.mbxClear m).ChanEmpty m where
  slot := by
    rw [State.mbxClear_mbxSlot]
    exact mbxBytes_mapPutBytes_self m (zeros_length 64) h.2
  stage := by
    rw [State.mbxClear_mbxStage]
    exact mbxBytes_mapPutBytes_self m (zeros_length 64) h.1
  full := by
    rw [State.rd_mbxClear, State.bitOf_full_mbxEmpty s m hm]
    simp

/-- R309: clearing any channel leaves an empty one empty. -/
theorem State.chanEmpty_mbxClear {s : State} (k : Nat) {m : Nat} (hm : m < 32) (h : s.MbxWf) (he : s.ChanEmpty m) : (s.mbxClear k).ChanEmpty m := by
  by_cases hk : k = m
  · subst hk
    exact State.chanEmpty_mbxClear_self hm h
  · constructor
    · rw [State.mbxClear_mbxSlot, mbxBytes_mapPutBytes_ne (zeros_length 64) h.2 hk, he.slot]
    · rw [State.mbxClear_mbxStage, mbxBytes_mapPutBytes_ne (zeros_length 64) h.1 hk, he.stage]
    · rw [State.rd_mbxClear, State.bitOf_full_mbxEmpty s k hm, he.full, Bool.and_false]

/-- R309: a channel with a host MID at either end. -/
def State.hostEnded (s : State) (m : Nat) : Bool := isHostMid (s.rd (R.MBX_BIND_SENDER m)) || isHostMid (s.rd (R.MBX_BIND_RECEIVER m))

theorem State.hostEnded_of_mbxBinding {s t : State} {m : Nat} (h : t.mbxBinding m = s.mbxBinding m) : t.hostEnded m = s.hostEnded m := by
  obtain ⟨hsnd, hrcv, _⟩ := State.mbxBinding_eq_iff.1 h
  simp only [State.hostEnded, hsnd, hrcv]

/-- R309: the channel cleared if it has a host end. -/
def State.clearHostEnded (s : State) (m : Nat) : State := if s.hostEnded m then s.mbxClear m else s

/-- What every step of a fold keeps once one of its elements has established it. -/
theorem foldl_establishes {σ α : Type} {f : σ → α → σ} {I G : σ → Prop} (hI : ∀ x b, I x → I (f x b)) (hG : ∀ x b, I x → G x → G (f x b))
    {a : α} (ha : ∀ x, I x → G (f x a)) {as : List α} (hmem : a ∈ as) {x : σ} (hx : I x) : G (as.foldl f x) := by
  have keep : ∀ (bs : List α) (y : σ), I y → G y → G (bs.foldl f y) := by
    intro bs
    induction bs with
    | nil => exact fun y _ h => h
    | cons b bs ih => exact fun y hi hg => ih (f y b) (hI y b hi) (hG y b hi hg)
  induction as generalizing x with
  | nil => cases hmem
  | cons b bs ih =>
    rcases List.mem_cons.1 hmem with rfl | h
    · exact keep bs _ (hI x a hx) (ha x hx)
    · exact ih h (hI x b hx)

/-- R309: after every channel has had its turn, one with a host end is empty. -/
theorem State.chanEmpty_foldl_clearHostEnded {s : State} {m : Nat} (hm : m < 32) (hwf : s.MbxWf) (hhost : s.hostEnded m = true) :
    ((List.range 32).foldl State.clearHostEnded s).ChanEmpty m := by
  refine foldl_establishes (I := fun t : State => t.MbxWf ∧ t.hostEnded m = true) (G := fun t : State => t.ChanEmpty m)
    ?_ ?_ ?_ (List.mem_range.2 hm) ⟨hwf, hhost⟩
  · intro t k ⟨hw, he⟩
    unfold State.clearHostEnded
    split
    · exact ⟨State.mbxWf_mbxClear k hw, (State.hostEnded_of_mbxBinding (State.mbxBinding_mbxClear t k hm)).trans he⟩
    · exact ⟨hw, he⟩
  · intro t k ⟨hw, _⟩ he
    unfold State.clearHostEnded
    split
    · exact State.chanEmpty_mbxClear k hm hw he
    · exact he
  · intro t ⟨hw, he⟩
    rw [State.clearHostEnded, if_pos he]
    exact State.chanEmpty_mbxClear_self hm hw

/-- R309: the state of a function level reset before the channels: its jobs ended, its rings and windows gone. -/
def State.hostCut (s : State) : State :=
  let s1 := (s.jobs.filter (·.live)).foldl (fun (t : State) j => t.endJob j.id 1 0) s
  { s1 with
    regs := s1.regs.filter fun p => !hostBlock (p.1 / 64)
    sqTimes := []
    nextRing := 0
    shadowSeen := []
    coal := []
    landings := s1.landings.map fun l => { l with cq := 64 }
    poll := 0 }

theorem State.hostReset_eq (s : State) : s.hostReset =
    if 3 ≤ s.rd R.SEC_STATE_STAGE && s.rd R.SEC_STATE_STAGE ≤ 4 then ((List.range 32).foldl State.clearHostEnded s.hostCut).openHif
    else (List.range 32).foldl State.clearHostEnded s.hostCut := rfl

theorem hostBlock_of_mbxKey {k : Nat} (h : mbxKey k = true) : hostBlock (k / 64) = false := by
  rw [mbxKey, Bool.and_eq_true] at h
  have hlo := of_decide_eq_true h.1
  have hhi := of_decide_eq_true h.2
  have h1 : ¬ k / 64 < 0x20000 := by omega
  have h2 : ¬ 0x30000 ≤ k / 64 := by omega
  rw [hostBlock, decide_eq_false h1, decide_eq_false h2, Bool.and_false, Bool.false_and]
  rfl

/-- R309: ending the jobs and clearing the host's own registers leaves the mailbox. -/
theorem State.mbxView_hostCut (s : State) : s.hostCut.mbxView = s.mbxView := by
  unfold State.hostCut
  extract_lets s1
  have h1 : s1.mbxView = s.mbxView := State.mbxView_foldl (fun (t : State) (j : Job) => State.mbxView_endJob t j.id 1 0) _ s
  clear_value s1
  have hregs : ∀ k, (if mbxKey k then mapFind (s1.regs.filter fun p => !hostBlock (p.1 / 64)) k else none) =
      if mbxKey k then mapFind s1.regs k else none := by
    intro k
    split
    · next hk => rw [mapFind_filter_key (fun j => !hostBlock (j / 64)), hostBlock_of_mbxKey hk, Bool.not_false, if_pos rfl]
    · rfl
  rw [← h1]
  simp only [State.mbxView, hregs]

theorem State.mbxView_openHif (s : State) : s.openHif.mbxView = s.mbxView := by
  rw [State.openHif, State.mbxView_wr_of_key _ R.HIF_CFG_LOCK _ (by decide), State.mbxView_wr_of_key _ R.HIF_CFG_ENABLE _ (by decide)]

/-- R309, R325: a function level reset empties the channels with a host MID at either end. -/
theorem functionLevelReset_empties_host_channels {s : State} {m : Nat} (hm : m < 32) (hwf : s.MbxWf) (hon : s.power.on = true)
    (hhost : s.hostEnded m = true) : Completes .functionLevelReset s fun t => t.ChanEmpty m := by
  have hexec : exec .functionLevelReset s = .next s.hostReset := by
    show execFunctionLevelReset s = _
    rw [execFunctionLevelReset, hon, if_pos rfl]
  refine ⟨_, hexec, ?_⟩
  have hv := State.mbxView_hostCut s
  have hempty := State.chanEmpty_foldl_clearHostEnded hm (State.mbxWf_of_mbxView hv hwf)
    ((State.hostEnded_of_mbxBinding (State.mbxBinding_of_mbxView hv hm)).trans hhost)
  rw [State.hostReset_eq]
  split
  · exact State.chanEmpty_of_mbxView (State.mbxView_openHif _) hempty
  · exact hempty

/-- Settles O6: each clause by what its command does to the channels; the function level reset by the end of a job leaving the
mailbox as it is, and by the channel's own turn in the run over all 32. -/
theorem mailboxFull : Obligations.MailboxFull := by
  unfold Obligations.MailboxFull
  intro s m hwf
  have hmbx := State.mbxWf_of_memWf hwf
  refine ⟨?_, ?_, ?_, ?_, ?_⟩
  · intro mid hup hlive hmid hfull
    exact send_refused_when_full hup hlive hmid hfull
  · intro rcv snd hup hlive hrcv hsnd hdb
    exact send_accepted_after_clear hmbx hup hlive hrcv hsnd hdb
  · intro mid o v ho n _
    exact stage_write_keeps_held s mid m ho n v
  · exact resetN_empties_channels
  · intro hon hends
    obtain ⟨t, hexec, hslot, hstage, hfull⟩ := functionLevelReset_empties_host_channels m.isLt hmbx hon
      (by simpa only [State.hostEnded, Bool.or_eq_true] using hends)
    exact ⟨t, hexec, hslot, hstage, hfull⟩

end Sys2Proof.Machine
end

section
/-! SUPPORT. What a job's end leaves of what the completions are made of (R318): the rings' registers, the jobs as the host knows
them, the time, and the form of host memory. The shared operations keep it: events, reads with their error handling, and stores. -/

namespace Sys2Proof.Machine

/-- The register file's keys of the submission and completion rings (R310), but for the heads and tails of the submission rings,
which reading an entry moves. -/
def ringKey (k : Nat) : Bool := decide (0x11000 * 64 ≤ k ∧ k < 0x13000 * 64 ∧ k / 64 % 0x20 ≠ 0x18)

theorem ringKey_iff (k : Nat) : ringKey k = true ↔ 0x11000 * 64 ≤ k ∧ k < 0x13000 * 64 ∧ k / 64 % 0x20 ≠ 0x18 := decide_eq_true_iff

/-- A job without the notes that commands made on its behalf: its event records, its outputs and their poison, and what it has
already raised. -/
def Job.core (j : Job) : Job :=
  { j with events := [], evLost := 0, poisoned := false, outs := [], tornSeen := [] }

/-- The time and the rings' registers are those of `s`, and host memory has its canonical form if it had it in `s`. -/
structure State.RingsKept (s t : State) : Prop where
  time : t.time = s.time
  regs : ∀ k, ringKey k = true → mapFind t.regs k = mapFind s.regs k
  host : mapWf (0 : Byte) s.hostMem = true → mapWf (0 : Byte) t.hostMem = true

/-- The rings are kept, and every job but for the notes made on its behalf. -/
structure State.OwedKept (s t : State) : Prop extends State.RingsKept s t where
  jobs : t.jobs.map Job.core = s.jobs.map Job.core

theorem State.RingsKept.refl (s : State) : s.RingsKept s := ⟨rfl, fun _ _ => rfl, id⟩

theorem State.RingsKept.trans {s t u : State} (h1 : s.RingsKept t) (h2 : t.RingsKept u) : s.RingsKept u :=
  ⟨h2.time.trans h1.time, fun k hk => (h2.regs k hk).trans (h1.regs k hk), fun h => h2.host (h1.host h)⟩

theorem State.OwedKept.refl (s : State) : s.OwedKept s := ⟨State.RingsKept.refl s, rfl⟩

/-- A field of the rings reads as before. -/
theorem State.RingsKept.rd {s t : State} (h : s.RingsKept t) {f : Fld} (hk : ringKey f.key = true) (hf : f.fused = false) :
    t.rd f = s.rd f := by
  simp only [State.rd, State.raw, h.regs f.key hk, hf, Bool.false_eq_true, if_false]

theorem ringKey_eq_false {k : Nat} (h : k < 0x11000 * 64 ∨ 0x13000 * 64 ≤ k) : ringKey k = false := by
  rw [← Bool.not_eq_true, ringKey_iff]
  omega

theorem ringKey_eq_false_of_aboveMbx {f : Fld} (h : f.aboveMbx = true) : ringKey f.key = false := by
  have ha : 0x30000 ≤ f.addr := of_decide_eq_true h
  refine ringKey_eq_false (.inr ?_)
  unfold Fld.key
  omega

/-! ### Jobs by number -/

/-- Equal jobs but for their notes: the job of a number is in both states or in neither, equal but for its notes. -/
theorem State.job?_core {s t : State} (h : t.jobs.map Job.core = s.jobs.map Job.core) (i : Nat) :
    (t.job? i).map Job.core = (s.job? i).map Job.core := by
  have hmap : ∀ u : State, (u.job? i).map Job.core = (u.jobs.map Job.core).find? fun j => j.id = i := fun u => by
    rw [List.find?_map]
    rfl
  rw [hmap, hmap, h]

theorem State.OwedKept.job? {s t : State} (h : s.OwedKept t) {i : Nat} {j : Job} (hj : s.job? i = some j) :
    ∃ k, t.job? i = some k ∧ k.core = j.core := by
  have := State.job?_core h.jobs i
  rw [hj] at this
  exact Option.map_eq_some_iff.1 this

/-- The job of a number after a change of that job which keeps its number. -/
theorem State.job?_updJob {s : State} {i : Nat} {j : Job} {f : Job → Job} (hf : (f j).id = j.id) (hj : s.job? i = some j) :
    (s.updJob i f).job? i = some (f j) := by
  rw [State.job?] at hj
  rw [State.job?, State.updJob]
  dsimp only
  generalize s.jobs = js at hj ⊢
  induction js with
  | nil => exact absurd hj (by simp)
  | cons x xs ih =>
    rw [List.find?_cons] at hj
    rw [List.map_cons, List.find?_cons]
    by_cases hx : x.id = i
    · simp only [hx, decide_true, Option.some.injEq] at hj
      subst hj
      simp only [hx, if_true, hf, decide_true]
    · simp only [hx, decide_false] at hj
      simp only [hx, if_false, decide_false]
      exact ih hj

theorem State.job?_id {s : State} {i : Nat} {j : Job} (hj : s.job? i = some j) : j.id = i := by
  simpa using List.find?_some hj

/-! ### Elementary changes -/

namespace State.OwedKept

variable {s0 s : State}

/-- A change of anything but the registers, the time, the jobs and host memory. -/
theorem of_eq (h : s0.OwedKept s) {t : State} (htime : t.time = s.time) (hregs : t.regs = s.regs) (hjobs : t.jobs = s.jobs)
    (hhost : t.hostMem = s.hostMem) : s0.OwedKept t where
  time := htime.trans h.time
  regs := by rw [hregs]; exact h.regs
  host := by rw [hhost]; exact h.host
  jobs := by rw [hjobs]; exact h.jobs

theorem updDie (h : s0.OwedKept s) (d : Nat) (f : Die → Die) : s0.OwedKept (s.updDie d f) := h.of_eq rfl rfl rfl rfl

theorem updGroup (h : s0.OwedKept s) (d g : Nat) (f : Group → Group) : s0.OwedKept (s.updGroup d g f) := h.of_eq rfl rfl rfl rfl

theorem updSunit (h : s0.OwedKept s) (d u : Nat) (f : SUnit → SUnit) : s0.OwedKept (s.updSunit d u f) := h.of_eq rfl rfl rfl rfl

theorem updSage (h : s0.OwedKept s) (f : Sage → Sage) : s0.OwedKept (s.updSage f) := h.of_eq rfl rfl rfl rfl

theorem updFab (h : s0.OwedKept s) (f : Fab → Fab) : s0.OwedKept (s.updFab f) := h.of_eq rfl rfl rfl rfl

theorem wr_of_key (h : s0.OwedKept s) (f : Fld) (v : Nat) (hf : ringKey f.key = false) : s0.OwedKept (s.wr f v) where
  time := h.time
  regs k hk := by
    have hne : f.key ≠ k := fun he => by rw [he, hk] at hf; exact absurd hf (by decide)
    rw [State.wr, mapFind_mapPut_ne _ _ hne]
    exact h.regs k hk
  host := h.host
  jobs := h.jobs

theorem wr (h : s0.OwedKept s) (f : Fld) (v : Nat) (hf : f.aboveMbx = true) : s0.OwedKept (s.wr f v) :=
  h.wr_of_key f v (ringKey_eq_false_of_aboveMbx hf)

/-- The registers of the compute dies are none of the rings'. -/
theorem wrDie (h : s0.OwedKept s) (d k lo w rst : Nat) (fused : Bool) (v : Nat) :
    s0.OwedKept (s.wr ⟨cdBase d + k, lo, w, rst, fused⟩ v) :=
  h.wr _ v (Fld.aboveMbx_cdBase d k lo w rst fused)

theorem wrDieElem (h : s0.OwedKept s) (d j k lo w rst : Nat) (fused : Bool) (v : Nat) :
    s0.OwedKept (s.wr ⟨cdBase d + j + k, lo, w, rst, fused⟩ v) :=
  h.wr _ v (Fld.aboveMbx_cdBase_elem d j k lo w rst fused)

theorem toHost (h : s0.OwedKept s) (a : Nat) (bs : List Byte) : s0.OwedKept (s.toHost a bs) :=
  ⟨⟨h.time, h.regs, fun h0 => mapWf_mapPutBytes bs a (h.host h0)⟩, h.jobs⟩

/-- A job's notes changed. -/
theorem updJob (h : s0.OwedKept s) (i : Nat) {f : Job → Job} (hf : ∀ j, (f j).core = j.core) : s0.OwedKept (s.updJob i f) where
  toRingsKept := ⟨h.time, h.regs, h.host⟩
  jobs := by
    rw [← h.jobs, State.updJob, List.map_map]
    refine List.map_congr_left fun j _ => ?_
    rw [Function.comp_apply]
    split
    · exact hf j
    · rfl

theorem ite {c : Prop} [Decidable c] {x y : State} (hx : s0.OwedKept x) (hy : s0.OwedKept y) : s0.OwedKept (if c then x else y) := by
  split
  · exact hx
  · exact hy

/-- What every step of a fold keeps, the fold keeps; `view` picks the state out of what the fold carries. -/
theorem foldl_view {σ α : Type} (view : σ → State) {f : σ → α → σ} (hf : ∀ x a, s0.OwedKept (view x) → s0.OwedKept (view (f x a)))
    (as : List α) {x : σ} (h : s0.OwedKept (view x)) : s0.OwedKept (view (as.foldl f x)) := by
  induction as generalizing x with
  | nil => exact h
  | cons a as ih => exact ih (hf x a h)

theorem foldl {α : Type} {f : State → α → State} (hf : ∀ t a, s0.OwedKept t → s0.OwedKept (f t a)) (as : List α)
    (h : s0.OwedKept s) : s0.OwedKept (as.foldl f s) :=
  foldl_view id hf as h

/-! ### Messages and events -/

theorem sendMsix (h : s0.OwedKept s) (v : Nat) : s0.OwedKept (s.sendMsix v) := by
  unfold State.sendMsix
  split
  · exact h.wr _ _ (Fld.aboveMbx_of_base _ _ _ _ _ (by decide))
  · exact h.of_eq rfl rfl rfl rfl

theorem toEventRing (h : s0.OwedKept s) (cls : Nat) (rec : List Byte) : s0.OwedKept (s.toEventRing cls rec) := by
  unfold State.toEventRing
  split
  · dsimp only
    split
    · exact (h.wr_of_key _ _ (by decide)).wr_of_key _ _ (by decide)
    · exact ((h.toHost _ rec).wr_of_key _ _ (by decide)).sendMsix _
  · exact h

theorem evAllowed (h : s0.OwedKept s) (src : Nat) : s0.OwedKept (s.evAllowed src).2 := by
  rw [State.evAllowed_frame]
  exact h.of_eq rfl rfl rfl rfl

/-- R449–R451: an event is noted in its job and delivered to the host. -/
theorem raise (h : s0.OwedKept s) (e : Event) : s0.OwedKept (s.raise e) := by
  unfold State.raise
  extract_lets cls s1 s2
  have h1 : s0.OwedKept s1 :=
    ((((h.wr _ _ (Fld.aboveMbx_of_base _ _ _ _ _ (by decide))).wr _ _ (by decide)).wr _ _ (by decide)).wr _ _ (by decide)).wr _ _ (by decide)
  have h2 : s0.OwedKept s2 := by
    simp only [s2]
    split
    · exact h1.wr _ _ (alertFld_aboveMbx _)
    · exact h1
  clear_value s2
  have h3 := h2.evAllowed e.src
  generalize s2.evAllowed e.src = p at h3 ⊢
  obtain ⟨ok, s3⟩ := p
  dsimp only at h3 ⊢
  split
  · refine toEventRing (ite h3 (h3.updJob e.job fun j => ?_)) _ _
    split <;> rfl
  · exact h3.wr _ _ (by decide)

/-! ### Entries (R314) -/

/-- R314: reading an entry moves the head of its submission ring. -/
theorem readEntry (h : s0.OwedKept s) (r : Nat) (bytes : List Byte) : s0.OwedKept (s.readEntry r bytes).1 := by
  have hkey : ringKey (R.SQ_STATE_HEAD r).key = false := by
    rw [← Bool.not_eq_true, ringKey_iff]
    simp only [R.SQ_STATE_HEAD, Fld.key]
    omega
  exact (h.wr_of_key _ _ hkey).of_eq rfl rfl rfl rfl

/-! ### Reads with their error handling, and stores -/

theorem setErr (h : s0.OwedKept s) (p : Place) (e : Nat) : s0.OwedKept (s.setErr p e) := h.updDie _ _

theorem plant (h : s0.OwedKept s) (us : List Upset) : s0.OwedKept (s.plant us) := by
  induction us generalizing s with
  | nil => exact h
  | cons u us ih =>
    cases u with
    | row d b r u => exact ih (h.setErr _ _)
    | sector d c sl sec u => exact ih (h.setErr _ _)
    | ondie d c => exact ih (h.updDie _ _)

theorem lastErr (h : s0.OwedKept s) (p : Place) (ue : Bool) (mid : Nat) : s0.OwedKept (s.lastErr p ue mid) := by
  unfold State.lastErr
  dsimp only
  split
  all_goals exact ((((h.wrDie _ _ _ _ _ _ _).wrDie _ _ _ _ _ _ _).wrDie _ _ _ _ _ _ _).wrDie _ _ _ _ _ _ _).wrDie _ _ _ _ _ _ _

theorem eccEvent (h : s0.OwedKept s) (p : Place) (code : Nat) (w : Who) : s0.OwedKept (s.eccEvent p code w) :=
  ite ((h.raise _).wrDie _ _ _ _ _ _ _) (h.raise _)

theorem eccCe (h : s0.OwedKept s) (p : Place) (w : Who) : s0.OwedKept (s.eccCe p w) := by
  unfold State.eccCe
  extract_lets +onlyGivenNames durable fixed
  have h0 : s0.OwedKept fixed := by
    simp only [fixed]
    split
    · exact h.updDie _ _
    · exact h
  clear_value fixed
  extract_lets +onlyGivenNames s1 s2 key now due
  have h1 : s0.OwedKept s1 := (h0.setErr p 0).lastErr p false w.mid
  have h2 : s0.OwedKept s2 := ite (h1.wrDie _ _ _ _ _ _ _) (h1.wrDie _ _ _ _ _ _ _)
  clear_value s2 due
  exact ite ((h2.updDie _ _).eccEvent p _ w) h2

theorem noteSector (h : s0.OwedKept s) (p : Place) : s0.OwedKept (s.noteSector p) := by
  unfold State.noteSector
  extract_lets seen s1 n
  have h1 : s0.OwedKept s1 := h.updDie _ _
  refine ite h (ite (raise ?_ _) h1)
  exact h1.of_eq rfl rfl rfl rfl

theorem eccUe (h : s0.OwedKept s) (p : Place) (w : Who) : s0.OwedKept (s.eccUe p w) := by
  unfold State.eccUe
  extract_lets s1 s2
  have h1 : s0.OwedKept s1 := h.lastErr p true w.mid
  have h2 : s0.OwedKept s2 := ite (h1.wrDie _ _ _ _ _ _ _) (h1.wrDie _ _ _ _ _ _ _)
  exact (h2.eccEvent p _ w).noteSector p

theorem readUnit (h : s0.OwedKept s) (handle o n : Nat) (w : Who) : s0.OwedKept (s.readUnit handle o n w).st := by
  unfold State.readUnit
  dsimp only
  split
  · exact h
  · exact h.eccCe _ w
  · exact h.eccUe _ w

theorem readF (w : Who) (handle f : Nat) (h : s0.OwedKept s) (o n : Nat) : s0.OwedKept (State.readF w handle f s o n).st := by
  induction f generalizing s o n with
  | zero => exact h
  | succ f ih =>
    unfold State.readF
    split
    · exact h
    · exact ih (h.readUnit handle _ _ w) _ _

theorem read (h : s0.OwedKept s) (handle o n : Nat) (w : Who) : s0.OwedKept (s.read handle o n w).st :=
  readF w handle _ h o n

theorem poke (h : s0.OwedKept s) (handle o : Nat) (bs : List Byte) : s0.OwedKept (s.poke handle o bs) := by
  induction bs generalizing s o with
  | nil => exact h
  | cons b bs ih => exact ih (h.updDie _ _) (o + 1)

theorem clearErrs (h : s0.OwedKept s) (handle f o n : Nat) : s0.OwedKept (State.clearErrs handle f s o n) := by
  induction f generalizing s o n with
  | zero => exact h
  | succ f ih =>
    unfold State.clearErrs
    split
    · exact h
    · exact ih (h.setErr _ 0) _ _

theorem write (h : s0.OwedKept s) (handle o : Nat) (bs : List Byte) : s0.OwedKept (s.write handle o bs) :=
  (h.clearErrs handle _ o bs.length).poke handle o bs

/-- R255, R293: a write by an initiator, stored or refused. -/
theorem writeBy (h : s0.OwedKept s) (handle o : Nat) (bs : List Byte) (w : Who) : s0.OwedKept (s.writeBy handle o bs w).1 := by
  unfold State.writeBy
  split
  · dsimp only
    unfold State.narrowError
    split
    · exact h.eccUe _ w
    · exact h
  · exact (h.foldl (fun t a ht => ite (ht.eccCe _ w) ht) _).write handle o bs

/-- R33: a descriptor put in its slot. -/
theorem writeSlot (h : s0.OwedKept s) (r : Nat) (b : List Byte) : s0.OwedKept (s.writeSlot r b) :=
  (h.write _ _ _).of_eq rfl rfl rfl rfl

theorem zeroRange (h : s0.OwedKept s) (handle : Nat) : s0.OwedKept (s.zeroRange handle) :=
  h.foldl (fun _ d ht => ht.updDie d _) _

theorem setTorn (h : s0.OwedKept s) (handle v : Nat) : s0.OwedKept (s.setTorn handle v) := h.wrDieElem _ _ _ _ _ _ _ _

theorem setStale (h : s0.OwedKept s) (handle v : Nat) : s0.OwedKept (s.setStale handle v) := h.wrDieElem _ _ _ _ _ _ _ _

theorem tear (h : s0.OwedKept s) (handle : Nat) : s0.OwedKept (s.tear handle) := ite (h.setTorn handle 1) h

theorem noteTorn (h : s0.OwedKept s) (handle : Nat) (w : Who) : s0.OwedKept (s.noteTorn handle w) := by
  unfold State.noteTorn
  split
  · split
    · split
      · exact h
      · extract_lets s1
        have h1 : s0.OwedKept s1 := raise (h.updJob w.job (f := fun j => { j with tornSeen := handle :: j.tornSeen }) fun _ => rfl) _
        clear_value s1
        exact ite (h1.wrDie _ _ _ _ _ _ _) h1
    · exact h
  · exact h

theorem noteUe (h : s0.OwedKept s) (handle : Nat) (ue : Bool) (job : Nat) : s0.OwedKept (s.noteUe handle ue job) :=
  ite h (ite (h.setStale handle 1) (h.of_eq rfl rfl rfl rfl))

/-- R257, R262: a read by an engine or stream unit. -/
theorem engineRead (h : s0.OwedKept s) (handle o n : Nat) (w : Who) : s0.OwedKept (s.engineRead handle o n w).st :=
  ((h.noteTorn handle w).read handle o n w).noteUe handle _ _

end State.OwedKept

end Sys2Proof.Machine
end

section
/-! SUPPORT. The end of a job (R235, R237) up to its completion keeps what completions are made of: its digests, its lineage, the
closing of its queues over the fabric, and the stop of its dies. -/

namespace Sys2Proof.Machine

namespace State.OwedKept

variable {s0 s : State}

/-! ### Digests -/

theorem readUnits (h : s0.OwedKept s) (handle : Nat) (us : List Nat) (w : Who) : s0.OwedKept (s.readUnits handle us w).1 :=
  foldl_view (fun acc : State × List Nat => acc.1) (fun _ _ ha => (ha.readUnit handle _ 1 w).noteUe handle _ _) us h

theorem readElems (h : s0.OwedKept s) (t : TDesc) (w : Who) : s0.OwedKept (s.readElems t w).1 :=
  foldl_view (fun acc : State × List Nat × Bool => acc.1) (fun _ _ ha => ha.readUnits _ _ w) _ (h.noteTorn _ w)

theorem readScales (h : s0.OwedKept s) (t : TDesc) (w : Who) : s0.OwedKept (s.readScales t w).st := by
  refine foldl_view Got.st (fun _ _ ha => ?_) _ (x := ⟨s, [], false⟩) h
  exact ha.engineRead _ _ _ w

theorem hubRead (h : s0.OwedKept s) (handle o n job : Nat) : s0.OwedKept (s.hubRead handle o n job).st := by
  unfold State.hubRead
  split
  · exact h.read handle o n _
  · exact h

theorem objData (h : s0.OwedKept s) (b : List Byte) (job : Nat) : s0.OwedKept (s.objData b job).1 := by
  unfold State.objData
  split
  · exact (h.readElems _ _).readScales _ _
  · exact foldl_view (fun acc : State × List (List Byte) => acc.1) (fun _ _ ha => ha.hubRead _ _ _ job) _ h

/-- R459: the digest of a job's outputs reads storage alone. -/
theorem odigest (h : s0.OwedKept s) (j : Job) : s0.OwedKept (s.odigest j).1 :=
  foldl_view (fun acc : State × List Byte => acc.1) (fun _ p ha => ha.objData p.2 j.id) j.outs h

/-! ### Lineage -/

theorem countRecs (h : s0.OwedKept s) : s0.OwedKept s.countRecs :=
  (h.wr _ _ (by decide)).wr _ _ (by decide)

theorem freeRecs (h : s0.OwedKept s) (base n : Nat) : s0.OwedKept (s.freeRecs base n) := (h.updSage _).countRecs

theorem freeJobRecs (h : s0.OwedKept s) (job : Nat) : s0.OwedKept (s.freeJobRecs job) := (h.updSage _).countRecs

/-- R352: a handle's four binding fields written. -/
theorem wrBind (h : s0.OwedKept s) (d i l g v p : Nat) :
    s0.OwedKept ((((s.wr (R.SAGE_BIND_LINEAGE d i) l).wr (R.SAGE_BIND_GROUPM1 d i) g).wr (R.SAGE_BIND_V d i) v).wr (R.SAGE_BIND_POISON d i) p) := by
  have hb : (R.SAGE_BIND_LINEAGE d i).aboveMbx = true ∧ (R.SAGE_BIND_GROUPM1 d i).aboveMbx = true ∧
      (R.SAGE_BIND_V d i).aboveMbx = true ∧ (R.SAGE_BIND_POISON d i).aboveMbx = true := by
    simp [R.SAGE_BIND_LINEAGE, R.SAGE_BIND_GROUPM1, R.SAGE_BIND_V, R.SAGE_BIND_POISON]
  obtain ⟨hl, hg, hv, hp⟩ := hb
  exact (((h.wr _ l hl).wr _ g hg).wr _ v hv).wr _ p hp

theorem setBind (h : s0.OwedKept s) (handle l g p : Nat) : s0.OwedKept (s.setBind handle l g p) := by
  have h1 := h.wrBind (hDie handle) (hIdx handle) l g 1 p
  exact ite (h1.freeRecs _ _) h1

theorem clearBind (h : s0.OwedKept s) (handle : Nat) : s0.OwedKept (s.clearBind handle) :=
  ite ((h.wrBind (hDie handle) (hIdx handle) 0 0 0 0).freeRecs _ _) h

theorem bindDesc (h : s0.OwedKept s) (x : Desc) : s0.OwedKept (s.bindDesc x) :=
  h.foldl (fun _ _ ht => ite (ht.setBind _ _ _ _) ht) _

theorem sumSite (h : s0.OwedKept s) (D : List Byte) (site job n : Nat) (ins : List Desc) (mf : Manifest) :
    s0.OwedKept (s.sumSite D site job n ins mf).2 := by
  unfold State.sumSite
  extract_lets seen
  generalize seen.foldl (sumStep s.recUe) (mf, s.sage.records) = p
  obtain ⟨m1, recs⟩ := p
  dsimp only
  have h1 : ∀ m, s0.OwedKept ((s.updSage fun g => { g with records := recs }).putManifest m) := fun _ => (h.updSage _).updSage _
  split
  · exact h1 _
  · split
    · exact ite (h1 _) ((h1 _).raise _)
    · exact h1 _

theorem assign (h : s0.OwedKept s) {t : State} {rs : List LinRec} {i : Nat} (ht : s.assign rs = some (i, t)) : s0.OwedKept t := by
  unfold State.assign at ht
  dsimp only at ht
  split at ht
  · cases ht
    exact (h.updSage _).countRecs
  · cases ht

theorem assignRecs (h : s0.OwedKept s) (site job : Nat) (rs : List LinRec) : s0.OwedKept (s.assignRecs site job rs).2 := by
  unfold State.assignRecs
  split
  · next ht => exact h.assign ht
  · dsimp only
    exact h.raise _

/-- R350, R355, R357: the records of an output lie in Sage's table. -/
theorem lineage (h : s0.OwedKept s) (D : List Byte) (site job n : Nat) (ins : List Desc) (constOnly sums : Bool) :
    s0.OwedKept (s.lineage D site job n ins constOnly sums).2 := by
  unfold State.lineage
  split
  next rs s1 hs1 =>
  have h1 : s0.OwedKept s1 := by
    split at hs1
    · next mf _ =>
      have h2 := h.sumSite D site job n ins mf
      rwa [hs1] at h2
    · cases hs1
      exact h
  exact h1.assignRecs site job rs

/-! ### The fabric -/

theorem putConn (h : s0.OwedKept s) (c : Conn) : s0.OwedKept (s.putConn c) := h.updFab _

theorem launch (h : s0.OwedKept s) {t : State} {epid p : Nat} {body : List Byte} (ht : s.launch epid body = some (p, t)) :
    s0.OwedKept t := by
  unfold State.launch at ht
  extract_lets hdr kx theirs at ht
  split at ht
  · split at ht
    · dsimp only at ht
      cases ht
      exact ite (h.updFab _) ((h.updFab _).putConn _)
    · cases ht
  · cases ht

/-- R335, R336: a frame sent or held back changes the fabric alone. -/
theorem sendFrame (h : s0.OwedKept s) (epid : Nat) (hdr : Hdr) (payload : List Byte) : s0.OwedKept (s.sendFrame epid hdr payload) := by
  unfold State.sendFrame
  dsimp only
  split
  · exact h.putConn _
  · split
    · next hl => exact (h.launch hl).putConn _
    · exact h.putConn _

theorem updBind (h : s0.OwedKept s) (i : Nat) (f : RxBind → RxBind) : s0.OwedKept (s.updBind i f) := by
  unfold State.updBind
  split
  · exact h.updFab _
  · exact h

theorem closeReader (h : s0.OwedKept s) (d q : Nat) : s0.OwedKept (s.closeReader d q) := by
  have h1 : s0.OwedKept (s.wr (R.QCH_QSTAT_RCLOSED d q) 1) := h.wrDieElem _ _ _ _ _ _ _ _
  unfold State.closeReader
  split
  · exact h
  · dsimp only
    split
    · exact (h1.updBind _ _).sendFrame _ _ _
    · exact h1

theorem closeQueues (h : s0.OwedKept s) (d : Nat) : s0.OwedKept (s.closeQueues d) :=
  h.foldl (fun _ q ht => ite ht ((ht.closeReader d q).wrDieElem _ _ _ _ _ _ _ _)) _

/-! ### Stopping a die -/

theorem commitAbort (h : s0.OwedKept s) (j : Job) (r : Nat) (x : Desc) : s0.OwedKept (s.commitAbort j r x) := by
  unfold State.commitAbort
  extract_lets y s1
  have h1 : s0.OwedKept s1 := (h.writeSlot r _).updJob j.id fun _ => rfl
  exact ite (h1.bindDesc _) h1

theorem abortCommit (h : s0.OwedKept s) (j : Job) (d g : Nat) (op : Issued) (i : Nat) : s0.OwedKept (s.abortCommit j d g op i) := by
  unfold State.abortCommit
  dsimp only
  split
  · split
    · exact h.commitAbort j _ _
    · have h1 := h.lineage j.digest op.site j.id ((s.actsOn d g op).getD (s.slotDesc (op.dout i))).M
        [(s.actsOn d g op).getD (s.slotDesc (op.dout i))] false false
      split
      · next hl =>
        rw [hl] at h1
        exact h1.commitAbort j _ _
      · next hl => rwa [hl] at h1
  · exact h

theorem stopGroup (h : s0.OwedKept s) (j : Job) (d g : Nat) : s0.OwedKept (s.stopGroup j d g) := by
  unfold State.stopGroup
  refine updGroup ?_ _ _ _
  split
  · split
    · exact h.foldl (fun _ _ ht => ite (ht.commitAbort j _ _) ht) _
    · exact h.foldl (fun _ a ht => ht.tear a) _
  · split
    · exact ite ((h.abortCommit j d g _ 0).abortCommit j d g _ 1) h
    · exact h

theorem stopUnit (h : s0.OwedKept s) (d u : Nat) : s0.OwedKept (s.stopUnit d u) := by
  unfold State.stopUnit
  extract_lets x s1
  have h1 : s0.OwedKept s1 := by
    simp only [s1]
    split
    · exact ite (h.tear _) h
    · exact h
  exact (h1.updSunit d u _).wrDie _ _ _ _ _ _ _

theorem landFlight (h : s0.OwedKept s) (f : Flight) : s0.OwedKept (s.landFlight f) := by
  have h1 : s0.OwedKept { s with flights := s.flights.filter fun g => g.seq != f.seq } := h.of_eq rfl rfl rfl rfl
  unfold State.landFlight State.landing
  dsimp only
  split
  · exact h1.writeBy _ _ _ _
  · exact h1

theorem clearDie (h : s0.OwedKept s) (d : Nat) : s0.OwedKept (s.clearDie d) := by
  have h1 : s0.OwedKept ((s.closeQueues d).stopCopies d) := (h.closeQueues d).foldl (fun _ a ht => ht.tear a) _
  have h2 : s0.OwedKept (((s.closeQueues d).stopCopies d).landAll d) := h1.foldl (fun _ f ht => ht.landFlight f) _
  exact ((h2.updFab _).updDie d _).wrDie _ _ _ _ _ _ _

/-- R237: every engine, unit, key and queue of a die of an ending job stopped. -/
theorem stopDie (h : s0.OwedKept s) (j : Job) (d : Nat) :
    s0.OwedKept (((List.range 16).foldl (fun (t : State) u => t.stopUnit d u)
      ((List.range 4).foldl (fun (t : State) g => t.stopGroup j d g) s)).clearDie d) :=
  ((h.foldl (fun _ g ht => ht.stopGroup j d g) _).foldl (fun _ u ht => ht.stopUnit d u) _).clearDie d

/-! ### The records of an ending job -/

theorem endReplay (h : s0.OwedKept s) (j : Job) (outcome : Nat) (odig : List Byte) : s0.OwedKept (s.endReplay j outcome odig) := by
  have h1 : s0.OwedKept (s.wr R.RPL_STATUS_RUNNING 0) := h.wr _ _ (by decide)
  exact ite h (ite h1 (ite (h1.wr _ _ (by decide)) ((h1.wr _ _ (by decide)).raise _)))

theorem writeWatches (h : s0.OwedKept s) (j : Job) (part : Bool) : s0.OwedKept (s.writeWatches j part) := ite h (h.toHost _ _)

theorem scrubTransient (h : s0.OwedKept s) (j : Job) : s0.OwedKept (s.scrubTransient j) :=
  h.foldl (fun _ a ht => ite ((((ht.zeroRange a).wrDieElem _ _ _ _ _ _ _ _).setTorn a 0).clearBind a) ht) _

theorem noteFailed (h : s0.OwedKept s) (job : Nat) : s0.OwedKept (s.noteFailed job) := ite (h.updSage _) (h.wr _ _ (by decide))

theorem applyStale (h : s0.OwedKept s) (job : Nat) : s0.OwedKept (s.applyStale job) :=
  (h.foldl (fun _ p ht => (ht.setStale p.2 1).clearBind p.2) _).of_eq rfl rfl rfl rfl

theorem endHorizons (h : s0.OwedKept s) (dies : List Nat) : s0.OwedKept (s.endHorizons dies) :=
  h.foldl (fun _ _ ht => ht.wr _ _ (Fld.aboveMbx_of_base _ _ _ _ _ (by decide))) dies

end State.OwedKept

end Sys2Proof.Machine
end

section
/-! SUPPORT. What a job's end posts (R235 step 6, R237, R318, R418): the completion with the mark of a missed deadline, on the ring
where it is owed, in a state where the job has ended. -/

namespace Sys2Proof.Machine

/-! ### The end of a job up to its completion -/

/-- The hub counter has passed the job's deadline (R418). -/
def State.overdue (s : State) (j : Job) : Bool := j.deadline != 0 && decide (j.deadline < s.time)

theorem State.RingsKept.updJob {s0 s : State} (h : s0.RingsKept s) (i : Nat) (f : Job → Job) : s0.RingsKept (s.updJob i f) :=
  ⟨h.time, h.regs, h.host⟩

/-- R418: the mark that a job's end gives the job, where `u` is the state after DEADLINE_MISSED has been raised. -/
theorem State.marked_job {s s1 u : State} {id : Nat} {j : Job} (h1 : s.OwedKept s1) (hu : s.OwedKept u) (hj : s.job? id = some j) :
    let s2 : State := if s1.overdue j then u.updJob id fun k => { k with missed := true } else s1
    s.RingsKept s2 ∧ ∃ k, s2.job? id = some k ∧ k.core = { j with missed := s.overdue j || j.missed }.core := by
  have htime : s1.overdue j = s.overdue j := by simp only [State.overdue, h1.time]
  rw [htime]
  cases s.overdue j with
  | true =>
    obtain ⟨k, hk, hcore⟩ := hu.job? hj
    refine ⟨hu.toRingsKept.updJob id _, { k with missed := true }, State.job?_updJob (f := fun k => { k with missed := true }) rfl hk, ?_⟩
    exact congrArg (fun x : Job => { x with missed := true }) hcore
  | false => exact ⟨h1.toRingsKept, h1.job? hj⟩

/-- What a completion takes from its job. -/
theorem Job.completion_fields {k j : Job} {missed : Bool} (h : k.core = { j with missed := missed }.core) :
    k.cq = j.cq ∧ k.ring = j.ring ∧ k.tag = j.tag ∧ k.sqHead = j.sqHead ∧ k.missed = missed :=
  ⟨(congrArg Job.cq h :), (congrArg Job.ring h :), (congrArg Job.tag h :), (congrArg Job.sqHead h :), (congrArg Job.missed h :)⟩

/-- R235 step 6, R237: the end of a live job ends it, and posts the completion that its entry reserved room for. -/
theorem State.endJob_posts {s : State} {id : Nat} {j : Job} (outcome code : Nat) (hj : s.job? id = some j) (hlive : j.live = true) :
    ∃ (u : State) (k : Compl), s.RingsKept u ∧ u.ended id ∧
      s.endJob id outcome code = u.postOwed j.cq j.ring j.tag 1 j.sqHead k ∧
      k.stage = 1 ∧ k.missed = (s.overdue j || j.missed) ∧ k.aborted = decide (outcome = 1) := by
  unfold State.endJob
  split
  · next hnone => rw [hj] at hnone; cases hnone
  next j0 hj0 =>
  obtain rfl : j = j0 := Option.some.inj (hj.symm.trans hj0)
  rw [hlive, Bool.not_true, if_neg (by decide)]
  extract_lets running s1 s2 j2
  have h1 : s.OwedKept s1 := .ite ((OwedKept.refl s).foldl (fun _ d ht => ht.stopDie j d) _) (.refl s)
  have h2 := State.marked_job h1 (.ite h1 (h1.raise { code := Ev.DEADLINE_MISSED, unit := Unit.POWER, job := id })) hj
    (u := if j.missed then s1 else s1.raise { code := Ev.DEADLINE_MISSED, unit := Unit.POWER, job := id })
  change s.RingsKept s2 ∧ ∃ k, s2.job? id = some k ∧ _ at h2
  clear_value s2
  obtain ⟨hr2, k2, hk2, hcore2⟩ := h2
  have h3 := (OwedKept.refl s2).odigest j2
  generalize s2.odigest j2 = p at h3 ⊢
  obtain ⟨s3, odig⟩ := p
  dsimp only at h3
  dsimp -zeta only
  extract_lets s4 j4 s5 s6 s7 s8 s9 s10 s11 s12
  have h4 : s2.OwedKept s4 := h3.endReplay j2 outcome odig
  obtain ⟨k4, hk4, hcore4⟩ := h4.job? hk2
  have hj4 : j4.core = { j with missed := s.overdue j || j.missed }.core := by
    simp only [j4, hk4, Option.getD_some, hcore4, hcore2]
  have h6 : s2.OwedKept s6 := (h4.writeWatches j4 _).toHost _ _
  have h7 : s2.OwedKept s7 := .ite (h6.scrubTransient j4) h6
  obtain ⟨k7, hk7, -⟩ := h7.job? hk2
  have hk8 : s8.job? id = some { k7 with phase := .ended } := State.job?_updJob (f := fun k => { k with phase := .ended }) rfl hk7
  have h9 : s8.OwedKept s9 := (OwedKept.refl s8).of_eq rfl rfl rfl rfl
  have h10 : s8.OwedKept s10 := (h9.updSage _).freeJobRecs id
  have h12 : s8.OwedKept s12 :=
    ((OwedKept.ite (h10.noteFailed id) h10).applyStale id).endHorizons j4.dieMap |>.wr _ _ (by decide)
  obtain ⟨k12, hk12, hcore12⟩ := h12.job? hk8
  have hended : s12.ended id := by
    rw [State.ended, hk12]
    exact congrArg some (congrArg Job.phase hcore12)
  have hrings : s.RingsKept s12 := (hr2.trans (h7.toRingsKept.updJob id _)).trans h12.toRingsKept
  obtain ⟨hcq, hring, htag, hhead, hmissed⟩ := Job.completion_fields hj4
  rw [hcq, hring, htag, hhead]
  exact ⟨s12, _, hrings, hended, rfl, rfl, hmissed, rfl⟩

/-! ### A completion on a ring (R318) -/

/-- R318, R321: what a completion on a ring leaves alone; its bytes stand in host memory where the ring's tail pointed. -/
theorem State.postTo_frame (s : State) (c ring tag kind sqHead : Nat) (k : Compl) : s.postTo c ring tag kind sqHead k =
    { s with regs := (s.postTo c ring tag kind sqHead k).regs, msix := (s.postTo c ring tag kind sqHead k).msix, coal := (s.postTo c ring tag kind sqHead k).coal, hostMem := mapPutBytes s.hostMem (s.complOn c) (complBytes ring tag kind sqHead (s.rd (R.CQ_STATE_PHASE c)) k) } := by
  unfold State.postTo
  extract_lets tail phase s1 next s2 urgent
  have h1 : s1 = { s with hostMem := mapPutBytes s.hostMem (s.complOn c) (complBytes ring tag kind sqHead (s.rd (R.CQ_STATE_PHASE c)) k) } := rfl
  clear_value s1
  have h2 : s2 = { s1 with regs := s2.regs } := rfl
  rw [h1] at h2
  clear_value s2
  dsimp only
  split
  · unfold State.signalCq
    rw [State.sendMsix_frame, h2]
  · rw [h2]

theorem State.postTo_hostMem (s : State) (c ring tag kind sqHead : Nat) (k : Compl) : (s.postTo c ring tag kind sqHead k).hostMem =
    mapPutBytes s.hostMem (s.complOn c) (complBytes ring tag kind sqHead (s.rd (R.CQ_STATE_PHASE c)) k) := by
  rw [State.postTo_frame]

theorem State.postTo_posted {s : State} (c ring tag kind sqHead : Nat) (k : Compl) (h : mapWf (0 : Byte) s.hostMem = true) :
    PostedOn s (s.postTo c ring tag kind sqHead k) c ring tag kind sqHead k := by
  have hread := mapBytes_mapPutBytes (s.complOn c) (complBytes ring tag kind sqHead (s.rd (R.CQ_STATE_PHASE c)) k) h
  rw [complBytes_length] at hread
  rw [PostedOn, State.postTo_hostMem, hread]

theorem State.job?_postTo (s : State) (c ring tag kind sqHead : Nat) (k : Compl) (id : Nat) :
    (s.postTo c ring tag kind sqHead k).job? id = s.job? id := by
  rw [State.postTo_frame]
  rfl

/-- A job that has ended is ended when a completion has been posted. -/
theorem State.ended_postTo {s : State} {id : Nat} (h : s.ended id) (c ring tag kind sqHead : Nat) (k : Compl) :
    (s.postTo c ring tag kind sqHead k).ended id := by
  rwa [State.ended, State.job?_postTo]

/-- R318, R321: a completion moves the ring's tail and may turn its phase; other fields outside the event registers read as before. -/
theorem State.rd_postTo (s : State) (c ring tag kind sqHead : Nat) (k : Compl) {f : Fld} (hf : eventReg (f.key / 64) = false)
    (hphase : (R.CQ_STATE_PHASE c).key ≠ f.key) :
    (s.postTo c ring tag kind sqHead k).rd f = (s.wr (R.CQ_STATE_TAIL c) ((s.rd (R.CQ_STATE_TAIL c) + 1) % s.cqSize c)).rd f := by
  unfold State.postTo
  extract_lets tail phase s1 next s2 urgent
  have h2 : s2.rd f = (s.wr (R.CQ_STATE_TAIL c) next).rd f := by
    simp only [s2]
    rw [State.rd_wr_ne _ _ hphase]
    rfl
  clear_value s2
  dsimp only
  split
  · rw [State.signalCq, State.rd_sendMsix _ (State.rd_lt s2 (R.CQ_CFG_VEC c)) hf]
    exact h2
  · exact h2

/-- PostedOn goes by three registers of the ring. -/
theorem postedOn_congr {s u t : State} {c : Nat} (hbase : u.rd (R.CQ_BASE_BASE c) = s.rd (R.CQ_BASE_BASE c))
    (htail : u.rd (R.CQ_STATE_TAIL c) = s.rd (R.CQ_STATE_TAIL c)) (hphase : u.rd (R.CQ_STATE_PHASE c) = s.rd (R.CQ_STATE_PHASE c))
    (r tag kind sqHead : Nat) (k : Compl) : PostedOn u t c r tag kind sqHead k ↔ PostedOn s t c r tag kind sqHead k := by
  simp only [PostedOn, State.complOn, hbase, htail, hphase]

/-- The registers of the 64 completion rings stand among the rings'. -/
theorem ringKey_cq {c : Nat} (hc : c < 64) : ringKey (R.CQ_BASE_BASE c).key = true ∧ ringKey (R.CQ_CFG_LOG2SZ c).key = true ∧
    ringKey (R.CQ_STATE_TAIL c).key = true ∧ ringKey (R.CQ_STATE_PHASE c).key = true := by
  simp only [ringKey_iff, R.CQ_BASE_BASE, R.CQ_CFG_LOG2SZ, R.CQ_STATE_TAIL, R.CQ_STATE_PHASE, Fld.key]
  omega

/-- The registers of the 64 submission rings stand among the rings'. -/
theorem ringKey_sqCfg {r : Nat} (hr : r < 64) : ringKey (R.SQ_CFG_CQ r).key = true := by
  simp only [ringKey_iff, R.SQ_CFG_CQ, Fld.key]
  omega

theorem eventReg_of_ringKey {k : Nat} (h : ringKey k = true) : eventReg (k / 64) = false := by
  rw [ringKey_iff] at h
  simp only [eventReg, Bool.or_eq_false_iff, Bool.and_eq_false_iff, decide_eq_false_iff_not]
  omega

theorem State.RingsKept.postedOn_iff {s u t : State} (h : s.RingsKept u) {c : Nat} (hc : c < 64) (r tag kind sqHead : Nat) (k : Compl) :
    PostedOn u t c r tag kind sqHead k ↔ PostedOn s t c r tag kind sqHead k := by
  obtain ⟨hbase, -, htail, hphase⟩ := ringKey_cq hc
  exact postedOn_congr (h.rd hbase rfl) (h.rd htail rfl) (h.rd hphase rfl) r tag kind sqHead k

/-- R318: on one of the 64 rings a completion that is owed is posted. -/
theorem State.postOwed_of_lt (s : State) {c : Nat} (hc : c < 64) (ring tag kind sqHead : Nat) (k : Compl) :
    s.postOwed c ring tag kind sqHead k = s.postTo c ring tag kind sqHead k :=
  if_pos hc

/-- The tail of a ring of two entries or more moves. -/
theorem tail_moves {tail log : Nat} (hlog : 1 ≤ log) (hw : log < 16) (ht : tail < 2 ^ log) : (tail + 1) % 2 ^ log % 2 ^ 16 ≠ tail := by
  have h2 : 2 ^ 1 ≤ 2 ^ log := Nat.pow_le_pow_right (by decide) hlog
  have h16 : 2 ^ log < 2 ^ 16 := Nat.pow_lt_pow_right (by decide) hw
  have hlt : (tail + 1) % 2 ^ log < 2 ^ log := Nat.mod_lt _ (by omega)
  rw [Nat.mod_eq_of_lt (by omega)]
  by_cases hwrap : tail + 1 = 2 ^ log
  · rw [hwrap, Nat.mod_self]
    omega
  · rw [Nat.mod_eq_of_lt (by omega)]
    omega

/-- Entries of 32 bytes at different indices lie apart. -/
theorem entries_apart (base : Nat) {i k : Nat} (h : k ≠ i) :
    base + 32 * i + 32 ≤ base + 32 * k ∨ base + 32 * k + 32 ≤ base + 32 * i := by
  omega

/-- A completion stands after the next one on the same ring. -/
theorem PostedOn.postTo_next {s : State} {c ring tag kind sqHead : Nat} {k : Compl} (hc : c < 64) (h : mapWf (0 : Byte) s.hostMem = true)
    (hlog : 1 ≤ s.rd (R.CQ_CFG_LOG2SZ c)) (htail : s.rd (R.CQ_STATE_TAIL c) < s.cqSize c) (ring' tag' kind' sqHead' : Nat) (k' : Compl) :
    PostedOn s ((s.postTo c ring tag kind sqHead k).postTo c ring' tag' kind' sqHead' k') c ring tag kind sqHead k := by
  have hposted := State.postTo_posted c ring tag kind sqHead k h
  obtain ⟨hkbase, -, hktail, -⟩ := ringKey_cq hc
  have hapart : ∀ f : Fld, f = R.CQ_BASE_BASE c ∨ f = R.CQ_STATE_TAIL c → (R.CQ_STATE_PHASE c).key ≠ f.key := by
    rintro f (rfl | rfl) <;> simp only [R.CQ_BASE_BASE, R.CQ_STATE_TAIL, R.CQ_STATE_PHASE, Fld.key] <;> omega
  have hbase := State.rd_postTo s c ring tag kind sqHead k (eventReg_of_ringKey hkbase) (hapart _ (.inl rfl))
  have hnext := State.rd_postTo s c ring tag kind sqHead k (eventReg_of_ringKey hktail) (hapart _ (.inr rfl))
  rw [State.rd_wr_ne _ _ (by simp only [R.CQ_BASE_BASE, R.CQ_STATE_TAIL, Fld.key]; omega)] at hbase
  rw [State.rd_wr_self] at hnext
  have hmove := tail_moves hlog (State.rd_lt s _) htail
  rw [PostedOn] at hposted ⊢
  rw [State.postTo_hostMem, mapBytes_mapPutBytes_ne, hposted]
  · rw [State.postTo_hostMem]
    exact mapWf_mapPutBytes _ _ h
  · rw [complBytes_length, State.complOn, State.complOn, hbase, hnext]
    exact entries_apart _ hmove

end Sys2Proof.Machine
end

section
/-! SUPPORT. What DEADLINE_MISSED, JOB_COMPLETE and ABORT do to a job with a deadline (R418), and the obligation. -/

namespace Sys2Proof.Machine

theorem Job.live_iff (j : Job) : j.live = true ↔ j.phase ≠ .ended := by simp [Job.live]

theorem State.overdue_iff {s : State} {j : Job} (hdl : j.deadline ≠ 0) : s.overdue j = true ↔ j.deadline < s.time := by
  simp [State.overdue, hdl]

/-! ### DEADLINE_MISSED -/

/-- R418: raised for a live job that is overdue and not marked. -/
theorem exec_deadlineMissed {s : State} {n : BitVec 48} {j : Job} (hj : s.job? n.toNat = some j) (hlive : j.live = true) :
    exec (.deadlineMissed n) s = .next (if s.overdue j && !j.missed then
      (s.updJob n.toNat fun k => { k with missed := true }).raise
        { code := Ev.DEADLINE_MISSED, unit := Unit.POWER, job := n.toNat } else s) := by
  show execDeadlineMissed n s = _
  rw [execDeadlineMissed, hj, ← State.job?_id hj]
  simp only [hlive, Bool.true_and]
  rfl

/-- R418: the event is raised, and the job is marked and runs on. -/
theorem deadlineMissed_raises {s : State} {n : BitVec 48} {j : Job} (hj : s.job? n.toNat = some j) (hlive : j.live = true)
    (hover : s.overdue j = true) (hmissed : j.missed = false) :
    Completes (.deadlineMissed n) s fun t =>
      t.rd R.EVT_LAST_CODE = Ev.DEADLINE_MISSED ∧
      ∃ k, t.job? n.toNat = some k ∧ k.missed = true ∧ k.phase = j.phase ∧ k.dieMap = j.dieMap := by
  refine ⟨_, exec_deadlineMissed hj hlive, ?_⟩
  rw [hover, hmissed, Bool.not_false, Bool.and_self, if_pos rfl]
  refine ⟨(State.raise_last _ _).1, ?_⟩
  have hmark := State.job?_updJob (f := fun k : Job => { k with missed := true }) rfl hj
  obtain ⟨k, hk, hcore⟩ := ((State.OwedKept.refl _).raise { code := Ev.DEADLINE_MISSED, unit := Unit.POWER, job := n.toNat }).job? hmark
  exact ⟨k, hk, (congrArg Job.missed hcore :), (congrArg Job.phase hcore :), (congrArg Job.dieMap hcore :)⟩

theorem deadlineMissed_idle {s : State} {n : BitVec 48} {j : Job} (hj : s.job? n.toNat = some j) (hlive : j.live = true)
    (h : s.overdue j = false ∨ j.missed = true) : exec (.deadlineMissed n) s = .next s := by
  rw [exec_deadlineMissed hj hlive]
  rcases h with h | h <;> simp [h]

/-! ### The completion of an ended job -/

/-- The completion that a job's end posts, with an outcome: MISSED where the job is overdue or marked. -/
structure Compl.Final (k : Compl) (s : State) (j : Job) (outcome : Nat) : Prop where
  stage : k.stage = 1
  missed : k.missed = (s.overdue j || j.missed)
  aborted : k.aborted = decide (outcome = 1)

/-- MISSED of a job that has been marked after its deadline only (R418). -/
theorem Compl.Final.missed_iff {k : Compl} {s : State} {j : Job} {outcome : Nat} (h : k.Final s j outcome) (hdl : j.deadline ≠ 0)
    (hmarked : j.missed = true → j.deadline < s.time) : k.missed = decide (j.deadline < s.time) := by
  rw [h.missed, Bool.eq_iff_iff, Bool.or_eq_true, State.overdue_iff hdl, decide_eq_true_iff]
  exact ⟨fun h1 => h1.elim id hmarked, .inl⟩

/-- The end of a job of `s` in a state that differs in no ring and in no job but for its notes. -/
theorem State.OwedKept.endJob_posts {s s1 : State} {id : Nat} {j : Job} (h : s.OwedKept s1) (hj : s.job? id = some j)
    (hlive : j.live = true) (hcq : j.cq < 64) (outcome code : Nat) :
    ∃ (u : State) (k : Compl), s.RingsKept u ∧ u.ended id ∧
      s1.endJob id outcome code = u.postTo j.cq j.ring j.tag 1 j.sqHead k ∧ k.Final s j outcome := by
  obtain ⟨j1, hj1, hcore⟩ := h.job? hj
  have hlive1 : j1.live = j.live := (congrArg Job.live hcore :)
  have hover : s1.overdue j1 = s.overdue j := by
    have hdl : j1.deadline = j.deadline := (congrArg Job.deadline hcore :)
    simp only [State.overdue, hdl, h.time]
  obtain ⟨hcq1, hring, htag, hhead, hmissed⟩ := Job.completion_fields (j := j) (missed := j.missed) hcore
  obtain ⟨u, k, hrings, hended, heq, hstage, hmiss, habort⟩ := State.endJob_posts outcome code hj1 (hlive1.trans hlive)
  rw [hcq1, hring, htag, hhead, State.postOwed_of_lt _ hcq] at heq
  rw [hover, hmissed] at hmiss
  exact ⟨u, k, h.toRingsKept.trans hrings, hended, heq, ⟨hstage, hmiss, habort⟩⟩

/-- R318: the end of a job posts its completion where the ring took its next entry in `s`. -/
theorem State.OwedKept.endJob_completes {s s1 : State} {id : Nat} {j : Job} (h : s.OwedKept s1) (hj : s.job? id = some j)
    (hlive : j.live = true) (hcq : j.cq < 64) (hwf : mapWf (0 : Byte) s.hostMem = true) (outcome code : Nat) :
    (s1.endJob id outcome code).ended id ∧
      ∃ k : Compl, k.Final s j outcome ∧ PostedOn s (s1.endJob id outcome code) j.cq j.ring j.tag 1 j.sqHead k := by
  obtain ⟨u, k, hrings, hended, heq, hfinal⟩ := h.endJob_posts hj hlive hcq outcome code
  rw [heq]
  exact ⟨State.ended_postTo hended _ _ _ _ _ k, k, hfinal,
    (hrings.postedOn_iff hcq _ _ _ _ k).1 (State.postTo_posted _ _ _ _ _ k (hrings.host hwf))⟩

/-! ### JOB_COMPLETE -/

/-- R235 steps 5 and 6, R236: a job whose work is done ends completed, or failed where an invariant does not hold. -/
theorem jobComplete_ends {s : State} {n : BitVec 48} {j : Job} (hj : s.job? n.toNat = some j) (hrun : j.phase = .running)
    (hdone : s.workDone j = true) (hcq : j.cq < 64) (hwf : mapWf (0 : Byte) s.hostMem = true) (ups : List Upset) :
    Completes (.jobComplete n ups) s fun t => t.ended j.id ∧
      ∃ (k : Compl) (outcome : Nat), outcome ≠ 1 ∧ k.Final s j outcome ∧ PostedOn s t j.cq j.ring j.tag 1 j.sqHead k := by
  have hid := State.job?_id hj
  have hlive : j.live = true := (Job.live_iff j).2 (by rw [hrun]; decide)
  have hexec : exec (.jobComplete n ups) s = .next (if (s.plant ups).jobDone j then (s.plant ups).endJob j.id 0 0
      else ((s.plant ups).raise { code := Ev.JOB_INVARIANT, unit := Unit.LOADER, job := j.id }).endJob j.id 2 Ev.JOB_INVARIANT) := by
    show execJobComplete n ups s = _
    rw [execJobComplete, hj]
    simp only [hrun, hdone, BEq.rfl, Bool.and_self, if_true]
  refine ⟨_, hexec, ?_⟩
  have hplant : s.OwedKept (s.plant ups) := (State.OwedKept.refl s).plant ups
  rw [← hid] at hj
  split
  · obtain ⟨hended, k, hfinal, hposted⟩ := hplant.endJob_completes hj hlive hcq hwf 0 0
    exact ⟨hended, k, 0, by decide, hfinal, hposted⟩
  · obtain ⟨hended, k, hfinal, hposted⟩ := (hplant.raise _).endJob_completes hj hlive hcq hwf 2 Ev.JOB_INVARIANT
    exact ⟨hended, k, 2, by decide, hfinal, hposted⟩

/-! ### ABORT -/

/-- R322: an ABORT entry on ring `r` that names a job of that ring by its tag, its other fields zero. -/
structure Entry.AbortsOn (e : Entry) (r t : Nat) : Prop where
  kind : e.kind = 6
  ring : e.q 8 = r
  tag : e.q 0x10 = t
  tagFits : t < 2 ^ 32
  zero18 : e.q 0x18 = 0
  zero20 : e.q 0x20 = 0
  zero28 : e.q 0x28 = 0
  zero30 : e.q 0x30 = 0

/-- R322: an entry that names a live job of its own ring ends that job, and is completed itself. -/
theorem exec_abort {s : State} {r : Fin 64} {entry : List Byte} {j : Job} (hup : s.hostUp = true) (hread : s.mayRead r 1 = true)
    (hok : (s.readEntry r entry).1.entryOk (s.readEntry r entry).2 = true) (he : (s.readEntry r entry).2.AbortsOn r.val j.tag)
    (hfind : s.jobs.find? (fun k => k.live && k.ring = r.val && k.tag = j.tag) = some j) :
    exec (.abort r entry) s = .next (((s.readEntry r entry).1.endJob j.id 1 0).postFor (s.readEntry r entry).2 {}) := by
  show execAbort r entry s = _
  have hjobs : (s.readEntry r entry).1.jobs = s.jobs := rfl
  unfold execAbort State.onEntry
  rw [hup, hread, Bool.and_self, if_pos rfl]
  dsimp only
  simp only [hok, he.kind, he.ring, he.tag, he.tagFits, he.zero18, he.zero20, he.zero28, he.zero30, hjobs, hfind, r.isLt, decide_true,
    Bool.and_self, Bool.true_or, Bool.not_true, Bool.false_eq_true, if_false]

/-- R318: the completion of the aborted job stands when the entry's own has followed it on the same ring. -/
theorem abort_posted {s s1 : State} {j : Job} {e : Entry} (h : s.OwedKept s1) (hj : s.job? j.id = some j) (hlive : j.live = true)
    (hcq : j.cq < 64) (hwf : mapWf (0 : Byte) s.hostMem = true) (her : e.ring < 64) (hbound : s.rd (R.SQ_CFG_CQ e.ring) = j.cq)
    (hlog : 1 ≤ s.rd (R.CQ_CFG_LOG2SZ j.cq)) (htail : s.rd (R.CQ_STATE_TAIL j.cq) < s.cqSize j.cq) (c : Compl) :
    ((s1.endJob j.id 1 0).postFor e c).ended j.id ∧
      ∃ k : Compl, k.Final s j 1 ∧ PostedOn s ((s1.endJob j.id 1 0).postFor e c) j.cq j.ring j.tag 1 j.sqHead k := by
  obtain ⟨u, k, hrings, hended, heq, hfinal⟩ := h.endJob_posts hj hlive hcq 1 0
  obtain ⟨-, hklog, hktail, -⟩ := ringKey_cq hcq
  have hsame : (u.postTo j.cq j.ring j.tag 1 j.sqHead k).rd (R.SQ_CFG_CQ e.ring) = j.cq := by
    rw [State.rd_postTo _ _ _ _ _ _ _ (eventReg_of_ringKey (ringKey_sqCfg her)) (by simp only [R.CQ_STATE_PHASE, R.SQ_CFG_CQ, Fld.key]; omega),
      State.rd_wr_ne _ _ (by simp only [R.CQ_STATE_TAIL, R.SQ_CFG_CQ, Fld.key]; omega), hrings.rd (ringKey_sqCfg her) rfl, hbound]
  rw [heq, State.postFor, State.post, hsame]
  refine ⟨State.ended_postTo (State.ended_postTo hended _ _ _ _ _ _) _ _ _ _ _ _, k, hfinal, (hrings.postedOn_iff hcq _ _ _ _ k).1 ?_⟩
  refine PostedOn.postTo_next hcq (hrings.host hwf) ?_ ?_ _ _ _ _ _
  · rwa [hrings.rd hklog rfl]
  · rwa [State.cqSize, hrings.rd hklog rfl, hrings.rd hktail rfl]

/-! ### The obligation -/

/-- Settles O17: the event by the job's mark and raising keeping all but a job's notes; the final completion by the job's end keeping
the rings, the time and the jobs but for their notes up to the completion it posts. -/
theorem deadlinesMissed : Obligations.DeadlinesMissed := by
  unfold Obligations.DeadlinesMissed
  intro s n j hj hlive hdl
  have hid := State.job?_id hj
  refine ⟨?_, ?_, ?_⟩
  · intro hpast hmissed
    exact deadlineMissed_raises hj hlive ((State.overdue_iff hdl).2 hpast) hmissed
  · intro h
    refine deadlineMissed_idle hj hlive (h.imp_left fun hle => ?_)
    rw [← Bool.not_eq_true, State.overdue_iff hdl]
    omega
  intro hmarked hwf hring hcq _
  refine ⟨?_, ?_⟩
  · intro hrun hdone ups
    obtain ⟨t, hexec, hended, k, outcome, hnot, hfinal, hposted⟩ := jobComplete_ends hj hrun hdone hcq hwf ups
    exact ⟨t, hexec, hended, k, hfinal.stage, hfinal.missed_iff hdl hmarked, hfinal.aborted.trans (decide_eq_false hnot), hposted⟩
  · intro r entry hup hread hr hbound e hok hkind hq8 htag htag32 hz1 hz2 hz3 hz4 hfind _ hlog htail
    refine ⟨_, exec_abort hup hread hok ⟨hkind, hq8, htag, htag32, hz1, hz2, hz3, hz4⟩ hfind, ?_⟩
    obtain ⟨hended, k, hfinal, hposted⟩ := abort_posted (e := e) ((State.OwedKept.refl s).readEntry r entry) (hid.symm ▸ hj) hlive hcq hwf
      r.isLt hbound.symm (hbound ▸ hlog) (hbound ▸ htail) {}
    refine ⟨hended, k, hfinal.stage, hfinal.missed_iff hdl hmarked, hfinal.aborted, ?_⟩
    rw [← hr] at hposted
    rwa [Posted, ← hbound]

end Sys2Proof.Machine
end

section
/-! SUPPORT. The counters and alert causes after an event (R440, R449, R450). -/

namespace Sys2Proof.Machine

/-- What raising an event counts, and shows in EVT_LAST (R450). -/
def State.showEvent (s : State) (e : Event) : State :=
  ((((s.sat (R.EVT_COUNT_COUNT (e.code / 256 - 1)) 1).wr R.EVT_LAST_CODE e.code).wr R.EVT_LAST_SRC e.src).wr R.EVT_LAST_UNIT e.unit).wr
    R.EVT_LAST_SITE e.site

/-- What raising an event notes before its record is delivered: `showEvent`, and its cause of PKG_ALERT (R440). -/
def State.noteEvent (s : State) (e : Event) : State :=
  (alertBit e.code).elim (s.showEvent e) fun k => (s.showEvent e).wr (alertFld k) 1

/-- A field from the event counters on stands in an event ring's update. -/
theorem State.rd_toEventRing_of_le (s : State) (cls : Nat) (rec : List Byte) {f : Fld} (hf : 0x40000 ≤ f.key / 64) :
    (s.toEventRing cls rec).rd f = s.rd f := by
  have hring : ∀ (t : State) (g : Fld) (v : Nat), g.key / 64 = 0x10020 → (t.wr g v).rd f = t.rd f := fun t g v hg =>
    State.rd_wr_ne t v (key_ne_of_addr (by omega))
  have hmsix : ∀ (t : State) (v : Nat), v < 256 → (t.sendMsix v).rd f = t.rd f := by
    intro t v hv
    unfold State.sendMsix
    split
    · refine State.rd_wr_ne _ _ (key_ne_of_addr ?_)
      simp only [R.MSIX_PBA_PEND, Fld.key] at hf ⊢
      omega
    · rfl
  unfold State.toEventRing
  split
  · dsimp only
    split
    · rw [hring _ _ _ (by decide), State.sat, hring _ _ _ (by decide)]
    · rw [hmsix _ _ (State.rd_lt s R.HIF_EQ_CFG_VEC), hring _ _ _ (by decide)]
      rfl
  · rfl

/-- The record's delivery, or its drop, leaves what the event noted. -/
theorem State.rd_raise_noted (s : State) (e : Event) {f : Fld} (hf : 0x40000 ≤ f.key / 64) (hdrop : f.key / 64 ≠ 0x40048) :
    (s.raise e).rd f = (s.noteEvent e).rd f := by
  unfold State.raise
  extract_lets cls s1 s2
  have h2 : s2 = s.noteEvent e := by
    simp only [s2, State.noteEvent]
    split <;> next h => rw [h]; rfl
  clear_value s2
  have h3 := State.rd_evAllowed s2 e.src f
  generalize s2.evAllowed e.src = p at h3 ⊢
  obtain ⟨ok, s3⟩ := p
  dsimp only at h3 ⊢
  rw [← h2, ← h3]
  split
  · rw [State.rd_toEventRing_of_le _ _ _ hf]
    split
    · rfl
    · exact State.rd_updJob _ _ _ _
  · exact State.rd_wr_ne _ _ (key_ne_of_addr hdrop.symm)

theorem State.rd_showEvent (s : State) (e : Event) {f : Fld} (hf : f.key / 64 ≠ 0x40040) :
    (s.showEvent e).rd f = (s.sat (R.EVT_COUNT_COUNT (e.code / 256 - 1)) 1).rd f := by
  have hlast : ∀ (t : State) (g : Fld) (v : Nat), g.key / 64 = 0x40040 → (t.wr g v).rd f = t.rd f := fun t g v hg =>
    State.rd_wr_ne t v (key_ne_of_addr (by rw [hg]; exact hf.symm))
  rw [State.showEvent, hlast _ _ _ (by decide), hlast _ _ _ (by decide), hlast _ _ _ (by decide), hlast _ _ _ (by decide)]

/-- The register of an event counter. -/
theorem countFld_addr (k : Nat) : (R.EVT_COUNT_COUNT k).key / 64 = 0x40000 + k * 8 := by
  simp only [R.EVT_COUNT_COUNT, Fld.key]
  omega

/-- The causes of PKG_ALERT stand in one register, a bit each. -/
theorem alertFld_spec (k : Nat) : (alertFld k).key / 64 = 0xC0020 ∧ (alertFld k).w = 1 := by
  unfold alertFld
  split <;> decide

/-! ### Counters -/

/-- R450: raising an event advances the counter of its class, up to its limit, and no other. -/
theorem State.rd_count_raise (s : State) (e : Event) {k : Nat} (hk : k < 8) : (s.raise e).rd (R.EVT_COUNT_COUNT k) =
    if e.code / 256 - 1 = k then satAdd 64 (s.rd (R.EVT_COUNT_COUNT k)) 1 else s.rd (R.EVT_COUNT_COUNT k) := by
  have haddr := countFld_addr k
  have hnoted : (s.noteEvent e).rd (R.EVT_COUNT_COUNT k) = (s.showEvent e).rd (R.EVT_COUNT_COUNT k) := by
    rw [State.noteEvent]
    cases alertBit e.code with
    | none => rfl
    | some c =>
      have halert := (alertFld_spec c).1
      exact State.rd_wr_ne _ _ (key_ne_of_addr (by omega))
  rw [State.rd_raise_noted s e (by omega) (by omega), hnoted, State.rd_showEvent s e (by omega), State.sat]
  by_cases hc : e.code / 256 - 1 = k
  · rw [if_pos hc, hc, State.rd_wr_self]
    exact Nat.mod_eq_of_lt (by simp only [satAdd, R.EVT_COUNT_COUNT]; omega)
  · have hother := countFld_addr (e.code / 256 - 1)
    rw [if_neg hc, State.rd_wr_ne _ _ (key_ne_of_addr (by omega))]

/-- An event counter never goes back. -/
theorem State.count_le_raise (s : State) (e : Event) {k : Nat} (hk : k < 8) :
    s.rd (R.EVT_COUNT_COUNT k) ≤ (s.raise e).rd (R.EVT_COUNT_COUNT k) := by
  have hlt : s.rd (R.EVT_COUNT_COUNT k) < 2 ^ 64 := State.rd_lt s (R.EVT_COUNT_COUNT k)
  rw [State.rd_count_raise s e hk]
  split
  · rw [satAdd]
    omega
  · exact Nat.le_refl _

/-- The counter of an event's class, if below its limit, has advanced past every value that it held before. -/
theorem State.count_lt_raise {s : State} {e : Event} {k n : Nat} (hk : k < 8) (hclass : e.code / 256 - 1 = k)
    (hn : n ≤ s.rd (R.EVT_COUNT_COUNT k)) (hmax : n < 2 ^ 64 - 1) : n < (s.raise e).rd (R.EVT_COUNT_COUNT k) := by
  rw [State.rd_count_raise s e hk, if_pos hclass, satAdd]
  omega

/-! ### Causes of PKG_ALERT -/

/-- A cause that is set stays so when any cause is set. -/
theorem State.on_alert_wr {s : State} {k : Nat} (c : Nat) (h : s.on (alertFld k) = true) : (s.wr (alertFld c) 1).on (alertFld k) = true := by
  rw [State.on_wr]
  split
  · rw [(alertFld_spec c).2, (alertFld_spec k).2]
    rfl
  · exact h

/-- R440: an event leaves every cause set that was set. -/
theorem State.on_alert_raise {s : State} {e : Event} {k : Nat} (hclass : e.code / 256 - 1 < 8) (h : s.on (alertFld k) = true) :
    (s.raise e).on (alertFld k) = true := by
  have haddr := (alertFld_spec k).1
  have hcount := countFld_addr (e.code / 256 - 1)
  have hshow : (s.showEvent e).on (alertFld k) = true := by
    rw [State.on, State.rd_showEvent s e (by omega), State.sat, State.rd_wr_ne _ _ (key_ne_of_addr (by omega))]
    exact h
  rw [State.on, State.rd_raise_noted s e (by omega) (by omega), State.noteEvent]
  cases alertBit e.code with
  | none => exact hshow
  | some c => exact State.on_alert_wr c hshow

/-- R440: an event sets its cause. -/
theorem State.on_alertBit_raise (s : State) {e : Event} {k : Nat} (hbit : alertBit e.code = some k) : (s.raise e).on (alertFld k) = true := by
  have haddr := (alertFld_spec k).1
  rw [State.on, State.rd_raise_noted s e (by omega) (by omega), State.noteEvent, hbit, Option.elim_some, State.rd_wr_self, (alertFld_spec k).2]
  rfl

end Sys2Proof.Machine
end

section
/-! SUPPORT. What a sample of the sensors keeps (R413–R417, R430, R440): the alarms that stand, and all that the reading of the
input voltage goes by and reports. -/

namespace Sys2Proof.Machine

/-- The power is as it was, the jobs but for their notes, no event of the pace class has been uncounted, and the sensor cause of
PKG_ALERT has not been cleared. -/
structure State.AlarmsKept (s t : State) : Prop extends s.OwedKept t where
  on : t.power.on = s.power.on
  count : s.rd (R.EVT_COUNT_COUNT 6) ≤ t.rd (R.EVT_COUNT_COUNT 6)
  alert : s.on R.PKG_ALERT_SENSOR = true → t.on R.PKG_ALERT_SENSOR = true

/-- What the reading of the input voltage goes by and reports is kept, beside the alarms. -/
structure State.InputKept (s t : State) : Prop extends s.AlarmsKept t where
  diffAt : t.power.diffAt = s.power.diffAt
  vinBad : t.power.vinBad = s.power.vinBad
  vin : t.rd R.PWR_INPUT_VIN = s.rd R.PWR_INPUT_VIN
  watts : t.rd R.PWR_INPUT_POWER = s.rd R.PWR_INPUT_POWER

theorem State.OwedKept.trans {s t u : State} (h1 : s.OwedKept t) (h2 : t.OwedKept u) : s.OwedKept u :=
  ⟨h1.toRingsKept.trans h2.toRingsKept, h2.jobs.trans h1.jobs⟩

/-- Jobs equal but for their notes have the same numbers. -/
theorem State.OwedKept.ids {s t : State} (h : s.OwedKept t) : t.jobs.map (·.id) = s.jobs.map (·.id) := by
  have hids : ∀ js : List Job, js.map (·.id) = (js.map Job.core).map (·.id) := fun js => by
    rw [List.map_map]
    rfl
  rw [hids, hids s.jobs, h.jobs]

namespace State.AlarmsKept

variable {s0 s : State}

theorem refl (s : State) : s.AlarmsKept s := ⟨State.OwedKept.refl s, rfl, Nat.le_refl _, id⟩

theorem trans {s t u : State} (h1 : s.AlarmsKept t) (h2 : t.AlarmsKept u) : s.AlarmsKept u :=
  ⟨h1.toOwedKept.trans h2.toOwedKept, h2.on.trans h1.on, Nat.le_trans h1.count h2.count, h2.alert ∘ h1.alert⟩

theorem wr (h : s0.AlarmsKept s) (f : Fld) (v : Nat) (hf : f.aboveMbx = true) (hcount : f.key ≠ (R.EVT_COUNT_COUNT 6).key)
    (halert : f.key ≠ R.PKG_ALERT_SENSOR.key) : s0.AlarmsKept (s.wr f v) where
  toOwedKept := h.toOwedKept.wr f v hf
  on := h.on
  count := by rw [State.rd_wr_ne s v hcount]; exact h.count
  alert := by rw [State.on, State.on, State.rd_wr_ne s v halert]; exact h.alert

/-- A change of the package's record that leaves the rails on. -/
theorem setPower (h : s0.AlarmsKept s) (p : Power) (hon : p.on = s.power.on) : s0.AlarmsKept { s with power := p } where
  toOwedKept := h.toOwedKept.of_eq rfl rfl rfl rfl
  on := hon.trans h.on
  count := h.count
  alert := h.alert

theorem raise (h : s0.AlarmsKept s) (e : Event) (hclass : e.code / 256 - 1 < 8) : s0.AlarmsKept (s.raise e) where
  toOwedKept := h.toOwedKept.raise e
  on := by rw [State.raise_frame]; exact h.on
  count := Nat.le_trans h.count (State.count_le_raise s e (by decide))
  alert h0 := State.on_alert_raise (k := 5) hclass (h.alert h0)

end State.AlarmsKept

/-- A register above the mailbox block, none of those that the input voltage's reading and its alarms stand in. -/
def Fld.offInput (f : Fld) : Bool :=
  f.aboveMbx && !([R.PWR_INPUT_VIN, R.PWR_INPUT_POWER, R.EVT_COUNT_COUNT 6, R.PKG_ALERT_SENSOR].map Fld.key).contains f.key

theorem Fld.offInput_iff (f : Fld) : f.offInput = true ↔ f.aboveMbx = true ∧ f.key ≠ R.PWR_INPUT_VIN.key ∧
    f.key ≠ R.PWR_INPUT_POWER.key ∧ f.key ≠ (R.EVT_COUNT_COUNT 6).key ∧ f.key ≠ R.PKG_ALERT_SENSOR.key := by
  simp [Fld.offInput]

/-- The registers of the compute dies. -/
theorem Fld.offInput_cdBase (d k lo w rst : Nat) (fused : Bool) : Fld.offInput ⟨cdBase d + k, lo, w, rst, fused⟩ = true := by
  rw [Fld.offInput_iff]
  refine ⟨Fld.aboveMbx_cdBase d k lo w rst fused, ?_⟩
  simp only [R.PWR_INPUT_VIN, R.PWR_INPUT_POWER, R.EVT_COUNT_COUNT, R.PKG_ALERT_SENSOR, Fld.key, cdBase]
  omega

namespace State.InputKept

variable {s0 s : State}

theorem refl (s : State) : s.InputKept s := ⟨State.AlarmsKept.refl s, rfl, rfl, rfl, rfl⟩

/-! ### Elementary changes -/

theorem updDie (h : s0.InputKept s) (d : Nat) (f : Die → Die) : s0.InputKept (s.updDie d f) where
  toOwedKept := h.toOwedKept.updDie d f
  on := h.on
  count := h.count
  alert := h.alert
  diffAt := h.diffAt
  vinBad := h.vinBad
  vin := h.vin
  watts := h.watts

theorem updPace (h : s0.InputKept s) (d : Nat) (f : PaceSt → PaceSt) : s0.InputKept (s.updPace d f) := h.updDie d _

theorem wr (h : s0.InputKept s) (f : Fld) (v : Nat) (hf : f.offInput = true) : s0.InputKept (s.wr f v) := by
  obtain ⟨habove, hvin, hwatts, hcount, halert⟩ := (Fld.offInput_iff f).1 hf
  exact ⟨h.toAlarmsKept.wr f v habove hcount halert, h.diffAt, h.vinBad, (State.rd_wr_ne s v hvin).trans h.vin,
    (State.rd_wr_ne s v hwatts).trans h.watts⟩

theorem wrDie (h : s0.InputKept s) (d k lo w rst : Nat) (fused : Bool) (v : Nat) :
    s0.InputKept (s.wr ⟨cdBase d + k, lo, w, rst, fused⟩ v) :=
  h.wr _ v (Fld.offInput_cdBase d k lo w rst fused)

/-- A change of the package's record that leaves the rails on and what the voltage's readings noted. -/
theorem setPower (h : s0.InputKept s) (p : Power) (hon : p.on = s.power.on) (hdiff : p.diffAt = s.power.diffAt)
    (hbad : p.vinBad = s.power.vinBad) : s0.InputKept { s with power := p } :=
  ⟨h.toAlarmsKept.setPower p hon, hdiff.trans h.diffAt, hbad.trans h.vinBad, h.vin, h.watts⟩

theorem raise (h : s0.InputKept s) (e : Event) (hclass : e.code / 256 - 1 < 8) : s0.InputKept (s.raise e) where
  toAlarmsKept := h.toAlarmsKept.raise e hclass
  diffAt := by rw [State.raise_frame]; exact h.diffAt
  vinBad := by rw [State.raise_frame]; exact h.vinBad
  vin := (State.rd_raise s e hclass (by decide)).trans h.vin
  watts := (State.rd_raise s e hclass (by decide)).trans h.watts

theorem ite {c : Prop} [Decidable c] {x y : State} (hx : s0.InputKept x) (hy : s0.InputKept y) : s0.InputKept (if c then x else y) := by
  split
  · exact hx
  · exact hy

/-- What every step of a fold keeps, the fold keeps. -/
theorem foldl {α : Type} {f : State → α → State} (hf : ∀ t a, s0.InputKept t → s0.InputKept (f t a)) (as : List α)
    (h : s0.InputKept s) : s0.InputKept (as.foldl f s) := by
  induction as generalizing s with
  | nil => exact h
  | cons a as ih => exact ih (hf s a h)

/-! ### The parts of a sample -/

/-- R413, R416: a die's junction reading. -/
theorem senseDie (h : s0.InputKept s) (d : Nat) (tj : Int) (need : Nat) : s0.InputKept (s.senseDie d tj need) := by
  unfold State.senseDie
  extract_lets p far bad v1 v2 held v3
  have h1 : s0.InputKept v1 := h.wrDie _ _ _ _ _ _ _
  have h2 : s0.InputKept v2 := ite h1 (h1.wrDie _ _ _ _ _ _ _)
  have h3 : s0.InputKept v3 := ite (h2.raise _ (show Ev.PM_SENSOR / 256 - 1 < 8 by decide)) h2
  exact ((h3.wrDie _ _ _ _ _ _ _).updPace d _).updPace d _

/-- R415: the caps moved for the input power. -/
theorem powerCaps (h : s0.InputKept s) (power : Nat) : s0.InputKept (s.powerCaps power) := by
  unfold State.powerCaps
  extract_lets limit tooMuch under overAt underAt ds shift above below put
  have hshift : ∀ l f, s0.InputKept (shift s l f) := fun l _ => foldl (fun _ d ht => ht.updPace d _) l h
  have hput : ∀ t u step, s0.InputKept t → s0.InputKept (put t u step) := fun _ _ _ ht => ht.setPower _ rfl rfl rfl
  clear_value shift put
  exact ite (hput _ _ _ (hshift _ _)) (ite (hput _ _ _ (hshift _ _)) (hput _ _ _ h))

/-- R440: the condition of the cause HOT noted, and the cause set when it begins. -/
theorem alertHot (h : s0.InputKept s) (now : Bool) : s0.InputKept (s.alertCond 0 now) := by
  have h1 : s0.InputKept { s with power := { s.power with conds := if now then setBit s.power.conds 0 else clearBit s.power.conds 0 } } :=
    h.setPower _ rfl rfl rfl
  exact ite (h1.wr (alertFld 0) 1 (by decide)) h1

/-- R414: the cap that holds shown. -/
theorem showCap (h : s0.InputKept s) (d : Nat) : s0.InputKept (s.showCap d) := h.wrDie _ _ _ _ _ _ _

/-- R417: DEADLINE_AT_RISK raised, or the millisecond without a cause counted. -/
theorem checkRisk (h : s0.InputKept s) : s0.InputKept s.checkRisk := by
  unfold State.checkRisk
  extract_lets keep
  have hkeep : ∀ c, s0.InputKept (keep s c) := fun _ => h.setPower _ rfl rfl rfl
  split
  · exact ite (hkeep _) ((((hkeep _).wr _ _ (by decide)).wr _ _ (by decide)).raise _ (by decide))
  · exact hkeep _

end State.InputKept

end Sys2Proof.Machine
end

section
/-! SUPPORT. The hub's reading of VIN (R430), and the obligation. -/

namespace Sys2Proof.Machine

/-- R430: a reading outside 30–70 V, or one that has differed from the comparators' by more than 2.0 V for 1 ms. -/
def State.vinImplausible (s : State) (vin cmp : Nat) : Prop :=
  vin < 3000 ∨ 7000 < vin ∨
    heldFor (since (decide (200 < (Int.ofNat vin - Int.ofNat cmp).natAbs)) s.power.diffAt s.time) s.time 1000000 = true

/-- What the reading of VIN does and leaves. -/
structure State.VinRead (s t : State) (vin cmp : Nat) : Prop extends s.AlarmsKept t where
  shown : t.rd R.PWR_INPUT_VIN = min vin 0xFFFF
  watts : t.rd R.PWR_INPUT_POWER = s.rd R.PWR_INPUT_POWER
  judged : t.power.vinBad = true ↔ s.vinImplausible vin cmp
  raised : t.power.vinBad = true → s.power.vinBad = false → t.on R.PKG_ALERT_SENSOR = true ∧
    ∀ n, n ≤ s.rd (R.EVT_COUNT_COUNT 6) → n < 2 ^ 64 - 1 → n < t.rd (R.EVT_COUNT_COUNT 6)

/-- R430: the reading is reported and judged, and PM_SENSOR raised where an implausible one follows a plausible one. -/
theorem State.vinRead_senseVin (s : State) (vin cmp : Nat) : s.VinRead (s.senseVin vin cmp) vin cmp := by
  unfold State.senseVin
  extract_lets off diffAt bad band _ _ reported
  have hbad : bad = true ↔ s.vinImplausible vin cmp := by
    simp only [bad, diffAt, off, State.vinImplausible, Bool.or_eq_true, decide_eq_true_eq, or_assoc]
  have hkept : s.AlarmsKept reported :=
    ((State.AlarmsKept.refl s).wr R.PWR_INPUT_VIN _ (by decide) (by decide) (by decide)).setPower _ rfl
  have hshown : reported.rd R.PWR_INPUT_VIN = min vin 0xFFFF :=
    (State.rd_wr_self s R.PWR_INPUT_VIN _).trans (Nat.mod_eq_of_lt (by simp only [R.PWR_INPUT_VIN]; omega))
  have hwatts : reported.rd R.PWR_INPUT_POWER = s.rd R.PWR_INPUT_POWER := State.rd_wr_ne s _ (by decide)
  split
  · exact
      { toAlarmsKept := hkept.raise _ (by decide)
        shown := (State.rd_raise _ _ (by decide) (by decide)).trans hshown
        watts := (State.rd_raise _ _ (by decide) (by decide)).trans hwatts
        judged := by rw [State.raise_frame]; exact hbad
        raised := fun _ _ => ⟨State.on_alertBit_raise (k := 5) _ rfl,
          fun n hn hmax => State.count_lt_raise (by decide) rfl (Nat.le_trans hn hkept.count) hmax⟩ }
  · next hold =>
    have hnone : bad = true → s.power.vinBad = false → False := fun h1 h0 => hold (by rw [h1, h0]; rfl)
    exact { toAlarmsKept := hkept, shown := hshown, watts := hwatts, judged := hbad, raised := fun h1 h0 => (hnone h1 h0).elim }

/-- A sample in its order: the junctions are taken, the input power is reported and the caps are moved for it, VIN is read, and
what follows keeps what that reading reported. -/
theorem throttleSample_parts {s : State} (hon : s.power.on = true) (tjs : List Int) (needs : List Nat) (power vin cmp : Nat) :
    ∃ s1 s2 t, s.InputKept s1 ∧ (s1.wr R.PWR_INPUT_POWER (min power 0xFFFF)).InputKept s2 ∧ (s2.senseVin vin cmp).InputKept t ∧
      exec (.throttleSample tjs needs power vin cmp) s = .next t := by
  have hrun : exec (.throttleSample tjs needs power vin cmp) s = execThrottleSample tjs needs power vin cmp s := rfl
  rw [execThrottleSample, if_pos hon] at hrun
  lift_lets at hrun
  extract_lets s1 s2 s3 at hrun
  refine ⟨s1, _, _, ?_, (State.InputKept.refl _).powerCaps power, ?_, hrun⟩
  · refine State.InputKept.foldl (fun t d ht => ?_) _ (State.InputKept.refl s)
    split
    · exact ht.senseDie d _ _
    · exact ht
  · refine (State.InputKept.foldl (fun t d ht => ht.showCap d) _ ?_).checkRisk
    simp only [s3]
    split
    · exact (((State.InputKept.refl _).wr _ _ (by decide)).wr _ _ (by decide)).alertHot _
    · exact State.InputKept.refl _

/-- Settles O14: all but the reading of VIN keeps what that reading goes by and reports, and the reading itself is `senseVin`. -/
theorem inputMeasured : Obligations.InputMeasured := by
  unfold Obligations.InputMeasured
  intro s tjs needs power vin cmp hon
  obtain ⟨s1, s2, t, h1, h2, h3, hexec⟩ := throttleSample_parts hon tjs needs power vin cmp
  have hread := s2.vinRead_senseVin vin cmp
  have hreport : s1.AlarmsKept (s1.wr R.PWR_INPUT_POWER (min power 0xFFFF)) :=
    (State.AlarmsKept.refl s1).wr _ _ (by decide) (by decide) (by decide)
  have hbefore : s.AlarmsKept s2 := (h1.toAlarmsKept.trans hreport).trans h2.toAlarmsKept
  have hall : s.AlarmsKept t := (hbefore.trans hread.toAlarmsKept).trans h3.toAlarmsKept
  have hdiff : s2.power.diffAt = s.power.diffAt := h2.diffAt.trans h1.diffAt
  have hwas : s2.power.vinBad = s.power.vinBad := h2.vinBad.trans h1.vinBad
  refine ⟨t, hexec, h3.vin.trans hread.shown, ?_, hall.on.trans hon, hall.ids, ?_, ?_⟩
  · calc t.rd R.PWR_INPUT_POWER = (s1.wr R.PWR_INPUT_POWER (min power 0xFFFF)).rd R.PWR_INPUT_POWER :=
          h3.watts.trans (hread.watts.trans h2.watts)
      _ = min power 0xFFFF % 2 ^ 16 := State.rd_wr_self _ _ _
      _ = min power 0xFFFF := Nat.mod_eq_of_lt (by omega)
  · rw [h3.vinBad, hread.judged, State.vinImplausible, hdiff, hbefore.time]
  · intro hbad hgood hmax
    obtain ⟨hset, hcounted⟩ := hread.raised (h3.vinBad.symm.trans hbad) (hwas.trans hgood)
    exact ⟨Nat.lt_of_lt_of_le (hcounted _ hbefore.count hmax) h3.count, h3.alert hset⟩

end Sys2Proof.Machine
end
